-- ==== Sys2Proof/Word.lean ====
section
/-! DEFINITION. Words, bytes and the sparse table type of the model. -/

namespace Sys2Proof

/-- One byte of any memory (R10). -/
abbrev Byte := BitVec 8

/-- A 32-bit register word (R13). -/
abbrev Word := BitVec 32

/-- A 64-bit register, digest or device value (R13). -/
abbrev DWord := BitVec 64

/-- A sparse table from numbers to values. Its unlisted entries read as a default that the reader names;
`Tab.get` and `Tab.set` (Machine/Tab.lean) are its operations and keep its canonical form. -/
abbrev Tab (α : Type) := List (Nat × α)

end Sys2Proof
end

