-- ==== Sys2Proof/Syntax.lean ====
section
/-! DEFINITION. The commands of the module, one constructor per row of spec/opcode_table.json, and the operand
types they need. The table gives its rows no operands, so the operands are the model's choice (log entry 1):
what the step needs from outside the block. -/

namespace Sys2Proof

/-- The hub engines that take jobs from rings (R290, R298, R334). -/
inductive RingEngine where
  | bce | kcx | mot
  deriving DecidableEq, Repr

/-- The context registers that CTX_CFG_WRITE stores (R363, R387 to R395). -/
inductive CtxReg where
  | cfg | admitAt | period | load | cells | scope | first | guard0 | guard1 | guard2
  deriving DecidableEq, Repr

/-- The registers of one thaw-window entry (R422, R423). -/
inductive ThawReg where
  | cfg | pos | len
  deriving DecidableEq, Repr

/-- What a task-1 window reads of one laser module (R455): the powers of its outputs by their monitor photodiodes, its interlock loop and its case
temperature. -/
structure LaserReading where
  laser : Nat
  powers : List Nat
  loopOpen : Bool
  temperature : BitVec 8
  deriving DecidableEq, Repr

/-- What the units outside the hub find when a thaw window runs its task (R402): the laser readings of tasks 1
and 7, the bias change in thousandths of nominal that task 3 derives from the calibration reports, the spare cells
that fail task 5, and the capacitance that task 7 measures, in 0.01 mF, with the bank's voltage in mV (none when it is not due). -/
structure ThawWork where
  lasers : List LaserReading
  biasPermil : Int
  failedSpares : List Nat
  ccal : Option (BitVec 16 × Nat)
  deriving DecidableEq, Repr

/-- The listed settings other than stepping, as a barrier arrival of fabric start carries them (R2, R413). -/
structure Settings where
  device : BitVec 16
  profile : BitVec 16
  clockPlan : BitVec 16
  powerPlan : BitVec 16
  deriving DecidableEq, Repr

/-- The stages of bring-up (R473, R487). -/
inductive BootStage where
  | config | memory | cells | optics
  deriving DecidableEq, Repr

/-- The PTP messages of an end-to-end slave (R481): an Announce with the rank of the master's data set in the order of the best master clock
algorithm, lowest best, a one-step or two-step Sync, its Follow_Up, and the delay request and response. -/
inductive PtpKind where
  | announce (rank : Nat)
  | sync (twoStep : Bool)
  | followUp
  | delayReq
  | delayResp
  deriving DecidableEq, Repr

/-- Where a ladder request comes from (R498, R576). -/
inductive LadderSource where
  | register | i3c | smbus
  deriving DecidableEq, Repr

/-- What wakes the module from Glacier (R501). -/
inductive WakeSource where
  | perst | sideband | pcie
  deriving DecidableEq, Repr

/-- The causes of the hardware shutdown (R504), in the order of PWR_STATUS.last_shutdown (R519). -/
inductive ShutdownCause where
  | temperature | inputLow | inputHigh
  deriving DecidableEq, Repr

/-- What a UART read at the verification port names (R516). -/
inductive VerifyItem where
  | identity | checksum | counter | registers | log
  deriving DecidableEq, Repr

/-- Why a stream sequencer halts (R547). -/
inductive SeqHaltCause where
  | request | breakpoint (k : Fin 4) | diverge
  deriving DecidableEq, Repr

/-- The two sideband buses, I3C served before SMBus (R576). -/
inductive SidebandBus where
  | i3c | smbus
  deriving DecidableEq, Repr

/-- What a PLDM firmware update writes into the service stash (R575). -/
inductive StashItem where
  | supervisor (image : List (BitVec 8))
  | clockPlan (id : BitVec 16) (cclkMHz : Nat)
  | powerPlan (id : BitVec 16) (capW warnC tripC : Nat)
  deriving DecidableEq, Repr

/-- A host write to a tally (R235): its value, how many pending increments fall in its HCLK cycle, and the Shodo arrivals of that cycle. -/
structure TallyWrite where
  val : BitVec 32
  count : Nat
  arrivals : List (BitVec 32)
  deriving DecidableEq, Repr

/-- Where a control word comes from (R437): the port that receives it and its sequence. -/
structure WordFrom where
  port : Fin 24
  seq : BitVec 16
  deriving DecidableEq, Repr

/-- What a barrier release says (R413, R439): its frame number and the floe positions that are refused. -/
structure Release where
  frame : BitVec 32
  refused : BitVec 16
  deriving DecidableEq, Repr

/-- A segment as written (R434, R436): the word's flits value, less 1 as in FAB_CHAN_SEG, and the bytes of its flits. -/
structure Segment where
  flits : BitVec 16
  data : List (BitVec 8)
  deriving DecidableEq, Repr

/-- The place of a media packet (R478): its row, and the pixel or sample along it. -/
structure MediaPlace where
  row : Nat
  offset : Nat
  deriving DecidableEq, Repr

/-- A house RTP packet (R476, R480): the media port that receives it and its RTP payload. -/
structure HousePacket where
  port : Fin 4
  payload : List (BitVec 8)
  deriving DecidableEq, Repr

/-- The header of a PTP message (R481): its domain, the identity of the clock that sends it, and its sequence. -/
structure PtpHeader where
  domain : BitVec 7
  sender : BitVec 64
  seq : BitVec 16
  deriving DecidableEq, Repr

/-- A PLDM firmware update (R507, R575): what it writes, and the capacitor bank's voltage as measured before its sessions, in mV. -/
structure StashUpdate where
  item : StashItem
  millivolts : Nat
  deriving DecidableEq, Repr

/-- The commands of the module: the steps of spec/opcode_table.json, each whole and indivisible. -/
inductive Instr where
  /-- REGISTER_WRITE (R11): A BAR0 write to a register field that has no row of its own stores, sets or clears bits according to the field's access code. -/
  | registerWrite (off : BitVec 28) (wide : Bool) (val hwSet hwClear : BitVec 64)
  /-- READ_CLEAR (R11): A read of an RC field returns its value and then clears it, keeping any event that lands in the same cycle for the next read. -/
  | readClear (off : BitVec 28) (wide : Bool) (late : BitVec 64)
  /-- SPLIT_64_ACCESS (R14): A 32-bit access to one half of a 64-bit register latches or returns the high word, or holds or discards the low word. -/
  | split64Access (off : BitVec 28) (write : Bool) (val : BitVec 32)
  /-- RESERVED_ACCESS (R16): An access to reserved BAR0 space reads zero or discards the write, and is counted. -/
  | reservedAccess (off : BitVec 28) (wide write : Bool) (val : BitVec 64)
  /-- MISALIGNED_ACCESS (R17): A BAR0 access of the wrong width or alignment reads all ones or discards the write, and is counted. -/
  | misalignedAccess (off : BitVec 28) (bytes : Nat) (write : Bool)
  /-- BAR2_ACCESS (R250): A host access through the BAR2 aperture reaches device memory, or treats holes and busy cell windows as holes. -/
  | bar2Access (off : BitVec 36) (len : Nat) (data : Option (List (BitVec 8)))
  /-- DOORBELL (R218): A write of a new tail to a queue's doorbell page is accepted or refused. -/
  | doorbell (q : Fin 4096) (tail : BitVec 32)
  /-- QUEUE_ENTRY_FETCH (R221): The queue manager fetches a queue entry and checks its CRC, seq, type and descriptor address, halting the queue on failure. -/
  | queueEntryFetch (q : Fin 4096)
  /-- COMMAND_LOAD (R226): The load engine reads a command's descriptor, image table and images into the free store halves of its cells. -/
  | commandLoad (q : Fin 4096)
  /-- COMMAND_READY (R226): The load checks and image digests complete, and the command becomes ready or ends with a program or digest fault. -/
  | commandReady (q : Fin 4096)
  /-- COMMAND_START (R214): A sequencer starts the first eligible ready command in scan order, and the start reaches its cells 10 SCLK cycles later. -/
  | commandStart (n : Fin 8)
  /-- BUNDLE_DISPATCH (R190): The cell sequencer fetches a bundle, checks its check byte and dispatches its slots to the unit queues, unless something holds it. -/
  | bundleDispatch (p : Fin 36)
  /-- NOP (R189): An empty slot does nothing. -/
  | nop (p : Fin 36)
  /-- MMA (R195): An array instruction issues, is checked for refusal, and folds its logical tile into passes on the accumulator banks. -/
  | mma (p : Fin 36)
  /-- ARRAY_PASS (R84): A pass begins issuing outer products once its bank is free, with its preload broadcast, and ends in a swap or a hold. -/
  | arrayPass (p : Fin 36)
  /-- ARRAY_DRAIN (R83): A swapped bank drains row by row when the drain port frees, converting and writing its rows and checking every row and column against the checksums. -/
  | arrayDrain (p : Fin 36)
  /-- CHK_INJECT_ARM (R101): A write with arm set prepares the inversion of one accumulator bit in the next drain that begins after the write. -/
  | chkInjectArm (p : Fin 36) (val : BitVec 32)
  /-- MEM_CLEAR (R107): A write of 1 to CEL_MEM_CTRL.clear starts a zero clear of an idle cell's memory, or sets clear_refused while a command runs. -/
  | memClear (p : Fin 36) (val : BitVec 32)
  /-- MEM_CLEAR_DONE (R107): The zero clear of cell memory ends after 12,288 CCLK cycles, and the cell accepts commands again. -/
  | memClearDone (p : Fin 36)
  /-- PATTERN_LOAD (R202): Writes one pattern entry from a record, 2 CCLK cycles after issue. -/
  | patternLoad (p : Fin 36)
  /-- S2D (R114): Space-to-depth regroups a planar tensor by block size b. -/
  | s2d (p : Fin 36)
  /-- D2S (R114): Depth-to-space performs the exact inverse of space-to-depth. -/
  | d2s (p : Fin 36)
  /-- TRANSPOSE (R115): Transposes a matrix in square tiles. -/
  | transpose (p : Fin 36)
  /-- XIN2 (R117): The input transform of F(2x2,3x3) writes V for each transformed position. -/
  | xin2 (p : Fin 36)
  /-- XIN4 (R117): The input transform of F(4x4,3x3) writes V for each transformed position, in fast mode only. -/
  | xin4 (p : Fin 36)
  /-- XOUT2 (R118): The output transform of F(2x2,3x3) forms and writes the outputs, and flags any nonzero remainder in freeze mode. -/
  | xout2 (p : Fin 36)
  /-- XOUT4 (R119): The output transform of F(4x4,3x3) forms and writes the outputs. -/
  | xout4 (p : Fin 36)
  /-- CROP (R121): Crop-and-resize samples the boxes of a box list, bilinear or nearest, into fixed-size outputs. -/
  | crop (p : Fin 36)
  /-- DMA (R233): A DMA instruction issues a transfer between cell memory and the device address space. -/
  | dma (p : Fin 36)
  /-- DMA_COMPLETE (R265): A DMA makes its last write, checks its digest, and signals its tally or ends the command with status 0x07. -/
  | dmaComplete (p : Fin 36) (id : Nat)
  /-- ADD (R136): Element-wise addition. -/
  | add (p : Fin 36)
  /-- SUB (R136): Element-wise subtraction. -/
  | sub (p : Fin 36)
  /-- MUL (R136): Element-wise multiplication. -/
  | mul (p : Fin 36)
  /-- MADD (R136): Element-wise multiply-add a × b + c. -/
  | madd (p : Fin 36)
  /-- MIN (R136): Element-wise minimum. -/
  | min (p : Fin 36)
  /-- MAX (R136): Element-wise maximum. -/
  | max (p : Fin 36)
  /-- ABS (R136): Element-wise absolute value, saturating. -/
  | abs (p : Fin 36)
  /-- NEG (R136): Element-wise negation, saturating. -/
  | neg (p : Fin 36)
  /-- SHIFT (R136): Element-wise arithmetic shift, rounding a right shift to nearest even. -/
  | shift (p : Fin 36)
  /-- SELECT (R136): Compares a with zero and writes b or c. -/
  | select (p : Fin 36)
  /-- CONVERT (R62): Element-wise format conversion. -/
  | convert (p : Fin 36)
  /-- RSUM (R138): Row sum in a fixed reduction order. -/
  | rsum (p : Fin 36)
  /-- RMIN (R138): Row minimum. -/
  | rmin (p : Fin 36)
  /-- RMAX (R138): Row maximum. -/
  | rmax (p : Fin 36)
  /-- RMEAN (R139): Row mean. -/
  | rmean (p : Fin 36)
  /-- RVAR (R140): Row mean and variance in two passes, with the uniform-row and clamp cases. -/
  | rvar (p : Fin 36)
  /-- NORM (R142): Row normalisation with a reciprocal square root. -/
  | norm (p : Fin 36)
  /-- SOFTMAX (R143): Row soft maximum on the A32 path or the exact integer path. -/
  | softmax (p : Fin 36)
  /-- TANH (R145): Exactly rounded tanh. -/
  | tanh (p : Fin 36)
  /-- LOGISTIC (R145): Exactly rounded logistic function. -/
  | logistic (p : Fin 36)
  /-- EXP (R145): Exactly rounded exponential. -/
  | exp (p : Fin 36)
  /-- LOG (R145): Exactly rounded natural logarithm. -/
  | log (p : Fin 36)
  /-- ARGMAX (R150): Writes, for each position, the index of the largest channel and optionally its value. -/
  | argmax (p : Fin 36)
  /-- SCALE_LOAD (R155): Copies entries from cell memory into a scale bank and sets the bank's loaded bit. -/
  | scaleLoad (p : Fin 36)
  /-- DERIVE (R172): Computes scale or fused-table entries from statistics records. -/
  | derive (p : Fin 36)
  /-- BLOCK_CONVERT (R177): Converts tensors into or out of the B4 and B8 block formats. -/
  | blockConvert (p : Fin 36)
  /-- LOOP (R193): Runs the following bundles as a counted loop body. -/
  | loop (p : Fin 36) (countM1 : BitVec 13) (lengthM1 : BitVec 12)
  /-- WAIT (R205): Holds its bundle until a tally reaches the wait base plus k. -/
  | wait (p : Fin 36) (tally : Fin 4096) (k : BitVec 13)
  /-- WAIT_RELEASE (R205): A tally change satisfies a held WAIT, and the bundle is released 40 HCLK plus 6 CCLK cycles later. -/
  | waitRelease (p : Fin 36)
  /-- SIGNAL (R205): Adds an increment to a tally at dispatch. -/
  | signal (p : Fin 36) (tally : Fin 4096) (incM1 : BitVec 13)
  /-- SIGNAL_DONE (R205): Arms a tally increment that waits until every earlier instruction of the cell has completed. -/
  | signalDone (p : Fin 36) (tally : Fin 4096) (incM1 : BitVec 13)
  /-- SIGNAL_DONE_EFFECT (R205): The last earlier instruction completes, and the armed SIGNAL_DONE adds its increment. -/
  | signalDoneEffect (p : Fin 36)
  /-- FENCE (R206): Holds its bundle until every earlier instruction in the named queues has completed. -/
  | fence (p : Fin 36) (array vector ag dma : Bool)
  /-- TAG (R207): Sets the operator tag and layer that later instructions carry. -/
  | tag (p : Fin 36) (tag : BitVec 16) (layer : BitVec 9)
  /-- END (R206): Stops fetch for the command. -/
  | endStream (p : Fin 36)
  /-- INSTRUCTION_COMPLETE (R205): An instruction reaches its completion point as its unit's rule defines. -/
  | instructionComplete (p : Fin 36) (id : Nat)
  /-- CELL_COMMAND_COMPLETE (R206): Every dispatched instruction completes; the cell evaluates scale faults and writes its statistics records. -/
  | cellCommandComplete (p : Fin 36)
  /-- COMMAND_COMPLETE (R225): The sequencer merges statistics, writes the completion record, signals the done tally and returns the credit, halting the queue on a halting status. -/
  | commandComplete (q : Fin 4096)
  /-- RECOVERY_COMMAND (R173): After a scale fault, the sequencer issues the named recovery command once, on the same cells. -/
  | recoveryCommand (q : Fin 4096)
  /-- COMMAND_RETRY (R524): A command of a retry-enabled context that ends with status 0x04, 0x05 or 0x07 runs once more, with its images reloaded where needed. -/
  | commandRetry (q : Fin 4096)
  /-- SCALE_WINDOW_WRITE (R158): A host write to a scale-bank entry is stored while no command runs, and otherwise discarded and flagged. -/
  | scaleWindowWrite (p : Fin 36) (entry : Fin 4096) (val : BitVec 64)
  /-- FUSED_TABLE_WRITE (R169): A host write to a fused-table entry follows the rules of the scale window. -/
  | fusedTableWrite (p : Fin 36) (entry : Fin 1024) (high : Bool) (val : BitVec 64)
  /-- TABLE_LOAD (R148): A table-load entry starts writing a numerics-profile image to one function table bank of every cell, unless the bank is pinned or the identifier is invalid. -/
  | tableLoad (q : Fin 4096)
  /-- TABLE_LOAD_DONE (R148): The image digest is checked; the bank becomes ready or enters digest fault, and the completion record is written. -/
  | tableLoadDone
  /-- REGULATOR_TICK (R237): At each regulator tick, a regulated queue adds its rate to its level, up to the burst. -/
  | regulatorTick (q : Fin 4096)
  /-- QUE_CFG_WRITE (R239): A write to QUE_CFG enables, reconfigures or is refused. -/
  | queCfgWrite (q : Fin 4096) (val : BitVec 32)
  /-- QUEUE_FLUSH (R243): On a halted queue, discards the staged entries and sets head to tail. -/
  | queueFlush (q : Fin 4096)
  /-- QUEUE_RESUME (R243): Clears halted, and fetch resumes at head. -/
  | queueResume (q : Fin 4096)
  /-- TAL_VALUE_WRITE (R235): A host write sets a tally to the written value plus that cycle's other updates. -/
  | talValueWrite (t : Fin 4096) (w : TallyWrite)
  /-- TAL_ADD_WRITE (R235): A host write adds a value to a tally. -/
  | talAddWrite (t : Fin 4096) (w : TallyWrite)
  /-- TALLY_UPDATE (R235): All updates to a tally that fall in one HCLK cycle change it once, by their sum. -/
  | tallyUpdate (t : Fin 4096) (count : Nat) (arrivals : List (BitVec 32))
  /-- CELL_OWNER_CHANGE (R213): A changed cell owner takes effect at the first frame boundary at which the cell is idle. -/
  | cellOwnerChange (c : Fin 32)
  /-- SHELF_ATTACH (R258): A write to attach starts training a shelf group's links and reading the shelf's identity. -/
  | shelfAttach (g : Fin 2)
  /-- SHELF_ATTACHED (R258): At the first station frame boundary after training, the group enters the attached state. -/
  | shelfAttached (g : Fin 2) (sizeGiB : BitVec 13) (engines : BitVec 3)
  /-- SHELF_DETACH (R260): A write to detach sets detach_pending and refuses new accesses to the window. -/
  | shelfDetach (g : Fin 2)
  /-- SHELF_PARK (R260): At a frame boundary with no transaction outstanding, the group parks its links and becomes absent. -/
  | shelfPark (g : Fin 2)
  /-- SHELF_DEADLINE (R259): A tier-3 transaction is delivered or completed exactly 4,000 HCLK cycles after issue. -/
  | shelfDeadline (g : Fin 2) (txn : Nat) (arrived : Bool)
  /-- SHELF_LATE_COMPLETION (R259): Data arriving after the deadline completes the transaction, is counted, and clears the freeze-timing flag. -/
  | shelfLateCompletion (g : Fin 2) (txn : Nat) (cycles : BitVec 32)
  /-- SHELF_LOST (R259): When nothing arrives within 50 µs after the deadline, the group enters the lost state. -/
  | shelfLost (g : Fin 2)
  /-- SHELF_ENGINE_FAIL (R261): An engine of a shelf group fails; the group runs at two thirds share, or is lost when no engine is left. -/
  | shelfEngineFail (g : Fin 2) (e : Fin 3)
  /-- BCE_RING_TAIL (R290): A tail write to a BCE job ring is accepted or refused. -/
  | bceRingTail (n : Fin 8) (tail : BitVec 32)
  /-- KCX_RING_TAIL (R298): A tail write to a coding-complex job ring is accepted or refused. -/
  | kcxRingTail (n : Fin 16) (tail : BitVec 32)
  /-- MOT_RING_TAIL (R334): A tail write to a motion-engine job ring is accepted or refused. -/
  | motRingTail (n : Fin 8) (tail : BitVec 32)
  /-- RING_CFG_WRITE (R294): A write to a hub-engine ring's configuration is applied, or discarded while the ring is enabled. -/
  | ringCfgWrite (e : RingEngine) (n : Fin 16) (val : BitVec 32)
  /-- RING_FLUSH (R243): Flushes a halted hub-engine ring. -/
  | ringFlush (e : RingEngine) (n : Fin 16)
  /-- RING_RESUME (R243): Resumes a halted hub-engine ring. -/
  | ringResume (e : RingEngine) (n : Fin 16)
  /-- BCE_COMPRESS (R282): A compression job codes each block by candidate search, verifies it by self-decode, and writes the output. -/
  | bceCompress (n : Fin 8)
  /-- BCE_DECOMPRESS (R287): A decompression job checks the header and row digests, then decodes the requested block rows. -/
  | bceDecompress (n : Fin 8)
  /-- BCE_JOB_COMPLETE (R293): A BCE job writes its completion record and signals the done tally, or on failure signals the fault tally and halts the ring. -/
  | bceJobComplete (n : Fin 8)
  /-- OPEN_ENC (R322): Opens a state block for encoding a unit on L lanes. -/
  | openEnc (n : Fin 16)
  /-- OPEN_DEC (R325): Searches its window for a unit, checks its headers and profile, and opens the state block for decoding. -/
  | openDec (n : Fin 16)
  /-- PASS_ENC (R299): Builds the job's tables and range-encodes its symbols on the lanes, stopping with output full when room runs out. -/
  | passEnc (n : Fin 16)
  /-- PASS_DEC (R300): Builds the job's tables and range-decodes its symbols, faulting lanes on errors. -/
  | passDec (n : Fin 16)
  /-- CLOSE_ENC (R322): Flushes the lanes and writes the frame header, unit and end-of-frame pieces. -/
  | closeEnc (n : Fin 16)
  /-- CLOSE_DEC (R326): Checks that every lane read its segment exactly, and closes the unit. -/
  | closeDec (n : Fin 16)
  /-- WRAP (R319): Wraps a BCE job output as an escaped floor unit. -/
  | wrap (n : Fin 16)
  /-- UNWRAP (R327): Finds a floor unit in its window, checks it, and writes the unescaped payload. -/
  | unwrap (n : Fin 16)
  /-- KCX_JOB_COMPLETE (R324): A coding job writes its completion record and signals the done tally, or on a halting status the fault tally. -/
  | kcxJobComplete (n : Fin 16)
  /-- SEARCH (R338): Motion search evaluates the candidates, refines them and writes each block's vector field entry. -/
  | search (n : Fin 8)
  /-- COMPENSATE (R343): Checks the blocks, substitutes where needed, and writes the motion-compensated prediction. -/
  | compensate (n : Fin 8)
  /-- POOL (R348): Applies the frame's release and store actions to its context's reference pool. -/
  | pool (n : Fin 8)
  /-- POOL_CLEAR (R345): Clears a context's reference pool. -/
  | poolClear (n : Fin 8)
  /-- MOT_JOB_COMPLETE (R336): A motion job writes its completion record and signals its tally. -/
  | motJobComplete (n : Fin 8)
  /-- CTX_CREATE (R362): A write to create makes an idle context pending, or refuses it. -/
  | ctxCreate (c : Fin 64)
  /-- CTX_RELEASE (R363): A write to release moves an active or stalled context to releasing. -/
  | ctxRelease (c : Fin 64)
  /-- CTX_IDLE (R363): When no frame of a releasing context is in flight, it becomes idle and unpins its bank. -/
  | ctxIdle (c : Fin 64)
  /-- CTX_RESUME (R370): A write to resume makes a stalled context active from its next admission position. -/
  | ctxResume (c : Fin 64)
  /-- CTX_CFG_WRITE (R363): A write to a context configuration register is stored in the idle state and otherwise discarded and flagged. -/
  | ctxCfgWrite (c : Fin 64) (reg : CtxReg) (val : BitVec 64)
  /-- ADMISSION_POSITION (R367): At a context's admission position, the hub takes its frame, or defers, drops or stalls it. -/
  | admissionPosition (c : Fin 64)
  /-- DEFERRED_FRAME_TAKEN (R369): A deferred frame is taken in the cycle after a completion frees a place. -/
  | deferredFrameTaken (c : Fin 64)
  /-- FRAME_WATCHDOG (R530): A frame not complete after w admission positions is abandoned, and its context stalls. -/
  | frameWatchdog (c : Fin 64)
  /-- GUARD_CHECK (R380): At a halo guard's deadline, the tally is compared with its expected value, and the guard trips when it falls short. -/
  | guardCheck (c : Fin 64) (i : Fin 3)
  /-- PROFILE_SWITCH (R409): At switch_frame, active_id takes pending_id when the profile is ready on every cell, and otherwise the switch is refused. -/
  | profileSwitch
  /-- THAW_WINDOW_OPEN (R402): At its station position, a thaw window opens and runs its task, or is deferred. -/
  | thawWindowOpen (n : Fin 16) (work : ThawWork)
  /-- THAW_WINDOW_FORCED (R405): An entry that reaches max_defer deferrals is forced at the next station frame boundary. -/
  | thawWindowForced (n : Fin 16) (work : ThawWork)
  /-- THAW_WINDOW_ABORT (R404): Foreground work takes a unit that a deferrable window claims, and the window is aborted. -/
  | thawWindowAbort (n : Fin 16)
  /-- THAW_WINDOW_END (R402): A thaw window reaches its length and releases its units. -/
  | thawWindowEnd (n : Fin 16)
  /-- THAW_CFG_WRITE (R422): A write to a thaw-window entry is stored, or discarded and flagged. -/
  | thawCfgWrite (n : Fin 16) (reg : ThawReg) (val : BitVec 32)
  /-- BARRIER_POSITION (R412): At the barrier's station position, the module sends its arrival toward the root. -/
  | barrierPosition
  /-- BARRIER_ARRIVAL (R439): A received barrier arrival is combined, passed upward, or at the root leads to a release broadcast, refusing mismatched settings at fabric start. -/
  | barrierArrival (src : WordFrom) (members : BitVec 16) (settings : Option Settings)
  /-- BARRIER_RELEASE (R439): A received barrier release is passed to the children and scheduled for action after the horizon. -/
  | barrierRelease (seq : BitVec 16) (r : Release) (above : BitVec 11)
  /-- BARRIER_RELEASE_ACT (R412): The release takes effect: it signals the tally, latches the skew, and at fabric start loads the frame number. -/
  | barrierReleaseAct
  /-- BARRIER_TIMEOUT (R412): No release arrives within 65,536 TCLK cycles of the arrival, and timeout is set. -/
  | barrierTimeout
  /-- RR_MODE_START (R417): A mode change to record, replay or off takes effect at the next station frame boundary. -/
  | rrModeStart
  /-- RR_CTRL_WRITE (R427): A write to STT_RR_CTRL is stored, or discarded outside the off state. -/
  | rrCtrlWrite (val : BitVec 32)
  /-- CHANNEL_ENABLE (R432): A write to FAB_CHAN_CFG enables a channel and records its tally base, or is refused. -/
  | channelEnable (c : Fin 256) (val : BitVec 32)
  /-- SEGMENT_SEND (R433): A ready segment's flits are sent in the channel's slots, followed by its control word. -/
  | segmentSend (c : Fin 256)
  /-- SEGMENT_COMPLETE (R434): A segment-complete control word together with the written flits adds the receive channel's increment to its tally. -/
  | segmentComplete (c : Fin 256) (seq : BitVec 16) (g : Segment)
  /-- READY_STATE (R442): A ready-state control word reports the peer ready or not ready, with its segment counts. -/
  | readyState (src : WordFrom) (ready : Bool) (completed : List (BitVec 16))
  /-- CALIBRATION_REPORT (R443): A calibration-report control word returns the lane data of the peer. -/
  | calibrationReport (src : WordFrom) (lane : Fin 8) (report : BitVec 80)
  /-- SPARE_SWITCH (R444): A spare-switch control word agrees the port frame at which lane 7 takes over a failed lane. -/
  | spareSwitch (src : WordFrom) (lane : Fin 8) (frame : Nat)
  /-- SPARE_SWITCH_TAKE (R444): At the agreed port frame, lane 7 takes the failed lane's role. -/
  | spareSwitchTake (a : Fin 24)
  /-- LANE_FAILURE (R444): A data lane loses lock or fails too many alignment symbols, and is spared or starts a relock. -/
  | laneFailure (a : Fin 24) (lane : Fin 8) (symbols : BitVec 16)
  /-- PORT_DEGRADE (R444): At the next station frame boundary after a second lane fails, the port degrades to 46 slots. -/
  | portDegrade (a : Fin 24)
  /-- CONTROL_WORD_FAULT (R437): Both copies of a control word fail, or the sequence skips, and the port relocks. -/
  | controlWordFault (a : Fin 24)
  /-- PORT_RETRAIN (R441): A write to retrain starts a full training of the port. -/
  | portRetrain (a : Fin 24)
  /-- FAB_PORT_ENABLE (R456): A write to enable parks or enables a Shodo port. -/
  | fabPortEnable (a : Fin 24) (enable : Bool)
  /-- PORT_READY (R440): Training or relock completes; latency is measured and channels resume. -/
  | portReady (a : Fin 24) (peerFloe : BitVec 16) (peerPos : BitVec 4) (peerPort : BitVec 5) (latency : BitVec 11) (peerReady : Bool)
  /-- LASER_REMOVE (R449): A removal request by write or latch button is accepted or refused. -/
  | laserRemove (m : Fin 16)
  /-- LASER_HANDOVER (R450): At the frame boundary, the partner ramps up its cross-feed while the leaving module ramps down. -/
  | laserHandover (m : Fin 16)
  /-- LASER_RELEASED (R450): The handover ends; the leaving module's wear is written and it is released. -/
  | laserReleased (m : Fin 16)
  /-- LASER_INSERT (R446): An inserted laser module's identity is read and checked. -/
  | laserInsert (m : Fin 16) (ident : List (BitVec 8))
  /-- LASER_TAKE_UP (R451): At the next frame boundary, the inserted module takes up its primary output. -/
  | laserTakeUp (m : Fin 16)
  /-- LASER_FAILURE (R452): A laser module fails or is removed without release, and its partner cross-feeds within 20 µs. -/
  | laserFailure (m : Fin 16) (removed : Bool)
  /-- INTERLOCK_OPEN (R453): An opened interlock loop darkens the laser module within 50 µs. -/
  | interlockOpen (m : Fin 16)
  /-- CONNECTOR_OPEN (R453): An opened fibre connector closes the engine's input shutter. -/
  | connectorOpen (e : Fin 32)
  /-- LASER_COMMAND (R454): A supervisor laser command is accepted or ignored by the laser module. -/
  | laserCommand (m : Fin 16) (word : BitVec 64)
  /-- WEAR_TICK (R447): Each second, wear is added for every lit laser module. -/
  | wearTick
  /-- WEAR_STASH_WRITE (R447): Every 60 s, the wear counts are written to the service stash. -/
  | wearStashWrite
  /-- COLD_START (R473): A PERST# deassertion with the supervisor powered starts the staged bring-up. -/
  | coldStart
  /-- READY_SET (R475): All stages complete and ready sets, or a failing stage is recorded. -/
  | readySet (stage : BootStage) (passed : Bool) (readings : List LaserReading)
  /-- MBOX_CFG_WRITE (R465): A write to HST_MBOX_CFG enables or disables the mailbox, evicting its lines. -/
  | mboxCfgWrite (val : BitVec 64)
  /-- MBOX_MAP_WRITE (R465): A write to a mailbox map sets a line's kind and group, or is refused. -/
  | mboxMapWrite (n : Fin 256) (val : BitVec 32)
  /-- SNPINV (R466): An invalidating snoop of a mailbox line is answered, and a doorbell line is read again. -/
  | snpInv (n : Fin 256)
  /-- SNPDATA (R466): A data snoop of a mailbox line is answered. -/
  | snpData (n : Fin 256)
  /-- SNPCUR (R466): A current-value snoop of a doorbell line is answered. -/
  | snpCur (n : Fin 256)
  /-- MAILBOX_READ_DATA (R466): RdShared data arrives, and each changed tail acts as a doorbell. -/
  | mailboxReadData (n : Fin 256) (data : List (BitVec 32))
  /-- HEAD_LINE_UPDATE (R467): The mailbox writes changed queue heads into its head line. -/
  | headLineUpdate (n : Fin 256)
  /-- GO_WRITEPULL (R468): The mailbox sends its buffered eviction bytes. -/
  | goWritePull (n : Fin 256)
  /-- GO_WRITEPULLDROP (R468): The mailbox's eviction completes without data. -/
  | goWritePullDrop (n : Fin 256)
  /-- HOST_PAGE_WRITE (R471): A spill page is written whole to the next host page, followed by its host record. -/
  | hostPageWrite (c : Fin 64) (credits : Bool)
  /-- LINK_DOWN (R471): The host link goes down, and an interrupted page is rewritten when it returns. -/
  | linkDown
  /-- MEDIA_PACKET_RECEIVE (R478): A received ST 2110 or ST 2022-7 packet is placed in its buffer or discarded. -/
  | mediaPacketReceive (n : Fin 64) (port : Fin 4) (path : Bool) (seqNo stamp : BitVec 32) (place : MediaPlace) (payload : List (BitVec 8))
  /-- HOUSE_RTP_PACKET (R480): A house RTP packet is written to its ingress window, or discarded. -/
  | houseRtpPacket (c : Fin 64) (packet : HousePacket)
  /-- STREAM_COMMIT (R485): A write of commit takes the stream address for the next latch. -/
  | streamCommit (s : Fin 128) (val : BitVec 64)
  /-- MEDIA_LATCH (R485): At the latch instant, the pending committed address is latched. -/
  | mediaLatch (s : Fin 128)
  /-- MEDIA_FRAME_SEND (R486): A send stream starts a frame, repeating the previous buffer when its ready tally falls short. -/
  | mediaFrameSend (s : Fin 64)
  /-- STATION_FRAME_BOUNDARY (R482): A station frame begins, applying any pending step and register changes. -/
  | stationFrameBoundary
  /-- STATION_STEP (R483): A write of step schedules a position step at the next frame boundary. -/
  | stationStep (val : BitVec 32)
  /-- REFERENCE_LOSS (R483): The house reference is lost and station time enters holdover. -/
  | referenceLoss
  /-- TIME_LOCK (R483): Phase error stays below 100 ns for 16 frames, and station time locks. -/
  | timeLock
  /-- EXPOSURE_PULSE (R484): An accepted exposure-pulse edge starts a station frame, and any other edge is ignored and counted. -/
  | exposurePulse (widthNs : Nat)
  /-- PTP_MESSAGE (R481): A PTP event message is timestamped and used to steer station time. -/
  | ptpMessage (port : Fin 4) (head : PtpHeader) (kind : PtpKind) (masterNs stampNs : Int)
  /-- LADDER_REQUEST (R498): A target state is requested by register or sideband. -/
  | ladderRequest (src : LadderSource) (target : BitVec 3)
  /-- LADDER_MOVE_DOWN (R498): Once its conditions hold, the module moves one state down the power ladder. -/
  | ladderMoveDown (l12 : Bool)
  /-- LADDER_MOVE_UP (R500): The module moves one state up, powering domains, clearing memories and applying pending plans. -/
  | ladderMoveUp (readings : List LaserReading)
  /-- FIRN_REQUEST_TIMEOUT (R498): A Frost-to-Firn move whose conditions are not met within 1 s is refused. -/
  | firnRequestTimeout
  /-- GLACIER_WAKE (R501): A wake from Glacier by PERST#, sideband or PCIe starts bring-up. -/
  | glacierWake (src : WakeSource)
  /-- SENSOR_SAMPLE (R502): Every 10 µs the supervisor samples power and temperature, and sets flags or starts a protective descent. -/
  | sensorSample (volts power avg1ms avg100ms : Nat) (dies : List Nat)
  /-- DESCENT_TIMEOUT (R503): 20 ms into a protective descent, the module enters Slush and abandons running work. -/
  | descentTimeout
  /-- PROTECTIVE_CLEAR (R503): After 1 s within limits, protective clears. -/
  | protectiveClear (powerBelow tempBelow : Bool)
  /-- HARDWARE_SHUTDOWN (R504): Over-temperature or an input-voltage fault switches domains off into Glacier without firmware. -/
  | hardwareShutdown (cause : ShutdownCause)
  /-- STASH_SESSION (R507): A stash write session opens when the bank holds enough energy, and is refused otherwise. -/
  | stashSession (millivolts : Nat) (pages : Nat) (page0 : Nat) (data : List (BitVec 8))
  /-- STASH_RETRY (R507): 1 s after a refusal, the supervisor tries the session again. -/
  | stashRetry (millivolts : Nat)
  /-- METER_INTERVAL (R510): Each 1 ms interval, the island adds its energy to the tagged accounting register. -/
  | meterInterval (microWh : Nat)
  /-- TAG_MESSAGE (R511): At each frame boundary, the hub sends the tag message to the island. -/
  | tagMessage (noise : BitVec 32)
  /-- TAG_TIMEOUT (R511): 100 ms without a valid message leaves no valid tag, and the fault is counted. -/
  | tagTimeout
  /-- METER_SUMMARY (R512): Every 60 s, the island logs a summary record. -/
  | meterSummary
  /-- ISLAND_FIRMWARE_UPDATE (R515): A signed image at the open verification port is loaded and switched in. -/
  | islandFirmwareUpdate (ident image : List (BitVec 8)) (sigOk : Bool)
  /-- SEAL_OPEN (R514): Opening the seal switch logs a record and increments the event counter. -/
  | sealOpen
  /-- SEAL_CLOSE (R512): Closing the seal switch logs a record. -/
  | sealClose
  /-- VERIFICATION_READ (R516): A UART read at the verification port returns identity, checksum, counter, registers or log. -/
  | verificationRead (item : VerifyItem)
  /-- CELL_RETIRE (R527): A retire write marks an active cell for retirement. -/
  | cellRetire (slab : Fin 4) (val : BitVec 32)
  /-- CELL_REMAP (R528): At the first idle frame boundary, a spare takes the marked cell's index, or the index becomes inactive. -/
  | cellRemap (p : Fin 36)
  /-- REMAP_COMPLETE (R528): The copy to the spare ends, and it serves the logical index. -/
  | remapComplete (p : Fin 36)
  /-- SEQ_FW_LOAD (R537): A write of load loads a firmware image into the inactive slot. -/
  | seqFwLoad
  /-- SEQ_FW_LOAD_DONE (R537): The image's digest and signature are checked, and the slot becomes ready or faulted. -/
  | seqFwLoadDone (sigOk : Bool)
  /-- SEQ_FW_SWITCH (R537): A write of switch requests a slot switch at switch_frame. -/
  | seqFwSwitch
  /-- FW_SLOT_SWITCH (R537): At switch_frame, all sequencers change to the ready slot, or the switch is refused. -/
  | fwSlotSwitch
  /-- CELL_HALT (R544): A write of halt stops dispatch at the next bundle boundary. -/
  | cellHalt (p : Fin 36)
  /-- CELL_HALTED (R543): Every dispatched instruction has completed, and the cell reads halted. -/
  | cellHalted (p : Fin 36)
  /-- CELL_RESUME (R546): A write of resume clears the halt reasons and restarts dispatch. -/
  | cellResume (p : Fin 36)
  /-- CELL_STEP (R546): A write of step dispatches one bundle and then halts. -/
  | cellStep (p : Fin 36)
  /-- CLEAR_TAGS (R551): Clears the tag counter store. -/
  | clearTags (p : Fin 36)
  /-- SEQ_HALT (R547): A sequencer halts on request, breakpoint or divergence, and starts no command. -/
  | seqHalt (n : Fin 8) (cause : SeqHaltCause)
  /-- SEQ_RESUME (R547): A sequencer resumes its scan. -/
  | seqResume (n : Fin 8)
  /-- TRACE_CLEAR (R564): Empties the trace buffer and resets its write index. -/
  | traceClear
  /-- LEAK_DETECTED (R573): The wetted leak sensor asserts LEAK# and starts a protective descent. -/
  | leakDetected (wet : Bool)
  /-- PLDM_SET_STATE (R576): A PLDM state effecter request asks for a ladder state. -/
  | pldmSetState (bus : SidebandBus) (target : BitVec 3)
  /-- PLDM_FIRMWARE_UPDATE (R575): A PLDM firmware update writes supervisor firmware or plans to the stash. -/
  | pldmFirmwareUpdate (update : StashUpdate)
  /-- HOST_LINK_RETURN (R471): The PCIe link comes back up after going down, and the host link rewrites the interrupted spill page from its first byte. -/
  | hostLinkReturn
  /-- PERST_ASSERTION (R475): Assertion of PERST# resets the module, clearing ready. -/
  | perstAssertion
  /-- SUPERVISOR_POWER_UP (R505): The supervisor domain powers up: PWR_UPTIME starts from 0, PWR_BOOT increases and C_cal is measured. -/
  | supervisorPowerUp (ccal : BitVec 16) (millivolts : Nat)
  /-- INPUT_POWER_RESTORED (R571): The 48 V input returns, the island powers up and logs a power-up record, and the supervisor leaves its 3V3_AUX-only state. -/
  | inputPowerRestored
  /-- REFERENCE_RESTORED (R483): The house reference returns after a loss, and station time leaves holdover to acquire it again. -/
  | referenceRestored
  /-- CONNECTOR_CLOSE (R453): A fibre connector's presence contact closes again, reopening the engine's input path. -/
  | connectorClose (e : Fin 32)
  /-- CACHE_ENABLE_WRITE (R465): The host sets or clears Cache Enable in the CXL DVSEC, letting the mailbox hold lines or making it evict them. -/
  | cacheEnableWrite (enable : Bool)
  /-- JTAG_INSTRUCTION (R577): An instruction shifted into the TAP selects BYPASS or boundary scan according to PERST# and the power state. -/
  | jtagInstruction (code : BitVec 8)
  /-- METER_CALIBRATION_CHANGE (R514): The island's calibration changes, which logs a type-8 record and increments the event counter. -/
  | meterCalibrationChange (data : BitVec 64)
  /-- LOGGED_COMPLETION_MISSED (R418): During replay, a logged completion's cycle passes without a matching completion, so diverged is set and the sequencers may halt. -/
  | loggedCompletionMissed
  /-- REPLAY_LOGGED_INPUT (R417): During replay, the module takes a logged input (admission, doorbell, tally input, thaw start, late completion, ring tail or barrier arrival) at its logged cycle, in place of the live one. -/
  | replayLoggedInput
  deriving DecidableEq, Repr

end Sys2Proof
end

