-- ==== Sys2Proof/Decode.lean ====
section
/-! DEFINITION. The command that a word spells. The rows of spec/opcode_table.json carry no bits, so no word spells a command (log
entry 1). -/

namespace Sys2Proof

/-- The command that the `nbits` low bits of `w` spell by the table's bits: none, for the table gives none. -/
def decodeTableWord (_nbits _w : Nat) : Option Instr := none

end Sys2Proof
end

