-- ==== Sys2Proof/Machine/Tab.lean ====
section
/-! DEFINITION. Sparse tables: reading, writing and the canonical form (strictly rising keys, no entry equal to
what an unlisted key reads as), and the bit-field helpers every register and record uses. -/

namespace Sys2Proof.Machine

/-- The value of key `k`: the first entry listed for it, else the default. -/
def tabGet {α : Type} (d : Nat → α) : Tab α → Nat → α
  | [], k => d k
  | (k', v) :: t, k => if k' = k then v else tabGet d t k

/-- The table without key `k`. -/
def tabErase {α : Type} : Tab α → Nat → Tab α
  | [], _ => []
  | (k', v) :: t, k => if k' = k then tabErase t k else (k', v) :: tabErase t k

/-- `v` entered for `k` before the first greater key. -/
def tabInsert {α : Type} : Tab α → Nat → α → Tab α
  | [], k, v => [(k, v)]
  | (k', v') :: t, k, v => if k < k' then (k, v) :: (k', v') :: t else (k', v') :: tabInsert t k v

/-- The table after writing `v` to `k`; writing what an unlisted key reads as removes the entry. -/
def tabSet {α : Type} [DecidableEq α] (d : Nat → α) (t : Tab α) (k : Nat) (v : α) : Tab α :=
  if v = d k then tabErase t k else tabInsert (tabErase t k) k v

/-- Every key of the table is above `lo`, keys rise strictly, and no entry equals its default. -/
def tabWfFrom {α : Type} [DecidableEq α] (d : Nat → α) : Option Nat → Tab α → Bool
  | _, [] => true
  | lo, (k, v) :: t => (match lo with | none => true | some b => decide (b < k)) && decide (v ≠ d k) && tabWfFrom d (some k) t

/-- The canonical form. -/
def tabWf {α : Type} [DecidableEq α] (d : Nat → α) (t : Tab α) : Bool := tabWfFrom d none t

/-- Bits [hi:lo] of a number. -/
def bitsOf (w hi lo : Nat) : Nat := (w / 2 ^ lo) % 2 ^ (hi + 1 - lo)

/-- Bit `i` of a number. -/
def bitOf (w i : Nat) : Bool := decide ((w / 2 ^ i) % 2 = 1)

/-- Bits [hi:lo] of a register word. -/
def getBits (w : DWord) (hi lo : Nat) : Nat := bitsOf w.toNat hi lo

/-- The mask of bits [hi:lo]. -/
def maskBits (hi lo : Nat) : DWord := BitVec.ofNat 64 ((2 ^ (hi + 1 - lo) - 1) * 2 ^ lo)

/-- The register word with bits [hi:lo] replaced by `v` (its low bits). -/
def putBits (w : DWord) (hi lo v : Nat) : DWord :=
  (w &&& ~~~ maskBits hi lo) ||| (BitVec.ofNat 64 (v * 2 ^ lo) &&& maskBits hi lo)

/-- Bits [hi:lo] of a number as a two's-complement integer. -/
def sbitsOf (w hi lo : Nat) : Int :=
  let n := hi + 1 - lo
  let v := bitsOf w hi lo
  if v < 2 ^ (n - 1) then v else (v : Int) - 2 ^ n

/-- The two's-complement reading of an `n`-bit number. -/
def toSigned (n v : Nat) : Int := if v % 2 ^ n < 2 ^ (n - 1) then (v % 2 ^ n : Nat) else ((v % 2 ^ n : Nat) : Int) - 2 ^ n

/-- The `n`-bit two's-complement pattern of an integer. -/
def ofSigned (n : Nat) (x : Int) : Nat := (x % 2 ^ n).toNat

/-- Ceiling division. -/
def ceilDiv (a b : Nat) : Nat := (a + b - 1) / b

/-- The little-endian number in a list of bytes (R10). -/
def leNat : List Byte → Nat
  | [] => 0
  | b :: t => b.toNat + 256 * leNat t

/-- `n` little-endian bytes of a number (R10). -/
def leBytes : Nat → Nat → List Byte
  | 0, _ => []
  | n + 1, v => BitVec.ofNat 8 v :: leBytes n (v / 256)

/-- A Bool as 0 or 1. -/
def b2n (b : Bool) : Nat := if b then 1 else 0

/-- A count of `w` bits that holds at its maximum. -/
def satAdd (w v inc : Nat) : Nat := Nat.min (v + inc) (2 ^ w - 1)

end Sys2Proof.Machine
end

