-- ==== Sys2Proof/Machine/Num.lean ====
section
/-! DEFINITION. Number formats: codes and values (R37 to R47), exact arithmetic on dyadic numbers, and the one
rounding operation (R51 to R63). -/

namespace Sys2Proof.Machine

/-- The fifteen number formats (R37). -/
inductive Fmt where
  | i4 | i8 | i16 | i32 | i48 | b4 | b8 | s8 | p16 | f6 | f8a | f8b | f12 | f16 | a32
  deriving DecidableEq, Repr

/-- The format of a 4-bit code; code 0xF is reserved (R37). -/
def Fmt.ofCode : Nat → Option Fmt
  | 0 => some .i4 | 1 => some .i8 | 2 => some .i16 | 3 => some .i32 | 4 => some .i48 | 5 => some .b4 | 6 => some .b8
  | 7 => some .s8 | 8 => some .p16 | 9 => some .f6 | 10 => some .f8a | 11 => some .f8b | 12 => some .f12
  | 13 => some .f16 | 14 => some .a32 | _ => none

/-- Bits of one element; a block element counts its share in the block's element codes (R37, R46). -/
def Fmt.bits : Fmt → Nat
  | .i4 | .b4 => 4
  | .i8 | .b8 | .s8 | .f8a | .f8b => 8
  | .i16 | .p16 | .f16 => 16
  | .i32 | .a32 => 32
  | .i48 => 48
  | .f6 => 6
  | .f12 => 12

/-- The integer formats (R39). -/
def Fmt.isInt : Fmt → Bool
  | .i4 | .i8 | .i16 | .i32 | .i48 => true
  | _ => false

/-- The block formats (R46). -/
def Fmt.isBlock : Fmt → Bool
  | .b4 | .b8 => true
  | _ => false

/-- The float formats (R42). -/
def Fmt.isFloat : Fmt → Bool
  | .f6 | .f8a | .f8b | .f12 | .f16 | .a32 => true
  | _ => false

/-- The parameters of a float format: exponent bits, mantissa bits, bias (R43). -/
structure FSpec where
  ebits : Nat
  mbits : Nat
  bias : Int
  deriving DecidableEq, Repr

/-- R43. The formats that are no floats take the parameters of A32, which no rule reads. -/
def Fmt.spec : Fmt → FSpec
  | .f6 => ⟨3, 2, 4⟩
  | .f8a => ⟨4, 3, 8⟩
  | .f8b => ⟨5, 2, 16⟩
  | .f12 => ⟨5, 6, 16⟩
  | .f16 => ⟨6, 9, 32⟩
  | _ => ⟨8, 23, 128⟩

/-- The arithmetic modes of a command (R48). -/
inductive Mode where
  | fast | strict | freeze
  deriving DecidableEq, Repr

/-- Code 0b11 is reserved (R48). -/
def Mode.ofCode : Nat → Option Mode
  | 0 => some .fast | 1 => some .strict | 2 => some .freeze | _ => none

def Mode.code : Mode → Nat
  | .fast => 0 | .strict => 1 | .freeze => 2

/-- What an element is counted as (R61, R68). -/
inductive Ev where
  | none | flushed | saturated | invalid
  deriving DecidableEq, Repr

/-- Priority of events on one element: invalid, saturated, flushed (R68). -/
def Ev.rank : Ev → Nat
  | .none => 0 | .flushed => 1 | .saturated => 2 | .invalid => 3

/-- The one event an element with two events is counted for (R68). -/
def Ev.max (a b : Ev) : Ev := if a.rank < b.rank then b else a

/-- An exact dyadic number m × 2^e. -/
structure Dy where
  m : Int
  e : Int
  deriving DecidableEq, Repr

/-- A float value: NaN, an infinity or a finite dyadic number (R42). -/
inductive FVal where
  | nan
  | inf (neg : Bool)
  | fin (d : Dy)
  deriving DecidableEq, Repr

/-- An integer times a power of two with exponent at least 0, or divided by the power: scaled to exponent `e`. -/
def Dy.scaleTo (d : Dy) (e : Int) : Int := if e ≤ d.e then d.m * 2 ^ (d.e - e).toNat else d.m / 2 ^ (e - d.e).toNat

def Dy.add (a b : Dy) : Dy :=
  let e := if a.e ≤ b.e then a.e else b.e
  ⟨a.scaleTo e + b.scaleTo e, e⟩

def Dy.neg (a : Dy) : Dy := ⟨-a.m, a.e⟩
def Dy.mul (a b : Dy) : Dy := ⟨a.m * b.m, a.e + b.e⟩
def Dy.ofInt (x : Int) : Dy := ⟨x, 0⟩
def Dy.lt (a b : Dy) : Bool := decide ((a.add b.neg).m < 0)
def Dy.le (a b : Dy) : Bool := decide ((a.add b.neg).m ≤ 0)
def Dy.abs (a : Dy) : Dy := ⟨a.m.natAbs, a.e⟩
def Dy.isZero (a : Dy) : Bool := decide (a.m = 0)

def FVal.zero : FVal := .fin ⟨0, 0⟩

/-- How a rounding chooses between the two neighbours: to nearest with ties to even, toward zero, away from zero. -/
inductive RMode where
  | rne | trunc | away
  deriving DecidableEq, Repr

/-- The integer nearest to `n / d` in the given rounding. -/
def roundNat (r : RMode) (n d : Nat) : Nat :=
  let q := n / d
  let m := n % d
  match r with
  | .trunc => q
  | .away => if m = 0 then q else q + 1
  | .rne => if 2 * m > d || (2 * m == d && q % 2 == 1) then q + 1 else q

/-- Round to nearest, ties to even, of an integer over a positive integer. -/
def rneDiv (n : Int) (d : Nat) : Int :=
  let q : Int := roundNat .rne n.natAbs d
  if n < 0 then -q else q

/-- Round to nearest even of m × 2^(-t). -/
def rneScale (m : Int) (t : Int) : Int :=
  if t ≤ 0 then m * 2 ^ (-t).toNat else rneDiv m (2 ^ t.toNat)

/-- Round to nearest even of a dyadic number, as an integer. -/
def Dy.rne (d : Dy) : Int := rneScale d.m (-d.e)

/-- The binade k of n/d × 2^e with 2^k ≤ n/d × 2^e < 2^(k+1), for n and d not 0. -/
def ratBinade (n d : Nat) (e : Int) : Int :=
  let k : Int := (Nat.log2 n : Int) - (Nat.log2 d : Int)
  let ge := if 0 ≤ k then decide (d * 2 ^ k.toNat ≤ n) else decide (d ≤ n * 2 ^ (-k).toNat)
  (if ge then k else k - 1) + e

/-- A rounded magnitude r × 2^q in a format whose exponent range is unbounded above, with what befell it. -/
structure Rounded where
  r : Nat
  q : Int
  tooBig : Bool
  zeroed : Bool
  deriving DecidableEq, Repr

/-- The largest finite significand and its exponent (R43). -/
def FSpec.maxSig (f : FSpec) : Nat := 2 ^ (f.mbits + 1) - 2
def FSpec.maxExp (f : FSpec) : Int := (2 ^ f.ebits - 1 : Int) - f.bias - f.mbits

/-- The exponent of the last place of subnormals and of the lowest binade (R42). -/
def FSpec.minExp (f : FSpec) : Int := 1 - f.bias - f.mbits

/-- Round the positive rational n/d × 2^e to a format (R54, R56, R60 to R62). `flushSub` flushes a result below the
smallest normal to zero. -/
def roundRat (f : FSpec) (mode : RMode) (flushSub : Bool) (n d : Nat) (e : Int) : Rounded :=
  if n = 0 then ⟨0, f.minExp, false, false⟩ else
  let k := ratBinade n d e
  let q := if k - f.mbits < f.minExp then f.minExp else k - f.mbits
  let sh := e - q
  let r := if 0 ≤ sh then roundNat mode (n * 2 ^ sh.toNat) d else roundNat mode n (d * 2 ^ (-sh).toNat)
  if r = 0 || (flushSub && decide (r < 2 ^ f.mbits)) then ⟨0, f.minExp, false, true⟩ else
  let tooBig := decide (q > f.maxExp) || (decide (q = f.maxExp) && decide (r > f.maxSig))
  ⟨r, q, tooBig, false⟩

/-- The value of a code of a float format (R42). -/
def FSpec.decode (f : FSpec) (code : Nat) : FVal :=
  let m := bitsOf code (f.mbits - 1) 0
  let e := bitsOf code (f.mbits + f.ebits - 1) f.mbits
  let s := bitOf code (f.mbits + f.ebits)
  let sg : Int := if s then -1 else 1
  if e = 0 then
    if m = 0 then (if s then .nan else .zero) else .fin ⟨sg * m, f.minExp⟩
  else if e = 2 ^ f.ebits - 1 ∧ m = 2 ^ f.mbits - 1 then .inf s
  else .fin ⟨sg * (2 ^ f.mbits + m : Nat), (e : Int) - f.bias - f.mbits⟩

def FSpec.signBit (f : FSpec) (neg : Bool) : Nat := if neg then 2 ^ (f.ebits + f.mbits) else 0

/-- The codes of NaN, of an infinity and of the largest finite values (R42, R43). -/
def FSpec.nanCode (f : FSpec) : Nat := 2 ^ (f.ebits + f.mbits)
def FSpec.infCode (f : FSpec) (neg : Bool) : Nat := f.signBit neg + (2 ^ (f.ebits + f.mbits) - 1)
def FSpec.maxCode (f : FSpec) (neg : Bool) : Nat := f.signBit neg + (2 ^ (f.ebits + f.mbits) - 2)

/-- The code of ± r × 2^q that the format holds exactly; zero is +0 (R44). -/
def FSpec.encodeFin (f : FSpec) (neg : Bool) (r : Nat) (q : Int) : Nat :=
  if r = 0 then 0 else
  let r' := if r ≥ 2 ^ (f.mbits + 1) then r / 2 else r
  let q' := if r ≥ 2 ^ (f.mbits + 1) then q + 1 else q
  if r' < 2 ^ f.mbits then f.signBit neg + r'
  else f.signBit neg + (q' + f.mbits + f.bias).toNat * 2 ^ f.mbits + (r' - 2 ^ f.mbits)

/-- The code of a value that the format holds exactly. -/
def FSpec.encode (f : FSpec) : FVal → Nat
  | .nan => f.nanCode
  | .inf s => f.infCode s
  | .fin d =>
    let r := roundRat f .rne false d.m.natAbs 1 d.e
    f.encodeFin (decide (d.m < 0)) r.r r.q

/-- An arithmetic result from an exact rational: overflow gives an infinity counted as saturated, a nonzero result that
rounds or flushes to zero is +0 counted as flushed (R60, R61). -/
def roundArith (f : FSpec) (mode : RMode) (flushSub neg : Bool) (n d : Nat) (e : Int) : FVal × Ev :=
  let r := roundRat f mode flushSub n d e
  if r.tooBig then (.inf neg, .saturated)
  else if r.zeroed then (.zero, .flushed)
  else (.fin ⟨if neg then -(r.r : Int) else r.r, r.q⟩, .none)

/-- A32 result of an exact dyadic value in round to nearest even with subnormals kept (R60). -/
def a32Round (d : Dy) : FVal × Ev := roundArith Fmt.a32.spec .rne false (decide (d.m < 0)) d.m.natAbs 1 d.e

/-- The accumulation step of a mode: fast truncates and flushes, strict rounds to nearest even (R48, R54, R56). -/
def accRound (mode : Mode) (d : Dy) : FVal × Ev :=
  match mode with
  | .fast => roundArith Fmt.a32.spec .trunc true (decide (d.m < 0)) d.m.natAbs 1 d.e
  | _ => a32Round d

/-- The special cases of addition (R61): a decided result, or the exact sum. -/
def FVal.addExact (a b : FVal) : (FVal × Ev) ⊕ Dy :=
  match a, b with
  | .nan, _ => .inl (.nan, .none)
  | _, .nan => .inl (.nan, .none)
  | .inf s, .inf t => if s = t then .inl (.inf s, .none) else .inl (.nan, .invalid)
  | .inf s, .fin _ => .inl (.inf s, .none)
  | .fin _, .inf s => .inl (.inf s, .none)
  | .fin x, .fin y => .inr (x.add y)

def FVal.isNan : FVal → Bool
  | .nan => true
  | _ => false

/-- The exact sum of the finite values of a list. -/
def finSum (xs : List FVal) : Dy := xs.foldl (fun a x => match x with | .fin d => a.add d | _ => a) ⟨0, 0⟩

/-- The special cases of a sum of any number of values, in R61's order: a NaN operand is not counted, infinities of both signs are
invalid, one infinity stays; else the exact sum. -/
def sumExact (xs : List FVal) : (FVal × Ev) ⊕ Dy :=
  if xs.any (·.isNan) then .inl (.nan, .none)
  else if xs.contains (.inf false) && xs.contains (.inf true) then .inl (.nan, .invalid)
  else if xs.contains (.inf false) then .inl (.inf false, .none)
  else if xs.contains (.inf true) then .inl (.inf true, .none)
  else .inr (finSum xs)

/-- The special cases of multiplication (R61): a decided result, or the exact product. -/
def FVal.mulExact (a b : FVal) : (FVal × Ev) ⊕ Dy :=
  match a, b with
  | .nan, _ => .inl (.nan, .none)
  | _, .nan => .inl (.nan, .none)
  | .inf s, .inf t => .inl (.inf (s != t), .none)
  | .inf s, .fin d => if d.m = 0 then .inl (.nan, .invalid) else .inl (.inf (s != decide (d.m < 0)), .none)
  | .fin d, .inf s => if d.m = 0 then .inl (.nan, .invalid) else .inl (.inf (s != decide (d.m < 0)), .none)
  | .fin x, .fin y => .inr (x.mul y)

def FVal.neg : FVal → FVal
  | .nan => .nan | .inf s => .inf (!s) | .fin d => .fin d.neg

def FVal.abs : FVal → FVal
  | .nan => .nan | .inf _ => .inf false | .fin d => .fin d.abs

/-- A decided result as it stands, an exact one rounded to A32. -/
def a32Finish : (FVal × Ev) ⊕ Dy → FVal × Ev
  | .inl r => r
  | .inr d => a32Round d

/-- A32 addition, subtraction and multiplication outside the array (R60, R61). -/
def a32Add (a b : FVal) : FVal × Ev := a32Finish (a.addExact b)
def a32Sub (a b : FVal) : FVal × Ev := a32Add a b.neg
def a32Mul (a b : FVal) : FVal × Ev := a32Finish (a.mulExact b)

/-- Order of two values that are not NaN. -/
def FVal.lt : FVal → FVal → Bool
  | .nan, _ => false
  | _, .nan => false
  | .inf s, .inf t => s && !t
  | .inf s, .fin _ => s
  | .fin _, .inf t => !t
  | .fin x, .fin y => x.lt y

/-- Equality of values; equal NaNs count as equal. -/
def FVal.eqv (a b : FVal) : Bool :=
  match a, b with
  | .nan, .nan => true
  | .inf s, .inf t => s == t
  | .fin x, .fin y => decide ((x.add y.neg).m = 0)
  | _, _ => false

/-- What an element of a tensor stands for: an integer, a P16 code or a float (S8 and block elements read as floats). -/
inductive Val where
  | int (x : Int)
  | p16 (p : Nat)
  | flt (v : FVal)
  deriving DecidableEq, Repr

/-- The value of an S8 code (R45). -/
def s8Val (c : Nat) : FVal := if c = 255 then .nan else .fin ⟨1, (c : Int) - 127⟩

/-- The value of a block element (R46). -/
def blockVal (c : Nat) (q : Int) : FVal := if c = 255 then .nan else .fin ⟨q, (c : Int) - 127⟩

/-- The value of an element code of a format that is no block format; `uns` is the signedness bit of R40, which acts on
I4, I8 and I16 only. -/
def Fmt.decode (f : Fmt) (uns : Bool) (code : Nat) : Val :=
  match f with
  | .i4 | .i8 | .i16 => .int (if uns then (code : Int) else toSigned f.bits code)
  | .i32 | .i48 => .int (toSigned f.bits code)
  | .p16 => .p16 code
  | .s8 => .flt (s8Val code)
  | .b4 | .b8 => .int (toSigned f.bits code)
  | _ => .flt (f.spec.decode code)

/-- The value as a float value: what a conversion to a float format starts from (R63, R585). -/
def Val.toF : Val → FVal
  | .int x => .fin ⟨x, 0⟩
  | .p16 p => .fin ⟨p, -16⟩
  | .flt v => v

/-- The value as an integer where it is one (P16 stands for its code, R585). -/
def Val.toI : Val → Int
  | .int x => x
  | .p16 p => p
  | .flt _ => 0

/-- The range of an integer format (R39); only I4, I8 and I16 have an unsigned range. -/
def Fmt.range (f : Fmt) (uns : Bool) : Int × Int :=
  match f with
  | .i4 | .i8 | .i16 => if uns then (0, 2 ^ f.bits - 1) else (-(2 ^ (f.bits - 1)), 2 ^ (f.bits - 1) - 1)
  | .p16 => (0, 65535)
  | _ => (-(2 ^ (f.bits - 1)), 2 ^ (f.bits - 1) - 1)

/-- Saturation to the range of an integer format (R41). -/
def saturate (f : Fmt) (uns : Bool) (x : Int) : Int × Ev :=
  let r := f.range uns
  if x < r.1 then (r.1, .saturated) else if r.2 < x then (r.2, .saturated) else (x, .none)

end Sys2Proof.Machine
end

