-- ==== Sys2Proof/Machine/Convert.lean ====
section
/-! DEFINITION. Conversions between number formats: elements (R62, R63, R585), blocks (R64) and the split conversion
(R65), and the packed layout of elements (R38, R46). -/

namespace Sys2Proof.Machine

/-- Conversion to an integer format, to its value (R41, R63, R585). A nonzero float value that rounds to the integer 0 is counted
for nothing: R63 names no such event (DEDUCED, log entry 50). -/
def convInt (dst : Fmt) (uns : Bool) (v : Val) : Int × Ev :=
  match v with
  | .int x => saturate dst uns x
  | .p16 p => saturate dst uns p
  | .flt .nan => (0, .invalid)
  | .flt (.inf s) => let r := dst.range uns; (if s then r.1 else r.2, .saturated)
  | .flt (.fin d) => saturate dst uns d.rne

/-- Conversion to a float format, to its code (R62). -/
def convFloat (dst : Fmt) (propagate : Bool) (v : FVal) : Nat × Ev :=
  let f := dst.spec
  match v with
  | .nan => (f.nanCode, .none)
  | .inf s => if propagate then (f.infCode s, .none) else (f.maxCode s, .saturated)
  | .fin d =>
    let neg := decide (d.m < 0)
    let r := roundRat f .rne false d.m.natAbs 1 d.e
    if r.tooBig then ((if propagate then f.infCode neg else f.maxCode neg), .saturated)
    else if r.zeroed then (0, .flushed)
    else (f.encodeFin neg r.r r.q, .none)

/-- Conversion to P16 (R585). -/
def convP16 (v : Val) : Nat × Ev :=
  match v with
  | .int x => let r := saturate .p16 true x; (r.1.toNat, r.2)
  | .p16 p => (p, .none)
  | .flt .nan => (0, .invalid)
  | .flt (.inf s) => (if s then 0 else 65535, .saturated)
  | .flt (.fin d) =>
    let x := (Dy.mk d.m (d.e + 16)).rne
    if x < 0 then (0, .saturated) else if 65535 < x then (65535, .saturated)
    else if x = 0 && decide (d.m ≠ 0) then (0, .flushed) else (x.toNat, .none)

/-- Conversion of one element to a format that is no block format, to its code. No conversion makes an S8 code (R585):
an instruction that would is refused at issue. -/
def convElem (dst : Fmt) (uns propagate : Bool) (v : Val) : Nat × Ev :=
  match dst with
  | .p16 => convP16 v
  | .i4 | .i8 | .i16 | .i32 | .i48 => let r := convInt dst uns v; (ofSigned dst.bits r.1, r.2)
  | _ => convFloat dst propagate v.toF

/-- One block: scale code, element codes (signed), and the event of each element (R64). -/
structure BlockOut where
  c : Nat
  q : List Int
  ev : List Ev
  deriving DecidableEq, Repr

/-- Q of R64: 127 for B8, 7 for B4; and its bits. -/
def blockBits (f : Fmt) : Nat := if f = .b4 then 3 else 7

/-- The smallest t of R64 for a largest magnitude x that is not 0. -/
def blockExp (bits : Nat) (x : Dy) : Int :=
  let t := ratBinade x.m.natAbs 1 x.e - bits + 1
  if rneScale x.m.natAbs (t - x.e) ≤ 2 ^ bits - 1 then t else t + 1

/-- The larger magnitude. -/
def Dy.maxAbs (a b : Dy) : Dy := if a.abs.lt b.abs then b.abs else a.abs

/-- The largest magnitude of the finite values. -/
def maxAbs (xs : List FVal) : Dy :=
  xs.foldl (fun a v => match v with | .fin d => a.maxAbs d | _ => a) ⟨0, 0⟩

/-- Conversion of 32 values to one block (R64). -/
def blockConv (f : Fmt) (propagate : Bool) (xs : List FVal) : BlockOut :=
  let bits := blockBits f
  let qmax : Int := 2 ^ bits - 1
  let zeros := xs.map fun _ => (0 : Int)
  let nz := fun (v : FVal) => match v with | .fin d => decide (d.m ≠ 0) | _ => true
  let hasNan := xs.any (·.isNan)
  let hasInf := xs.any fun v => match v with | .inf _ => true | _ => false
  let mx := maxAbs xs
  let t := if mx.m = 0 then -127 else blockExp bits mx
  if hasNan then ⟨255, zeros, xs.map fun v => if v.isNan then .invalid else .none⟩
  else if hasInf || decide (127 < t) then
    let ev := xs.map fun v => if nz v then Ev.saturated else .none
    if propagate then ⟨255, zeros, ev⟩
    else ⟨254, xs.map fun v => if nz v then (if v.lt .zero then -qmax else qmax) else 0, ev⟩
  else
    let t := if t < -127 then -127 else t
    let q := xs.map fun v => match v with | .fin d => rneScale d.m (t - d.e) | _ => 0
    ⟨(t + 127).toNat, q, List.zipWith (fun v (x : Int) => if nz v && decide (x = 0) then Ev.flushed else .none) xs q⟩

/-- The largest magnitude of F12, 64,512 (R43). -/
def f12Max : Dy := ⟨Fmt.f12.spec.maxSig, Fmt.f12.spec.maxExp⟩

/-- The split conversion of an A32 value into two F12 codes (R65): high piece, low piece, event; none in freeze mode, which refuses
it. A finite value beyond the F12 range follows R62 with a low piece of +0 and counts as saturated, even where the high piece
rounds back to the largest value. Both pieces of a NaN are NaN and an infinite source has a low piece of +0 (DEDUCED, log entry
50, which also says that no opcode names the operation). -/
def splitConv (mode : Mode) (propagate : Bool) (v : FVal) : Option (Nat × Nat × Ev) :=
  if mode = .freeze then none else
  let h := convFloat .f12 propagate v
  match v with
  | .nan => some (h.1, Fmt.f12.spec.nanCode, .none)
  | .inf _ => some (h.1, 0, h.2)
  | .fin d =>
    if f12Max.lt d.abs then some (h.1, 0, .saturated) else
    match Fmt.f12.spec.decode h.1 with
    | .fin hd =>
      let l := convFloat .f12 propagate (.fin (d.add hd.neg))
      some (h.1, l.1, Ev.max h.2 l.2)
    | _ => some (h.1, 0, h.2)

/-- Bytes that `n` packed elements of a format take (R38, R46): whole bytes, whole 3-byte groups, whole blocks. -/
def packedBytes (f : Fmt) (n : Nat) : Nat :=
  match f with
  | .b4 => 17 * ceilDiv n 32
  | .b8 => 33 * ceilDiv n 32
  | .f6 => 3 * ceilDiv n 4
  | .f12 => 3 * ceilDiv n 2
  | _ => ceilDiv (n * f.bits) 8

/-- Element codes packed from bit 0 upwards (R38). -/
def packNat (bits : Nat) : List Nat → Nat
  | [] => 0
  | c :: t => c % 2 ^ bits + 2 ^ bits * packNat bits t

/-- The bytes of the packed elements of a format that is no block format (R38). -/
def packElems (f : Fmt) (cs : List Nat) : List Byte := leBytes (packedBytes f cs.length) (packNat f.bits cs)

/-- The bytes of one block (R46); missing elements of a last block are 0. -/
def packBlock (f : Fmt) (b : BlockOut) : List Byte :=
  let n := if f = .b4 then 16 else 32
  let bits := if f = .b4 then 4 else 8
  leBytes n (packNat bits (b.q.map (ofSigned bits))) ++ [BitVec.ofNat 8 b.c]

/-- `n` element codes unpacked from a little-endian number (R38). -/
def unpackNat (bits : Nat) : Nat → Nat → List Nat
  | 0, _ => []
  | n + 1, w => w % 2 ^ bits :: unpackNat bits n (w / 2 ^ bits)

/-- Consecutive groups of `k` elements of a list, the last one short; `fuel` bounds the groups. -/
def chunks {α : Type} (k : Nat) : Nat → List α → List (List α)
  | 0, _ => []
  | _, [] => []
  | fuel + 1, xs => xs.take k :: chunks k fuel (xs.drop k)

/-- The bytes of a row of values converted to a block format, the last block padded with zeros (R46, R64), and the events. -/
def packBlocks (f : Fmt) (propagate : Bool) (xs : List FVal) : List Byte × List Ev :=
  let bs := (chunks 32 xs.length xs).map fun g =>
    let o := blockConv f propagate (g ++ List.replicate (32 - g.length) .zero)
    (packBlock f o, o.ev.take g.length)
  (bs.flatMap (·.1), bs.flatMap (·.2))

end Sys2Proof.Machine
end

