-- ==== Sys2Proof/Machine/Crc.lean ====
section
/-! DEFINITION. The check codes: CRC-16 (R187), CRC-32C (R220), CRC-64 digest (R263), CRC-8 (R231), and the bundle check
byte (R186). -/

namespace Sys2Proof.Machine

/-- `n` steps of a CRC register of `w` bits that takes its input at the top bit. -/
def crcMsb (w poly : Nat) : Nat → Nat → Nat
  | 0, c => c
  | n + 1, c => crcMsb w poly n (if bitOf c (w - 1) then (c * 2 ^^^ poly) % 2 ^ w else c * 2 % 2 ^ w)

/-- `n` steps of a reflected CRC register. -/
def crcLsb (rpoly : Nat) : Nat → Nat → Nat
  | 0, c => c
  | n + 1, c => crcLsb rpoly n (if c % 2 = 1 then c / 2 ^^^ rpoly else c / 2)

/-- CRC-16, polynomial 0x1021, initial value 0xFFFF, most significant bit first (R187). -/
def crc16 (bs : List Byte) : Nat := bs.foldl (fun c b => crcMsb 16 0x1021 8 (c ^^^ (b.toNat * 256))) 0xFFFF

/-- CRC-8, polynomial 0x07, initial value 0 (R231). -/
def crc8 (bs : List Byte) : Nat := bs.foldl (fun c b => crcMsb 8 0x07 8 (c ^^^ b.toNat)) 0

/-- CRC-32C, polynomial 0x1EDC6F41 reflected (R220). -/
def crc32c (bs : List Byte) : Nat := bs.foldl (fun c b => crcLsb 0x82F63B78 8 (c ^^^ b.toNat)) 0xFFFFFFFF ^^^ 0xFFFFFFFF

/-- The 64-bit digest, polynomial 0x42F0E1EBA9EA3693 reflected (R263). -/
def digest64 (bs : List Byte) : Nat :=
  bs.foldl (fun c b => crcLsb 0xC96C5795D7870F42 8 (c ^^^ b.toNat)) 0xFFFFFFFFFFFFFFFF ^^^ 0xFFFFFFFFFFFFFFFF

/-- XOR of bytes (R186). -/
def xorBytes (bs : List Byte) : Nat := bs.foldl (fun c b => c ^^^ b.toNat) 0

end Sys2Proof.Machine
end

