-- ==== Sys2Proof/Config.lean ====
section
/-! DEFINITION. What a part or the outside fixes and the manual leaves open: opaque constants, so that no proof can
see a value of theirs (log entries 2 and 12). -/

namespace Sys2Proof

/-- A value that the manual leaves open where the machine goes on. The step reads it at `State.draws` and advances that
counter (log entry 2). -/
opaque Config.freeValue : Nat → BitVec 64

/-- The grouping of a part in fast mode (R54): 1, 2 or 4 consecutive products, by the value modulo 3. -/
opaque Config.fastGroup : List Nat → Nat

/-- Whether XIN2 and XIN4 read I4 and I8 input as unsigned (R40, R118), which no field says (R201). -/
opaque Config.xinUnsigned : Bool

/-- Which of the two bracketing A32 values a faithfully rounded result takes (R142, R143, R145): true for the upper one in
magnitude. The arguments name the function and its operand codes. -/
opaque Config.faithfulUp : Nat → List Int → Bool

/-- The ingress of a context (R480), which no register of the manual places: the number of units, the base and size of the window of a
unit in a frame slot, as offsets from the start of tier 2, and the offset of a slot's length table (log entry 13). -/
opaque Config.ingressUnits : Nat → Nat
opaque Config.ingressWindow : Nat → Nat → Nat → Nat × Nat
opaque Config.ingressTable : Nat → Nat → Nat

/-- The header of a sequencer firmware image, whose layout the manual leaves open (R537): the length that the first 64 bytes give, the
version, and whether the digest holds. -/
opaque Config.fwLength : BitVec 512 → Nat
opaque Config.fwVersion : List Byte → Nat
opaque Config.fwDigestOk : List Byte → Bool

/-- What a coding job needs and its descriptor does not hold (R317, R319): item 0 the region word of a unit, 1 the tensor count of an
adapter unit, 2 the plane index of a floor unit. -/
opaque Config.codingItem : Nat → BitVec 1024 → Nat

/-- The cumulative values that a table address gives where it holds no valid table of the job's alphabet (R304). -/
opaque Config.strayTable : Nat → Nat → Nat → Nat

/-- Whether the commands of a context use a Shodo port (R444), which no register says. -/
opaque Config.usesPort : Nat → Nat → Bool

/-- The identity memory of a laser module, whose layout the manual leaves open (R446): whether its CRC holds, field 0 serial number,
1 maximum bias in %, 2 cross-feed bias in %, 3 part number, 4 stored wear, 5 nominal bias in %, and the power that its calibration data
give for a bias in thousandths of nominal. -/
opaque Config.laserCrcOk : List Byte → Bool
opaque Config.laserField : Nat → List Byte → Nat
opaque Config.laserPower : List Byte → Nat → Nat

/-- The bias in thousandths of nominal that a laser command, its value and its output mask set, where the command sets one (R454). -/
opaque Config.laserBias : Nat → Nat → Nat → Option Nat

/-- The keep-warm bias in thousandths of nominal (R496). -/
opaque Config.keepWarm : Nat

/-- The wear that a second adds, by bias in thousandths and temperature in °C, in units of 2^-16 of LAS_WEAR's (R447). -/
opaque Config.wearStep : Nat → Nat → Nat

/-- What a media stream carries, 0 to 63 received and 64 to 127 sent, which no register says (R477, R478): its format (0 YCbCr 4:2:2 10-bit,
1 YCbCr 4:4:4 12-bit, 2 RGB 4:4:4 12-bit, 3 L24 audio, other values ancillary data), the rows and the samples per row of its buffer (bytes
per row for ancillary data), its channels, whether it is an ST 2022-7 pair, and the media ports of a send stream. -/
opaque Config.streamFormat : Nat → Nat
opaque Config.streamSize : Nat → Nat × Nat
opaque Config.streamChannels : Nat → Nat
opaque Config.streamMerged : Nat → Bool
opaque Config.streamPorts : Nat → List Nat

/-- The context whose egress records a send stream carries as a house stream, and the bytes per frame period of that stream (R373, R480). -/
opaque Config.houseSend : Nat → Option Nat
opaque Config.houseBytes : Nat → Nat

/-- The host, and not the media ports, fills the ingress windows of a context (R480). -/
opaque Config.hostFills : Nat → Bool

/-- The ready tally and the step of a send stream (R486), which no register names. -/
opaque Config.sendTally : Nat → Nat
opaque Config.sendStep : Nat → Nat

/-- The station frame and the TCLK cycle of it that tri-level sync or PPS gives at an HCLK cycle, where the module measures one (R482, R483;
log entry 73). -/
opaque Config.seenReference : Nat → Option (BitVec 32 × Nat)

/-- The eight bytes of type data of an island log record, by type and what it logs (R512, R515). -/
opaque Config.islandData : Nat → List Byte → BitVec 64

end Sys2Proof
end

