-- ==== Sys2Proof/Machine/CellTypes.lean ====
section
/-! DEFINITION. The state of one compute cell: banks, queues, sequencer, stores (R74, R79, R88, R110, R154, R163, R169,
R185, R190, R193, R203, R205 to R208, R543 to R551). -/

namespace Sys2Proof.Machine

/-- The states of an accumulator bank (R98). -/
inductive BankState where
  | idle | accumulating | draining | held
  deriving DecidableEq, Repr

/-- The operand classes (R48, R50). -/
inductive OpClass where
  | integer | block | float
  deriving DecidableEq, Repr

/-- An accumulator bank (R74): its 256 × 256 positions, its checksum positions and magnitude terms, and its preload register of 256
elements. A value is the integer sum (integer class) or the A32 code (block and float classes). A position or element that a list
does not reach holds 0, at reset and after a pass smaller than the array (R81). -/
structure Bank where
  state : BankState
  cls : OpClass
  m : Nat
  n : Nat
  steps : Nat
  data : List (List Int)
  ev : List (List Ev)
  chkCol : List Int
  chkRow : List Int
  corner : Int
  magCol : List Int
  magRow : List Int
  magCorner : Int
  preload : List Nat
  deriving DecidableEq, Repr

/-- One operand of an array instruction as it issued (R109, R110, R196): `pat` is the copied pattern entry. -/
structure Operand where
  supplied : Bool
  patterned : Bool
  uns : Bool
  fmt : Fmt
  base : Nat
  kStride : Nat
  pat : BitVec 512
  p0 : Nat
  k0 : Nat
  sumAddr : Nat
  deriving DecidableEq, Repr

/-- Where and how an array instruction drains (R161, R196). -/
structure DrainSpec where
  uns : Bool
  fmt : Fmt
  route : Nat
  base : Nat
  rowStride : Nat
  kLo : Nat
  kHi : Nat
  statsStart : Bool
  statsEn : Bool
  slot : Nat
  entryBase : Nat
  bank : Nat
  axisCols : Bool
  perChannel : Bool
  propagate : Bool
  clipShare : Nat
  deriving DecidableEq, Repr

/-- The store that a drain reads its entries from: a scale bank, 4 for the fused table, none on the raw route (R156, R161). -/
def DrainSpec.store (d : DrainSpec) : Option Nat := if d.route = 1 then some d.bank else if d.route = 2 then some 4 else none

/-- The accumulation that the last array instruction left open with hold (R77, R79): its shape, class and steps so far. -/
structure HoldInfo where
  m : Nat
  n : Nat
  cls : OpClass
  steps : Nat
  deriving DecidableEq, Repr

/-- An array instruction as it issued (R195, R196). -/
structure MmaIns where
  id : Nat
  bundle : Nat
  tag : Nat
  layer : Nat
  mode : Mode
  cls : OpClass
  a : Operand
  b : Operand
  preloadStart : Bool
  cont : Bool
  hold : Bool
  colOrder : Bool
  m : Nat
  n : Nat
  k : Nat
  preload : Nat
  dst : DrainSpec
  deriving DecidableEq, Repr

/-- One pass of an array instruction (R80); `first` and `last` mark the first and last pass of the instruction. -/
structure Pass where
  ins : MmaIns
  mb : Nat
  nb : Nat
  first : Bool
  last : Bool
  deriving DecidableEq, Repr

/-- A swapped bank that waits for the drain port (R83). -/
structure DrainJob where
  pass : Pass
  bank : Nat
  deriving DecidableEq, Repr

/-- The units behind the slots (R190). -/
inductive CellUnit where
  | array | vector | ag | dma
  deriving DecidableEq, Repr

/-- A dispatched instruction that waits in a unit queue, with the record read at its dispatch and the loop counter that
its select names (R190, R194, R207). -/
structure QIns where
  id : Nat
  bundle : Nat
  tag : Nat
  layer : Nat
  opcode : Nat
  extra : Nat
  record : BitVec 1024
  ctr : Nat
  ctrLast : Bool
  deriving DecidableEq, Repr

/-- An issued instruction that has not completed (R205): `left` counts its passes that have not finished, or 1 for a DMA
that has not made its last write; `scale` is the scale bank that a load or derive writes, 4 for the fused table (R156). -/
structure Flight where
  id : Nat
  unit : CellUnit
  left : Nat
  tag : Nat
  layer : Nat
  bundle : Nat
  inv : Nat
  sat : Nat
  flu : Nat
  scale : Option Nat
  deriving DecidableEq, Repr

/-- A DMA descriptor as it issued (R232, R233), or the same shape for a transfer of another engine. `groups` are the
shelf groups of its far end. -/
structure DmaJob where
  id : Nat
  bundle : Nat
  tag : Nat
  layer : Nat
  outbound : Bool
  src : Nat
  dst : Nat
  rowBytes : Nat
  planes : Nat
  rows : Nat
  srcRow : Nat
  dstRow : Nat
  srcPlane : Nat
  dstPlane : Nat
  digest : Nat
  digestEn : Bool
  transpose : Nat
  tally : Nat
  inc : Nat
  groups : List Nat
  deriving DecidableEq, Repr

/-- A SIGNAL_DONE that waits for every instruction with a lower number (R205). -/
structure Armed where
  before : Nat
  tally : Nat
  inc : Nat
  deriving DecidableEq, Repr

/-- A counted loop in progress (R193): the body's first and last bundle, the count and the counter. -/
structure LoopFrame where
  first : Nat
  last : Nat
  count : Nat
  ctr : Nat
  deriving DecidableEq, Repr

/-- Why the next bundle is held (R209). -/
inductive Hold where
  | none | wait | fence | full
  deriving DecidableEq, Repr

/-- The states of CEL_SEQ_STATUS.state (R209), the halt kept apart. -/
inductive RunState where
  | idle | running | completing
  deriving DecidableEq, Repr

/-- The cell sequencer (R190, R193, R205 to R207, R209, R543 to R546). `heldWait` is the WAIT that holds the next bundle (tally
and value), `met` that a change of the tally has satisfied it, and `released` that its release has come; `stepping` marks a single step under way; `halting` a halt that has
taken effect; `passedBp` a breakpoint bundle that a resume has let pass. -/
structure SeqRun where
  state : RunState
  half : Bool
  bundle : Nat
  loops : List LoopFrame
  hold : Hold
  heldWait : Option (Nat × Nat)
  met : Bool
  released : Bool
  tag : Nat
  layer : Nat
  nextId : Nat
  stepping : Bool
  halting : Bool
  passedBp : Bool
  deriving DecidableEq, Repr

/-- A command as its cell holds it (R185, R205, R222): the store half it lies in, and, once it runs, the control values in
force at its start (R87, R97). `tables` is the function table bank of its context when an instruction issues (R149). -/
structure CellCmd where
  queue : Nat
  index : Nat
  context : Nat
  mode : Mode
  waitBase : Nat
  tables : Option Nat
  half : Bool
  bundles : Nat
  records : Nat
  statsAddr : List Nat
  statsMask : Nat
  recovery : Bool
  digest : Nat
  swapMode : Bool
  chkHalt : Bool
  deriving DecidableEq, Repr

/-- One statistics record (R163, R164) with the parameters of the conversion that last updated it (R166). Maxima are
integers (integer class) or A32 codes. -/
structure StatRec where
  cls : OpClass
  amaxRaw : Nat
  amaxOut : Nat
  elements : Nat
  clipped : Nat
  flushed : Nat
  opTag : Nat
  flags : Nat
  fmt : Fmt
  uns : Bool
  off : Int
  kLo : Nat
  kHi : Nat
  clipShare : Nat
  deriving DecidableEq, Repr

/-- One statistics slot of the running command (R163): whether a conversion of the command updated it, how many records the
command's instructions name in it, and the records by channel. -/
structure StatSlot where
  used : Bool
  count : Nat
  records : Tab StatRec
  deriving DecidableEq, Repr

/-- One entry of the tag counter store (R551, R560). -/
structure TagEntry where
  inv : Nat
  sat : Nat
  flu : Nat
  opTag : Nat
  layer : Nat
  collision : Bool
  deriving DecidableEq, Repr

/-- One compute cell. `cleared` counts the 2 KiB steps of the zero clear under way that have been made (R107). -/
structure Cell where
  mem : Tab Byte
  cleared : Nat
  istore : Tab (BitVec 128)
  rstore : Tab (BitVec 512)
  patterns : Tab (BitVec 512)
  srf : Tab DWord
  fused : Tab (BitVec 128)
  tags : Tab TagEntry
  stats : List StatSlot
  bank0 : Bank
  bank1 : Bank
  active : Nat
  prevHold : Option HoldInfo
  passes : List Pass
  drains : List DrainJob
  inject : Option (Nat × Nat)
  arrayQ : List QIns
  vectorQ : List QIns
  agQ : List QIns
  dmaQ : List QIns
  inflight : List Flight
  dmas : List DmaJob
  signals : List Armed
  run : SeqRun
  cmd : Option CellCmd
  loaded : Option CellCmd
  ended : Option Nat
  done : Option Nat
  deriving DecidableEq, Repr

/-- The accumulator of data position (i, j), and element j of the preload register. -/
def Bank.sumAt (k : Bank) (i j : Nat) : Int := (k.data.getD i []).getD j 0
def Bank.preloadAt (k : Bank) (j : Nat) : Nat := k.preload.getD j 0

/-- A bank at reset: idle, every position and every element of the preload register 0 (DESIGN CHOICE, log entry 3). -/
def Bank.empty : Bank :=
  ⟨.idle, .integer, 0, 0, 0, [], [], [], [], 0, [], [], 0, []⟩

def StatRec.empty : StatRec := ⟨.integer, 0, 0, 0, 0, 0, 0, 0, .i4, false, 0, 0, 0, 0⟩

def StatSlot.empty : StatSlot := ⟨false, 0, []⟩

def TagEntry.empty : TagEntry := ⟨0, 0, 0, 0, 0, false⟩

def SeqRun.reset : SeqRun := ⟨.idle, false, 0, [], .none, none, false, false, 0, 0, 0, false, false, false⟩

/-- A cell after reset: every store reads its reset value, nothing runs (R98, R107, R157, R169, R209). -/
def Cell.reset : Cell :=
  { mem := [], cleared := 0, istore := [], rstore := [], patterns := [], srf := [], fused := [], tags := [],
    stats := List.replicate 16 StatSlot.empty, bank0 := Bank.empty, bank1 := Bank.empty, active := 0, prevHold := none,
    passes := [], drains := [], inject := none, arrayQ := [], vectorQ := [], agQ := [], dmaQ := [], inflight := [],
    dmas := [], signals := [], run := SeqRun.reset, cmd := none, loaded := none, ended := none, done := none }

end Sys2Proof.Machine
end

