-- ==== Sys2Proof/Machine/HubTypes.lean ====
section
/-! DEFINITION. The state of the hub that no register holds: queues, table banks, shelf transactions, trace, bus. -/

namespace Sys2Proof.Machine

/-- The two grades (R1). -/
inductive Grade where
  | evs9410 | evs9408
  deriving DecidableEq, Repr

/-- What a part is (R1, R6); no step changes it. -/
structure Part where
  grade : Grade
  steppingMajor : BitVec 4
  steppingMinor : BitVec 4
  deriving DecidableEq, Repr

/-- The bus side of BAR0 (R14): the read latch (register and high word), the held write (register and low word), and the
model's output port: what the last host read returned (log entry 5). -/
structure BusSt where
  latch : Option (Nat × BitVec 32)
  held : Option (Nat × BitVec 32)
  lastRead : List Byte
  deriving DecidableEq, Repr

/-- An increment on its way to a tally (R235): the cell whose signal it is, or none for another source. -/
structure TallyPend where
  src : Option Nat
  tally : Nat
  inc : Nat
  deriving DecidableEq, Repr

/-- Where a staged entry stands between its fetch and its completion (R217, R226). -/
inductive Phase where
  | fetched | loading | ready | running | done
  deriving DecidableEq, Repr

/-- What a cell of a command's mask has reported (R165, R206, R224): its physical and logical index, its status, and its
statistics slots. -/
structure CellResult where
  phys : Nat
  logical : Nat
  status : Nat
  stats : List StatSlot
  deriving DecidableEq, Repr

/-- A fetched entry whose command has not completed (R217): ring index, type (1 command, 2 table load), descriptor address,
phase, the status it has earned so far, and the frame of its context (0 for an immediate queue). `dropped` marks an entry of a
dropped frame (R371), `retried` a command that runs for the second time (R524) and `reload` that its images are read again into
the same halves, `recovering` that its recovery command runs (R173), `timing` the freeze-timing flag of a command without a
frame (R225), `noRecord` a status_addr out of reach (R584), `abandoned` R530. `word` is its descriptor, `run` the descriptor of
the command that runs, `loads` the commands as loaded for each physical cell, `results` what the cells have reported. -/
structure Staged where
  index : Nat
  kind : Nat
  desc : Nat
  phase : Phase
  status : Nat
  frame : Nat
  dropped : Bool
  retried : Bool
  reload : Bool
  recovering : Bool
  timing : Bool
  noRecord : Bool
  abandoned : Bool
  word : BitVec 1024
  run : BitVec 1024
  loads : List (Nat × CellCmd)
  results : List CellResult
  deriving DecidableEq, Repr

def Staged.new (index kind desc frame : Nat) (dropped : Bool) : Staged :=
  ⟨index, kind, desc, .fetched, 0, frame, dropped, false, false, false, true, false, false, 0, 0, [], []⟩

/-- What one admission took of a queue (R219, R368, R371): entries up to an index, their frame, and whether they are dropped. -/
structure Admit where
  upTo : Nat
  frame : Nat
  dropped : Bool
  deriving DecidableEq, Repr

/-- What a queue holds beside its registers (R217, R219, R237): staged entries, admissions whose entries are not all fetched,
the latest tail admitted, the regulator level and fraction. -/
structure QueueSt where
  staged : List Staged
  admits : List Admit
  admitted : Nat
  level : Nat
  acc : Nat
  deriving DecidableEq, Repr

def QueueSt.empty : QueueSt := ⟨[], [], 0, 0, 0⟩

/-- A change of a cell's owner that waits (R213): the new field of SEQ_CELL_OWNER, and that the cell was free at a frame boundary since the
write. -/
structure OwnerSt where
  next : Option Nat
  due : Bool
  deriving DecidableEq, Repr

def OwnerSt.empty : OwnerSt := ⟨none, false⟩

/-- What a stream sequencer holds beside its registers (R214, R547): the queue whose command it last started, and the command
(queue, index) whose point-0 breakpoint has been passed by a resume. -/
structure SeqSt where
  last : Nat
  passed : Option (Nat × Nat)
  deriving DecidableEq, Repr

/-- The states of a function table bank (R148, R152). -/
inductive FtbState where
  | empty | loading | ready | digestFault
  deriving DecidableEq, Repr

/-- A function table bank, the same on every cell (R148, R152). -/
structure FtbBank where
  state : FtbState
  profile : Nat
  image : List Byte
  pins : Nat
  deriving DecidableEq, Repr

def FtbBank.empty : FtbBank := ⟨.empty, 0, [], 0⟩

/-- A tier-3 transaction that has not ended (R259): the cell and the DMA that issued it, or none for the host, and which 256 bytes of the
DMA it carries (R253). -/
structure ShelfTxn where
  id : Nat
  owner : Option (Nat × Nat)
  part : Nat
  late : Bool
  deriving DecidableEq, Repr

/-- What a shelf group holds beside its registers (R258 to R261, R498, R500): the size and engines of a group that Firn has parked,
and the outstanding transactions. -/
structure ShelfSt where
  parked : Option (Nat × Nat)
  txns : List ShelfTxn
  nextTxn : Nat
  deriving DecidableEq, Repr

def ShelfSt.empty : ShelfSt := ⟨none, [], 0⟩

/-- The trace unit (R553, R554): records in the buffer by index, waiting records by source, records lost by source and not
yet reported, and a stop on halt that waits for the records already in the FIFOs. -/
structure TraceSt where
  buffer : Tab (BitVec 256)
  fifos : Tab (List (BitVec 256))
  lost : Tab Nat
  stopping : Bool
  deriving DecidableEq, Repr

def TraceSt.empty : TraceSt := ⟨[], [], [], false⟩

/-- A frame in flight (R368, R380, R480, R530): its number, the admission position that took it, its freeze-timing flag, and the
number that its ingress packets carry. -/
structure FrameSt where
  id : Nat
  pos : Nat
  timing : Bool
  num : Nat
  deriving DecidableEq, Repr

/-- What a stream context holds beside its registers (R149, R362 to R371, R380, R538): its function table bank, frames in flight
oldest first, the frame that holds its cells, the tails of a deferred frame, the number of the next frame, admission positions
passed and frames taken since activation, for each guard its base and the frames checked, the recovery settings in force, and where its
latest admission position and its first one fell: the station frame of the latest, or for audio the TCLK cycle of each (R362, R367). -/
structure CtxSt where
  bank : Option Nat
  frames : List FrameSt
  hold : Option Nat
  deferred : Option (List (Nat × Nat))
  nextFrame : Nat
  positions : Nat
  taken : Nat
  guardBase : List Nat
  guardDone : List Nat
  retryEn : Bool
  watchdog : Nat
  posAt : Option Nat
  firstAt : Option Nat
  deriving DecidableEq, Repr

def CtxSt.empty : CtxSt := ⟨none, [], none, none, 1, 0, 0, [0, 0, 0], [0, 0, 0], false, 0, none, none⟩

/-- Record and replay (R414, R417, R499): the HCLK cycle of the start boundary, records waiting for the log, events lost and not yet
reported, the records moved to the log or the next record that a replay looks for inputs at, the logged completions that a replay has met,
and the doorbells (queue and tail) taken below Flow, which count as arriving when the module is in Flow again. -/
structure RrSt where
  start : Nat
  buffer : List (BitVec 512)
  lost : Nat
  next : Nat
  matched : List Nat
  doorbells : List (Nat × Nat)
  deriving DecidableEq, Repr

def RrSt.empty : RrSt := ⟨0, [], 0, 0, [], []⟩

/-- What a thaw entry holds beside its registers (R402, R404 to R406): that its window is to be forced or runs forced, the frame of its latest
task-6 window, what the units find in the window that runs, and the station frame in which it last came to a window. -/
structure ThawSt where
  force : Bool
  frame : Option Nat
  work : ThawWork
  last : Option Nat
  deriving DecidableEq, Repr

/-- A window that finds nothing. -/
def ThawSt.noWork : ThawWork := ⟨[], 0, [], none⟩

def ThawSt.empty : ThawSt := ⟨false, none, ThawSt.noWork, none⟩

/-- A frame slot of a context's ingress (R480): whether it is open, the frame it takes, and for each unit the spans received. -/
structure IngressSlot where
  isOpen : Bool
  frame : Nat
  units : Tab (List (Nat × Nat))
  deriving DecidableEq, Repr

/-- The ingress of a context (R401, R416, R480): the number of the next frame to be admitted, its two slots, and the bytes staged since the
last admission, for the ingress digest. -/
structure IngressSt where
  next : Nat
  slot0 : IngressSlot
  slot1 : IngressSlot
  staged : List Byte
  deriving DecidableEq, Repr

def IngressSt.empty : IngressSt := ⟨0, ⟨true, 0, []⟩, ⟨true, 1, []⟩, []⟩

/-- A remap under way (R528): the retiring cell, its spare, and whether its contents are copied. -/
structure Remap where
  old : Nat
  spare : Nat
  copy : Bool
  deriving DecidableEq, Repr

/-- The two slots of sequencer firmware (R537). -/
structure FwSt where
  active : List Byte
  inactive : List Byte
  deriving DecidableEq, Repr

/-- A spill page that holds bytes (R470, R471): its place in the spill area, its length, the station frame of its record, and the
end-of-frame bit. -/
structure OutPage where
  slot : Nat
  len : Nat
  frame : Nat
  last : Bool
  deriving DecidableEq, Repr

/-- An egress record under copy (R470): the next tier-2 address, the bytes left, the station frame in which it was taken, and its
end-of-frame bit. -/
structure OutRec where
  addr : Nat
  left : Nat
  frame : Nat
  last : Bool
  deriving DecidableEq, Repr

/-- The egress of a context (R470 to R472): the records that the egress tally has called for
and that are not taken, the ring index of the next record, the
record under copy, the pages in spill oldest first, the index of the next host page, the frames discarded since the last page and the
gap that the next page carries, a page whose writing the link's loss interrupted, the frames admitted whose last record has not been taken
(whether each is held), and the frames, units and bytes of the unit that a house stream has sent (R480). -/
structure EgressSt where
  due : Nat
  index : Nat
  cur : Option OutRec
  pages : List OutPage
  nextPage : Nat
  discarded : Nat
  gap : Bool
  cut : Bool
  frames : List Bool
  frame : Nat
  unit : Nat
  sent : Nat
  deriving DecidableEq, Repr

def EgressSt.empty : EgressSt := ⟨0, 0, none, [], 0, 0, false, false, [], 0, 0, 0⟩

/-- A job of a hub engine that runs or has ended and whose completion record is not written (R293, R324, R336): its ring, its ring
index, its descriptor, its status, bytes 0x10 to 0x1F of its record, and its run_cycles. `noRecord` marks a status_addr out of
reach. -/
structure JobSt where
  ring : Nat
  index : Nat
  desc : BitVec 1024
  status : Nat
  body : List Byte
  cycles : Nat
  noRecord : Bool
  deriving DecidableEq, Repr

/-- An encoding lane of a unit (R299, R316, R328): the coder, the zero count of the escaper, the bytes formed and not yet in memory, the
escaped bytes in the scratch, and the content bytes. -/
structure EncLane where
  low : Nat
  range : Nat
  cache : Nat
  held : Nat
  lead : Bool
  z : Nat
  out : List Nat
  esc : Nat
  raw : Nat
  deriving DecidableEq, Repr

/-- The state of an encoding lane at OPEN (R299). -/
def EncLane.start : EncLane := ⟨0, 0xFFFFFFFF, 0, 1, true, 0, [], 0, 0⟩

/-- A decoding lane of a unit (R300, R316, R326): the coder, whether it has read its first bytes, the next escaped byte and how many are
left, the content length of its segment, the content bytes read, the zero count, and whether it is faulted. -/
structure DecLane where
  range : Nat
  code : Nat
  begun : Bool
  at_ : Nat
  left : Nat
  len : Nat
  got : Nat
  z : Nat
  bad : Bool
  deriving DecidableEq, Repr

/-- What a state block holds beside its first byte (R323), whose layout is private: the frame header most recently parsed or written,
the units closed since, the path, the lanes, for encoding the scratch, the lane limit and what OPEN_ENC set, and the symbols coded since
OPEN. -/
structure KBlock where
  header : Option (List Byte)
  units : Nat
  fast : Bool
  enc : List EncLane
  dec : List DecLane
  scratch : Nat
  limit : Nat
  first : Bool
  adapter : Bool
  tensors : List Byte
  region : Nat
  profile : Nat
  coded : Nat
  deriving DecidableEq, Repr

def KBlock.empty : KBlock := ⟨none, 0, false, [], [], 0, 0, false, false, [], 0, 0, 0⟩

end Sys2Proof.Machine
end

