-- ==== Sys2Proof/Machine/EdgeTypes.lean ====
section
/-! DEFINITION. The state of the fabric, the lasers, station time, the mailbox, the media ports, the supervisor and the metering island
that no register holds. -/

namespace Sys2Proof.Machine

/-! Fabric (R429 to R444). -/

/-- A word or a segment that a port has sent, the model's output port (R433, R437): port, sequence, type of R437, byte 3, arguments, and the
flits of a segment. -/
structure PortWord where
  port : Nat
  seq : Nat
  type : Nat
  chan : Nat
  args : Nat
  data : List Byte
  deriving DecidableEq, Repr

/-- A Shodo port (R440 to R444): whether its peer reports ready, the peer's floe, failed lanes, a degradation that waits for the frame
boundary or holds, an agreed spare switch (lane and port frame), the last calibration report of each lane, the number of words sent, and the
sequence of the last word acted on since training. -/
structure PortSt where
  peerReady : Bool
  floe : Nat
  failed : List Nat
  due : Bool
  degraded : Bool
  spare : Option (Nat × Nat)
  reports : Tab (BitVec 80)
  seq : Nat
  got : Option Nat
  deriving DecidableEq, Repr

def PortSt.empty : PortSt := ⟨false, 0, [], false, false, none, [], 0, none⟩

/-- A channel (R433, R434): base_t and the segments sent or received since enable. -/
structure ChanSt where
  base : Nat
  done : Nat
  deriving DecidableEq, Repr

def ChanSt.empty : ChanSt := ⟨0, 0⟩

/-- An arrival that a port has brought (R413, R439): the port, the floe positions that it stands for, and their settings where they are at their
fabric start. -/
structure Arrival where
  port : Nat
  members : Nat
  settings : Option Settings
  deriving DecidableEq, Repr

/-- The barrier tree in force (R439, R458) and the barrier under way (R412, R413, R439): whether the module's own arrival is due and whether it
has gone up, the station frame of the last one, the arrivals held, the positions refused at fabric start, whether a barrier is
outstanding, a release on its way to effect with its frame number, and whether the next barrier is the first since a port of the tree
trained: the module's fabric start. -/
structure BarrierSt where
  node : Nat
  tree : Nat
  members : Nat
  own : Bool
  up : Bool
  frame : Option Nat
  arrivals : List Arrival
  refused : Nat
  outstanding : Bool
  release : Option Nat
  fresh : Bool
  deriving DecidableEq, Repr

/-- The tree registers' reset values (R458), and no fabric started (R426). -/
def BarrierSt.empty : BarrierSt := ⟨0x7FF, 0xF8000000, 0, false, false, none, [], 0, false, none, true⟩

/-- A laser module (R446 to R454): bias in thousandths of nominal, the sequence of the last accepted command and the failed tries since in the
window, a removal or a take-up that waits for the frame boundary, that the boundary has come while a task-1 window ran, the wear stored in
the module, the wear in units of 2^-16 of LAS_WEAR's that LAS_WEAR does not show yet, and its identity memory as read at insertion. -/
structure LaserSt where
  bias : Nat
  last : Option Nat
  tries : Nat
  removing : Bool
  takeUp : Bool
  due : Bool
  stored : Nat
  frac : Nat
  ident : List Byte
  deriving DecidableEq, Repr

def LaserSt.empty : LaserSt := ⟨0, none, 0, false, false, false, 0, 0, []⟩

/-! Station time (R481 to R484, R490). -/

/-- Station time: TCLK cycles since the frame's first one and since power-up, the STT_CFG and STT_RATE in force, a step that waits for the
boundary, the PTP master that the best master clock algorithm has chosen (its rank and identity), a two-step Sync that waits for its
Follow_Up (sequence and time stamp), the time stamps of the PTP exchange under way (a request with its sequence), the local clock less the
master's, in ns, whether a lock has begun the count of
frames since the source was taken, whether this is the first TCLK cycle of a frame, by how much that cycle came after the frame's exact
start (in fifths of a TCLK cycle over num), the TCLK cycles until the frame that an exposure pulse starts, the phase of TCLK in
millionths of an HCLK cycle, and whether a TCLK cycle begins with this HCLK cycle (R482 to R485). -/
structure StationSt where
  ticks : Nat
  tclk : Nat
  cfg : DWord
  rate : DWord
  step : Bool
  master : Option (Nat × Nat)
  twoStep : Option (Nat × Int)
  sync : Option (Int × Int)
  request : Option (Nat × Int)
  offset : Option Int
  counted : Bool
  boundary : Bool
  early : Nat
  edge : Option Nat
  phase : Nat
  starts : Bool
  deriving DecidableEq, Repr

/-- The reset values of STT_CFG and STT_RATE (R490). -/
def StationSt.empty : StationSt := ⟨0, 0, 0x7F00000, 0, false, none, none, none, none, none, false, true, 0, none, 0, true⟩

/-! The mailbox (R465 to R468). -/

/-- The cache states of a mailbox line. -/
inductive LineState where
  | invalid | shared | modified
  deriving DecidableEq, Repr

/-- What the mailbox sends over CXL.cache (R465 to R468). -/
inductive CxlOp where
  | rspIHitI | rspSHitSE | rspSFwdM | rspIFwdM | rdShared | rdOwn | cleanEvict | dirtyEvict | data
  deriving DecidableEq, Repr

/-- A message that the mailbox has sent for a line, the model's output port. -/
structure CxlMsg where
  line : Nat
  op : CxlOp
  bytes : List Byte
  deriving DecidableEq, Repr

/-- A snoop that waits for a read to end (R468). -/
inductive Snoop where
  | inv | data | cur
  deriving DecidableEq, Repr

/-- A mailbox line (R465 to R468): the kind and group in force, its state, its address in host memory as last read, its bytes, the last
tails seen, whether its RdShared or RdOwn is outstanding, snoops held until that ends, and its eviction buffer while an eviction is
outstanding, with the state before it. -/
structure MboxLine where
  kind : Nat
  group : Nat
  state : LineState
  addr : Nat
  bytes : List Byte
  seen : List Nat
  reading : Bool
  held : List Snoop
  evict : Option (LineState × List Byte)
  deriving DecidableEq, Repr

def MboxLine.empty : MboxLine := ⟨0, 0, .invalid, 0, [], List.replicate 16 0, false, [], none⟩

/-! Media streams (R478, R479, R485, R486). -/

/-- What a media port has sent of a stream, the model's output port (R477, R480, R486): a frame with the address of its plane table, or a
packet of a house stream. -/
structure MediaOut where
  port : Nat
  stream : Nat
  table : Nat
  bytes : List Byte
  deriving DecidableEq, Repr

/-- A media stream: the committed address that waits for its latch, the address latched, the address in use this frame, the base of its
ready tally, the frames sent, the buffer last sent, the extended sequence numbers of the packets kept with the newest first, and the
station frame and the HCLK cycle of its last latch. -/
structure MediaSt where
  committed : Option Nat
  latched : Option Nat
  cur : Option Nat
  base : Nat
  sent : Nat
  last : Option Nat
  seen : List Nat
  latchAt : Option (Nat × Nat)
  deriving DecidableEq, Repr

def MediaSt.empty : MediaSt := ⟨none, none, none, 0, 0, none, [], none⟩

/-! The supervisor (R473, R497 to R508, R571, R573 to R577). -/

/-- Where bring-up stands (R473, R475, R500, R501): PERST# asserted, stages under way, that it follows a wake from Glacier, and that an exit
from Firn is under way. -/
structure BootSt where
  perst : Bool
  running : Bool
  wake : Bool
  firn : Bool
  deriving DecidableEq, Repr

/-- What the supervisor holds beside its registers (R503, R571, R573, R575, R577): that the boundary after the start of a protective
descent has passed, the 48 V input, the leak sensor, PLDM events raised, the TAP's instruction (none for BYPASS), the bank's voltage
as last measured, in mV, the half nanoseconds since PWR_UPTIME last advanced, that a protective descent holds the module below Flow until
a request is accepted, and the fault records that no session has written yet (R505, R506): uptime, boot count and event of each. -/
structure PowerSt where
  descent : Bool
  input : Bool
  wet : Bool
  events : List Nat
  jtag : Option (BitVec 8)
  bank : Nat
  half : Nat
  held : Bool
  faults : List (Nat × Nat × Nat)
  deriving DecidableEq, Repr

def PowerSt.empty : PowerSt := ⟨false, true, false, [], none, 0, 0, false, []⟩

/-- A write to the service stash (R506, R507, R575): pages, a plan of a PLDM update, part `k` of the `n` parts of a firmware image, wear
records by serial number, or the bank's calibration. -/
inductive StashWrite where
  | pages (page0 : Nat) (bytes : List Byte)
  | clockPlan (id mhz : Nat)
  | powerPlan (id cap warn trip : Nat)
  | image (k n : Nat) (bytes : List Byte)
  | wear (l : List (Nat × Nat))
  | calibration (ccal : Nat)
  deriving DecidableEq, Repr

/-- The service stash (R494, R505 to R507, R583): its pages, the boot counter, clock plans (identifier and CCLK in MHz), power plans
(identifier, cap, warning and trip), wear by serial number, supervisor firmware and the parts received of a new image, the bank's
calibrated capacitance, the supervisor's fault log, and the writes of refused sessions with their pages. -/
structure StashSt where
  bytes : Tab Byte
  boot : Nat
  clockPlans : List (Nat × Nat)
  powerPlans : List (Nat × Nat × Nat × Nat)
  wear : Tab Nat
  firmware : List Byte
  parts : Tab (List Byte)
  ccal : Nat
  faults : List (Nat × Nat × Nat)
  waiting : List (Nat × StashWrite)
  deriving DecidableEq, Repr

/-- The stash with the plans that Rolyen issues (R583). -/
def StashSt.start : StashSt :=
  ⟨[], 0, [(1, 1600), (2, 1500), (3, 1200)], [(0x101, 2400, 95, 105), (0x102, 1800, 85, 100)], [], [], [], 0, [], []⟩

/-- The metering island (R510 to R516): accumulators in µWh, the tag in force and the tag from the next interval (none for no valid tag),
the hub's tag message that waits to be sent, uptime in µs, boot
count, the log ring by sequence, records not committed, firmware identifier and checksum, the image in each firmware slot and which one is
active, event counter, the seal, the input, the
snapshot sequence with the boot count and CRC of the snapshot in the mirror, the answers on its UART, and the pulses on its test output. -/
structure IslandSt where
  acc : Tab Nat
  tag : Option Nat
  next : Option Nat
  message : Option (BitVec 32)
  uptime : Nat
  boots : Nat
  log : Tab (BitVec 256)
  seq : Nat
  buffer : List (BitVec 256)
  fwId : List Byte
  fwSum : Nat
  slotA : List Byte
  slotB : List Byte
  slotBOn : Bool
  events : Nat
  sealOpen : Bool
  powered : Bool
  snap : Nat
  snapBoots : Nat
  snapCrc : Nat
  uart : List (List Byte)
  pulses : Nat
  deriving DecidableEq, Repr

def IslandSt.start : IslandSt :=
  ⟨[], none, none, none, 0, 0, [], 0, [], List.replicate 16 0, 0, [], [], false, 0, false, true, 0, 0, 0, [], 0⟩

end Sys2Proof.Machine
end

