-- ==== Sys2Proof/Machine/Regs.lean ====
section
/-! DEFINITION. The registers of BAR0, one row per register of the manual's tables (R11, R579 to R581): base offset,
copies (count and stride, outermost first), width, reset value and fields with their access codes.
`Fld.<register><Field>` names each field. -/

namespace Sys2Proof.Machine

/-- The access codes of R11. -/
inductive Access where
  | ro | rw | wo | w1c | w1s | rc
  deriving DecidableEq, Repr

/-- The registers of BAR0, by the manual's tables; the copies of one register share a name. -/
inductive RegId where
  | hubIdentity | hubProfile | hubNumStatus | hubReady | pwrClockPlan | pwrPowerPlan | pwrState | pwrStatus
  | pwrSense | pwrUptime | pwrBoot | pwrHoldup | pwrMeterTag | pwrCount | sttCfg | sttRate
  | sttVline | sttPosition | sttStatus | sttCtrl | sttExposure | thawCfg | thawPos | thawLen
  | thawStat | thawCount | rrCtrl | rrBase | rrStatus | barrierCfg | barrierStatus | cellOwner
  | seqLoad | fwCtrl | fwSrc | fwStatus | fwSwitch | ctxCfg | ctxAdmit | ctxPeriod
  | ctxLoad | ctxCells | ctxScope | ctxCtrl | ctxStatus | ctxCount | ctxLate | ctxGuard
  | rcvCfg | rcvStatus | rcvCount | ctxFirst | talValue | talAdd | talThresh | talCtrl
  | talStatus | queBase | queCfg | queRate | queBurst | queTail | queHead | queStatus
  | queCtrl | queCount | kcxRingBase | kcxRingCfg | kcxRingTail | kcxRingHead | kcxRingStatus | kcxRingCtrl
  | bceRingBase | bceRingCfg | bceRingTail | bceRingHead | bceRingStatus | bceRingCtrl | motRingBase | motRingCfg
  | motRingTail | motRingHead | motRingStatus | motRingCtrl | kcxCount | kcxFaultCount | bceCount | motCount
  | motPool | slbCell | slbRemapCtrl | slbRetireCfg | arithFlags | accCtrl | accStatus | chkStatus
  | chkCount | chkInject | memCtrl | memStatus | memCount | agFlags | agCount | ftbBank
  | vecCount | srfStatus | scaleFlags | scaleCount | scaleLast | cseqStatus | cseqFault | cseqCount
  | dmaFault | dmaExp | dmaGot | dmaCount | dbgCtrl | dbgStatus | dbgBp | dbgTrace
  | dbgLoop | cmdInvalid | cmdSaturated | cmdFlushed | srfEntry | fusedLo | fusedHi | tagStore
  | storeWindow | aperture | shelfCtrl | shelfStatus | shelfCount | portCtrl | portStatus | portCount
  | fabNode | fabTree | fabMembers | fabTreeStatus | chanCfg | chanBuf | chanSeg | chanTally
  | chanStatus | lasStatus | lasCtrl | lasWear | lasSerial | lasRating | mboxCfg | mboxMap
  | tallySum | outRing | outRec | outSpill | outEgress | outCfg | outTail | outStatus
  | msixEntry | msixCtrl | msixPba | strmAddr | strmCommit | strmLatch | mdpCount | mtrSnap
  | mtrReg | mtrTotal | mtrUptime | mtrFw | mtrStatus | dseqCtrl | dseqStatus | dseqBp
  | dseqTrace | traceCtrl | traceStatus | traceLost | dbgTime | rsvCount | rsvLast | rsvAddr
  | txnWait | traceBuf
  deriving DecidableEq, Repr

/-- One field row: bits [hi:lo] and the access code. -/
structure FieldRow where
  hi : Nat
  lo : Nat
  acc : Access
  deriving DecidableEq, Repr

/-- One register row. `dims` gives count and stride of each level of copies, outermost first. -/
structure RegRow where
  base : Nat
  dims : List (Nat × Nat)
  wide : Bool
  reset : Nat
  fields : List FieldRow
  deriving DecidableEq, Repr

/-- The register map (R6, R70, R97 to R101, R127 to R131, R152, R153, R181 to R184, R209 to R211, R238 to R246, R267 to R273,
R294 to R296, R330, R331, R360, R361, R386 to R395, R420 to R428, R456 to R461, R487 to R492, R517 to R521, R538 to R542,
R557 to R564, R578 to R581). The comment of a row gives its manual name. -/
def RegId.row : RegId → RegRow
  | .hubIdentity => -- HUB_IDENTITY (R6)
    ⟨0x0, [], false, 0x0, [⟨31, 16, .ro⟩, ⟨15, 12, .ro⟩, ⟨11, 8, .ro⟩, ⟨7, 0, .ro⟩]⟩
  | .hubProfile => -- HUB_NUMERICS_PROFILE (R420)
    ⟨0x10, [], true, 0x0, [⟨63, 32, .rw⟩, ⟨31, 16, .rw⟩, ⟨15, 0, .ro⟩]⟩
  | .hubNumStatus => -- HUB_NUMERICS_STATUS (R421)
    ⟨0x18, [], false, 0x0, [⟨1, 1, .ro⟩, ⟨0, 0, .w1c⟩]⟩
  | .hubReady => -- HUB_READY (R487)
    ⟨0x20, [], false, 0x0, [⟨31, 31, .ro⟩, ⟨30, 28, .ro⟩, ⟨4, 4, .ro⟩, ⟨3, 3, .ro⟩, ⟨2, 2, .ro⟩, ⟨1, 1, .ro⟩, ⟨0, 0, .ro⟩]⟩
  | .pwrClockPlan => -- PWR_CLOCK_PLAN (R517)
    ⟨0x100000, [], false, 0x10001, [⟨31, 16, .rw⟩, ⟨15, 0, .ro⟩]⟩
  | .pwrPowerPlan => -- PWR_POWER_PLAN (R517)
    ⟨0x100004, [], false, 0x1010101, [⟨31, 16, .rw⟩, ⟨15, 0, .ro⟩]⟩
  | .pwrState => -- PWR_STATE (R518)
    ⟨0x100008, [], false, 0x0, [⟨31, 29, .rw⟩, ⟨28, 26, .ro⟩, ⟨25, 25, .ro⟩, ⟨24, 24, .w1c⟩, ⟨23, 23, .ro⟩]⟩
  | .pwrStatus => -- PWR_STATUS (R519)
    ⟨0x10000c, [], false, 0x0, [⟨31, 31, .w1c⟩, ⟨30, 30, .w1c⟩, ⟨29, 29, .w1c⟩, ⟨28, 28, .w1c⟩, ⟨27, 27, .ro⟩, ⟨26, 24, .ro⟩]⟩
  | .pwrSense => -- PWR_SENSE (R519)
    ⟨0x100010, [], false, 0x0, [⟨31, 20, .ro⟩, ⟨19, 12, .ro⟩, ⟨7, 0, .ro⟩]⟩
  | .pwrUptime => -- PWR_UPTIME (R520)
    ⟨0x100018, [], true, 0x0, [⟨63, 0, .ro⟩]⟩
  | .pwrBoot => -- PWR_BOOT (R520)
    ⟨0x100020, [], false, 0x0, [⟨31, 0, .ro⟩]⟩
  | .pwrHoldup => -- PWR_HOLDUP (R520)
    ⟨0x100024, [], false, 0x0, [⟨31, 16, .ro⟩, ⟨15, 0, .ro⟩]⟩
  | .pwrMeterTag => -- PWR_METER_TAG (R520)
    ⟨0x100028, [], false, 0x0, [⟨5, 0, .rw⟩]⟩
  | .pwrCount => -- PWR_COUNT (R520)
    ⟨0x10002c, [], false, 0x0, [⟨31, 16, .rc⟩, ⟨15, 0, .rc⟩]⟩
  | .sttCfg => -- STT_CFG (R490)
    ⟨0x200000, [], false, 0x7f00000, [⟨31, 30, .rw⟩, ⟨29, 29, .rw⟩, ⟨28, 27, .rw⟩, ⟨26, 20, .rw⟩, ⟨15, 0, .rw⟩]⟩
  | .sttRate => -- STT_RATE (R490)
    ⟨0x200004, [], false, 0x0, [⟨31, 12, .rw⟩, ⟨11, 0, .rw⟩]⟩
  | .sttVline => -- STT_VLINE (R490)
    ⟨0x200008, [], false, 0x0, [⟨31, 16, .rw⟩, ⟨15, 0, .rw⟩]⟩
  | .sttPosition => -- STT_POSITION (R490)
    ⟨0x200010, [], true, 0x0, [⟨63, 32, .ro⟩, ⟨31, 16, .ro⟩, ⟨15, 0, .ro⟩]⟩
  | .sttStatus => -- STT_STATUS (R490)
    ⟨0x200018, [], false, 0x0, [⟨31, 30, .ro⟩, ⟨29, 29, .w1c⟩, ⟨28, 28, .ro⟩, ⟨15, 0, .rc⟩]⟩
  | .sttCtrl => -- STT_CTRL (R490)
    ⟨0x20001c, [], false, 0x0, [⟨0, 0, .wo⟩]⟩
  | .sttExposure => -- STT_EXPOSURE (R490)
    ⟨0x200020, [], true, 0x0, [⟨63, 0, .ro⟩]⟩
  | .thawCfg => -- STT_THAW_CFG (R422)
    ⟨0x200400, [(16, 0x10)], false, 0x0, [⟨31, 31, .rw⟩, ⟨30, 28, .rw⟩, ⟨27, 20, .rw⟩, ⟨19, 12, .rw⟩, ⟨11, 0, .rw⟩]⟩
  | .thawPos => -- STT_THAW_POS (R423)
    ⟨0x200404, [(16, 0x10)], false, 0x0, [⟨31, 16, .rw⟩, ⟨15, 0, .rw⟩]⟩
  | .thawLen => -- STT_THAW_LEN (R423)
    ⟨0x200408, [(16, 0x10)], false, 0x0, [⟨31, 24, .rw⟩, ⟨23, 0, .rw⟩]⟩
  | .thawStat => -- STT_THAW_STAT (R424)
    ⟨0x20040c, [(16, 0x10)], false, 0x0, [⟨31, 30, .ro⟩, ⟨29, 29, .ro⟩, ⟨28, 28, .w1c⟩, ⟨27, 20, .ro⟩]⟩
  | .thawCount => -- STT_THAW_COUNT (R425)
    ⟨0x200500, [], false, 0x0, [⟨31, 16, .rc⟩, ⟨15, 0, .rc⟩]⟩
  | .rrCtrl => -- STT_RR_CTRL (R427)
    ⟨0x200800, [], false, 0x5000000, [⟨31, 30, .rw⟩, ⟨29, 29, .rw⟩, ⟨28, 28, .rw⟩, ⟨27, 23, .rw⟩]⟩
  | .rrBase => -- STT_RR_BASE (R427)
    ⟨0x200808, [], true, 0x0, [⟨47, 6, .rw⟩]⟩
  | .rrStatus => -- STT_RR_STATUS (R428)
    ⟨0x200810, [], true, 0x0, [⟨63, 32, .ro⟩, ⟨31, 30, .ro⟩, ⟨29, 29, .w1c⟩, ⟨28, 28, .w1c⟩, ⟨27, 0, .ro⟩]⟩
  | .barrierCfg => -- STT_BARRIER_CFG (R426)
    ⟨0x200c00, [], true, 0x0, [⟨63, 48, .rw⟩, ⟨47, 32, .rw⟩, ⟨31, 31, .rw⟩, ⟨24, 12, .rw⟩, ⟨11, 0, .rw⟩]⟩
  | .barrierStatus => -- STT_BARRIER_STATUS (R426)
    ⟨0x200c08, [], false, 0x0, [⟨31, 31, .ro⟩, ⟨30, 30, .ro⟩, ⟨29, 29, .w1c⟩, ⟨15, 0, .ro⟩]⟩
  | .cellOwner => -- SEQ_CELL_OWNER (R245)
    ⟨0x300000, [(4, 0x4)], false, 0x0, [⟨3, 3, .rw⟩, ⟨2, 0, .rw⟩, ⟨7, 7, .rw⟩, ⟨6, 4, .rw⟩, ⟨11, 11, .rw⟩, ⟨10, 8, .rw⟩, ⟨15, 15, .rw⟩, ⟨14, 12, .rw⟩, ⟨19, 19, .rw⟩, ⟨18, 16, .rw⟩, ⟨23, 23, .rw⟩, ⟨22, 20, .rw⟩, ⟨27, 27, .rw⟩, ⟨26, 24, .rw⟩, ⟨31, 31, .rw⟩, ⟨30, 28, .rw⟩]⟩
  | .seqLoad => -- SEQ_LOAD (R386)
    ⟨0x300100, [(8, 0x4)], false, 0x0, [⟨31, 31, .rw⟩, ⟨30, 16, .rw⟩, ⟨14, 0, .ro⟩]⟩
  | .fwCtrl => -- SEQ_FW_CTRL (R542)
    ⟨0x300200, [], false, 0x0, [⟨31, 31, .wo⟩, ⟨30, 30, .wo⟩]⟩
  | .fwSrc => -- SEQ_FW_SRC (R542)
    ⟨0x300208, [], true, 0x0, [⟨47, 6, .rw⟩]⟩
  | .fwStatus => -- SEQ_FW_STATUS (R542)
    ⟨0x300210, [], false, 0x0, [⟨31, 31, .ro⟩, ⟨30, 29, .ro⟩, ⟨28, 28, .ro⟩, ⟨27, 27, .w1c⟩, ⟨15, 0, .ro⟩]⟩
  | .fwSwitch => -- SEQ_FW_SWITCH (R542)
    ⟨0x300218, [], false, 0x0, [⟨31, 0, .rw⟩]⟩
  | .ctxCfg => -- SEQ_CTX_CFG (R387)
    ⟨0x301000, [(64, 0x40)], false, 0x0, [⟨31, 30, .rw⟩, ⟨29, 29, .rw⟩, ⟨28, 28, .rw⟩, ⟨15, 0, .rw⟩]⟩
  | .ctxAdmit => -- SEQ_CTX_ADMIT (R388)
    ⟨0x301004, [(64, 0x40)], false, 0x0, [⟨31, 16, .rw⟩, ⟨15, 0, .rw⟩]⟩
  | .ctxPeriod => -- SEQ_CTX_PERIOD (R388)
    ⟨0x301008, [(64, 0x40)], false, 0x0, [⟨31, 0, .rw⟩]⟩
  | .ctxLoad => -- SEQ_CTX_LOAD (R389)
    ⟨0x30100c, [(64, 0x40)], false, 0x0, [⟨18, 16, .rw⟩, ⟨14, 0, .rw⟩]⟩
  | .ctxCells => -- SEQ_CTX_CELLS (R389)
    ⟨0x301010, [(64, 0x40)], false, 0x0, [⟨31, 0, .rw⟩]⟩
  | .ctxScope => -- SEQ_CTX_SCOPE (R390)
    ⟨0x301014, [(64, 0x40)], false, 0x0, [⟨31, 31, .rw⟩, ⟨23, 12, .rw⟩, ⟨11, 0, .rw⟩]⟩
  | .ctxCtrl => -- SEQ_CTX_CTRL (R391)
    ⟨0x301018, [(64, 0x40)], false, 0x0, [⟨2, 2, .wo⟩, ⟨1, 1, .wo⟩, ⟨0, 0, .wo⟩]⟩
  | .ctxStatus => -- SEQ_CTX_STATUS (R392)
    ⟨0x30101c, [(64, 0x40)], false, 0x0, [⟨31, 29, .ro⟩, ⟨28, 28, .w1c⟩, ⟨27, 27, .w1c⟩, ⟨26, 26, .w1c⟩, ⟨25, 25, .ro⟩, ⟨24, 24, .ro⟩, ⟨23, 22, .ro⟩]⟩
  | .ctxCount => -- SEQ_CTX_COUNT (R393)
    ⟨0x301020, [(64, 0x40)], false, 0x0, [⟨31, 16, .rc⟩, ⟨15, 0, .rc⟩]⟩
  | .ctxLate => -- SEQ_CTX_LATE (R393)
    ⟨0x301024, [(64, 0x40)], false, 0x0, [⟨31, 16, .rc⟩, ⟨15, 0, .rc⟩]⟩
  | .ctxGuard => -- SEQ_CTX_GUARD (R395)
    ⟨0x301028, [(64, 0x40), (3, 0x8)], true, 0x0, [⟨63, 63, .rw⟩, ⟨62, 51, .rw⟩, ⟨50, 35, .rw⟩, ⟨16, 0, .rw⟩]⟩
  | .rcvCfg => -- SEQ_RCV_CFG (R538)
    ⟨0x302000, [(64, 0x10)], false, 0x0, [⟨31, 31, .rw⟩, ⟨30, 27, .rw⟩]⟩
  | .rcvStatus => -- SEQ_RCV_STATUS (R539)
    ⟨0x302004, [(64, 0x10)], false, 0x0, [⟨31, 31, .w1c⟩, ⟨30, 30, .w1c⟩]⟩
  | .rcvCount => -- SEQ_RCV_COUNT (R539)
    ⟨0x302008, [(64, 0x10)], false, 0x0, [⟨31, 16, .rc⟩, ⟨15, 0, .rc⟩]⟩
  | .ctxFirst => -- SEQ_CTX_FIRST (R394)
    ⟨0x303000, [(64, 0x4)], false, 0x0, [⟨31, 0, .rw⟩]⟩
  | .talValue => -- TAL_VALUE (R246)
    ⟨0x400000, [(4096, 0x40)], false, 0x0, [⟨31, 0, .rw⟩]⟩
  | .talAdd => -- TAL_ADD (R246)
    ⟨0x400004, [(4096, 0x40)], false, 0x0, [⟨31, 0, .wo⟩]⟩
  | .talThresh => -- TAL_THRESH (R246)
    ⟨0x400008, [(4096, 0x40)], false, 0x0, [⟨31, 0, .rw⟩]⟩
  | .talCtrl => -- TAL_CTRL (R246)
    ⟨0x40000c, [(4096, 0x40)], false, 0x0, [⟨0, 0, .rw⟩]⟩
  | .talStatus => -- TAL_STATUS (R246)
    ⟨0x400010, [(4096, 0x40)], false, 0x0, [⟨0, 0, .w1c⟩]⟩
  | .queBase => -- QUE_BASE (R238)
    ⟨0x500000, [(4096, 0x40)], true, 0x0, [⟨47, 6, .rw⟩]⟩
  | .queCfg => -- QUE_CFG (R239)
    ⟨0x500008, [(4096, 0x40)], false, 0x20000, [⟨31, 31, .rw⟩, ⟨30, 28, .rw⟩, ⟨27, 22, .rw⟩, ⟨21, 21, .rw⟩, ⟨20, 20, .rw⟩, ⟨19, 15, .rw⟩, ⟨14, 12, .rw⟩]⟩
  | .queRate => -- QUE_RATE (R240)
    ⟨0x50000c, [(4096, 0x40)], false, 0x0, [⟨23, 0, .rw⟩]⟩
  | .queBurst => -- QUE_BURST (R240)
    ⟨0x500010, [(4096, 0x40)], false, 0x0, [⟨20, 0, .rw⟩]⟩
  | .queTail => -- QUE_TAIL (R241)
    ⟨0x500014, [(4096, 0x40)], false, 0x0, [⟨31, 0, .ro⟩]⟩
  | .queHead => -- QUE_HEAD (R241)
    ⟨0x500018, [(4096, 0x40)], false, 0x0, [⟨31, 0, .ro⟩]⟩
  | .queStatus => -- QUE_STATUS (R242)
    ⟨0x50001c, [(4096, 0x40)], false, 0x0, [⟨31, 31, .ro⟩, ⟨30, 30, .w1c⟩, ⟨29, 29, .w1c⟩, ⟨28, 28, .w1c⟩, ⟨27, 27, .ro⟩, ⟨26, 23, .ro⟩, ⟨7, 0, .ro⟩]⟩
  | .queCtrl => -- QUE_CTRL (R243)
    ⟨0x500020, [(4096, 0x40)], false, 0x0, [⟨1, 1, .wo⟩, ⟨0, 0, .wo⟩]⟩
  | .queCount => -- QUE_COUNT (R244)
    ⟨0x500024, [(4096, 0x40)], false, 0x0, [⟨31, 16, .rc⟩, ⟨15, 0, .rc⟩]⟩
  | .kcxRingBase => -- KCX_RING_BASE (R294)
    ⟨0x600000, [(16, 0x40)], true, 0x0, [⟨47, 6, .rw⟩]⟩
  | .kcxRingCfg => -- KCX_RING_CFG (R294)
    ⟨0x600008, [(16, 0x40)], false, 0x20000000, [⟨31, 31, .rw⟩, ⟨30, 27, .rw⟩, ⟨11, 0, .rw⟩]⟩
  | .kcxRingTail => -- KCX_RING_TAIL (R294)
    ⟨0x60000c, [(16, 0x40)], false, 0x0, [⟨31, 0, .wo⟩]⟩
  | .kcxRingHead => -- KCX_RING_HEAD (R294)
    ⟨0x600010, [(16, 0x40)], false, 0x0, [⟨31, 0, .ro⟩]⟩
  | .kcxRingStatus => -- KCX_RING_STATUS (R295)
    ⟨0x600014, [(16, 0x40)], false, 0x0, [⟨31, 31, .ro⟩, ⟨30, 30, .w1c⟩, ⟨29, 29, .w1c⟩, ⟨7, 0, .ro⟩]⟩
  | .kcxRingCtrl => -- KCX_RING_CTRL (R294)
    ⟨0x600018, [(16, 0x40)], false, 0x0, [⟨1, 1, .wo⟩, ⟨0, 0, .wo⟩]⟩
  | .bceRingBase => -- BCE_RING_BASE (R294)
    ⟨0x700000, [(8, 0x40)], true, 0x0, [⟨47, 6, .rw⟩]⟩
  | .bceRingCfg => -- BCE_RING_CFG (R294)
    ⟨0x700008, [(8, 0x40)], false, 0x20000000, [⟨31, 31, .rw⟩, ⟨30, 27, .rw⟩, ⟨11, 0, .rw⟩]⟩
  | .bceRingTail => -- BCE_RING_TAIL (R294)
    ⟨0x70000c, [(8, 0x40)], false, 0x0, [⟨31, 0, .wo⟩]⟩
  | .bceRingHead => -- BCE_RING_HEAD (R294)
    ⟨0x700010, [(8, 0x40)], false, 0x0, [⟨31, 0, .ro⟩]⟩
  | .bceRingStatus => -- BCE_RING_STATUS (R295)
    ⟨0x700014, [(8, 0x40)], false, 0x0, [⟨31, 31, .ro⟩, ⟨30, 30, .w1c⟩, ⟨29, 29, .w1c⟩, ⟨7, 0, .ro⟩]⟩
  | .bceRingCtrl => -- BCE_RING_CTRL (R294)
    ⟨0x700018, [(8, 0x40)], false, 0x0, [⟨1, 1, .wo⟩, ⟨0, 0, .wo⟩]⟩
  | .motRingBase => -- MOT_RING_BASE (R294)
    ⟨0x708000, [(8, 0x40)], true, 0x0, [⟨47, 6, .rw⟩]⟩
  | .motRingCfg => -- MOT_RING_CFG (R294)
    ⟨0x708008, [(8, 0x40)], false, 0x20000000, [⟨31, 31, .rw⟩, ⟨30, 27, .rw⟩, ⟨11, 0, .rw⟩]⟩
  | .motRingTail => -- MOT_RING_TAIL (R294)
    ⟨0x70800c, [(8, 0x40)], false, 0x0, [⟨31, 0, .wo⟩]⟩
  | .motRingHead => -- MOT_RING_HEAD (R294)
    ⟨0x708010, [(8, 0x40)], false, 0x0, [⟨31, 0, .ro⟩]⟩
  | .motRingStatus => -- MOT_RING_STATUS (R295)
    ⟨0x708014, [(8, 0x40)], false, 0x0, [⟨31, 31, .ro⟩, ⟨30, 30, .w1c⟩, ⟨29, 29, .w1c⟩, ⟨7, 0, .ro⟩]⟩
  | .motRingCtrl => -- MOT_RING_CTRL (R294)
    ⟨0x708018, [(8, 0x40)], false, 0x0, [⟨1, 1, .wo⟩, ⟨0, 0, .wo⟩]⟩
  | .kcxCount => -- KCX_COUNT (R330)
    ⟨0x600400, [], false, 0x0, [⟨31, 16, .rc⟩, ⟨15, 0, .rc⟩]⟩
  | .kcxFaultCount => -- KCX_FAULT_COUNT (R331)
    ⟨0x600404, [], false, 0x0, [⟨31, 16, .rc⟩, ⟨15, 0, .rc⟩]⟩
  | .bceCount => -- BCE_COUNT (R296)
    ⟨0x700200, [], false, 0x0, [⟨31, 16, .rc⟩, ⟨15, 0, .rc⟩]⟩
  | .motCount => -- MOT_COUNT (R361)
    ⟨0x708200, [], false, 0x0, [⟨31, 16, .rc⟩, ⟨15, 0, .rc⟩]⟩
  | .motPool => -- MOT_POOL (R360)
    ⟨0x709000, [(64, 0x40), (8, 0x8)], true, 0x0, [⟨63, 32, .ro⟩, ⟨31, 30, .ro⟩, ⟨29, 29, .ro⟩]⟩
  | .slbCell => -- SLB_CELL (R540)
    ⟨0x920000, [(4, 0x200000), (9, 0x4)], false, 0x0, [⟨31, 29, .ro⟩, ⟨28, 24, .ro⟩, ⟨15, 0, .ro⟩]⟩
  | .slbRemapCtrl => -- SLB_REMAP_CTRL (R541)
    ⟨0x920040, [(4, 0x200000)], false, 0x40000000, [⟨31, 31, .wo⟩, ⟨30, 30, .rw⟩, ⟨3, 0, .rw⟩]⟩
  | .slbRetireCfg => -- SLB_RETIRE_CFG (R541)
    ⟨0x920044, [(4, 0x200000)], false, 0x8, [⟨7, 0, .rw⟩]⟩
  | .arithFlags => -- CEL_ARITH_FLAGS (R70)
    ⟨0x800100, [(4, 0x200000), (9, 0x20000)], false, 0x0, [⟨4, 4, .w1c⟩, ⟨3, 3, .w1c⟩, ⟨2, 2, .w1c⟩, ⟨1, 1, .w1c⟩, ⟨0, 0, .w1c⟩]⟩
  | .accCtrl => -- CEL_ACC_CTRL (R97)
    ⟨0x800200, [(4, 0x200000), (9, 0x20000)], false, 0x0, [⟨1, 1, .rw⟩, ⟨0, 0, .rw⟩]⟩
  | .accStatus => -- CEL_ACC_STATUS (R98)
    ⟨0x800204, [(4, 0x200000), (9, 0x20000)], false, 0x0, [⟨5, 5, .ro⟩, ⟨4, 3, .ro⟩, ⟨2, 1, .ro⟩, ⟨0, 0, .ro⟩]⟩
  | .chkStatus => -- CEL_CHK_STATUS (R99)
    ⟨0x800210, [(4, 0x200000), (9, 0x20000)], false, 0x3ffff, [⟨31, 31, .w1c⟩, ⟨30, 30, .w1c⟩, ⟨29, 29, .w1c⟩, ⟨17, 9, .ro⟩, ⟨8, 0, .ro⟩]⟩
  | .chkCount => -- CEL_CHK_COUNT (R100)
    ⟨0x800214, [(4, 0x200000), (9, 0x20000)], false, 0x0, [⟨31, 16, .rc⟩, ⟨15, 0, .rc⟩]⟩
  | .chkInject => -- CEL_CHK_INJECT (R101)
    ⟨0x800218, [(4, 0x200000), (9, 0x20000)], false, 0x0, [⟨31, 31, .wo⟩, ⟨17, 9, .wo⟩, ⟨8, 0, .wo⟩]⟩
  | .memCtrl => -- CEL_MEM_CTRL (R127)
    ⟨0x800300, [(4, 0x200000), (9, 0x20000)], false, 0x0, [⟨0, 0, .wo⟩]⟩
  | .memStatus => -- CEL_MEM_STATUS (R128)
    ⟨0x800304, [(4, 0x200000), (9, 0x20000)], false, 0x1, [⟨1, 1, .w1c⟩, ⟨0, 0, .ro⟩]⟩
  | .memCount => -- CEL_MEM_COUNT (R129)
    ⟨0x800308, [(4, 0x200000), (9, 0x20000)], false, 0x0, [⟨31, 16, .rc⟩, ⟨15, 0, .rc⟩]⟩
  | .agFlags => -- CEL_AG_FLAGS (R130)
    ⟨0x800310, [(4, 0x200000), (9, 0x20000)], false, 0x0, [⟨1, 1, .w1c⟩, ⟨0, 0, .w1c⟩]⟩
  | .agCount => -- CEL_AG_COUNT (R131)
    ⟨0x800314, [(4, 0x200000), (9, 0x20000)], false, 0x0, [⟨31, 16, .rc⟩, ⟨15, 0, .rc⟩]⟩
  | .ftbBank => -- CEL_FTB_BANK (R152)
    ⟨0x800400, [(4, 0x200000), (9, 0x20000), (2, 0x4)], false, 0x0, [⟨31, 30, .ro⟩, ⟨22, 16, .ro⟩, ⟨15, 0, .ro⟩]⟩
  | .vecCount => -- CEL_VEC_COUNT (R153)
    ⟨0x800410, [(4, 0x200000), (9, 0x20000)], false, 0x0, [⟨31, 16, .rc⟩, ⟨15, 0, .rc⟩]⟩
  | .srfStatus => -- CEL_SRF_STATUS (R181)
    ⟨0x800500, [(4, 0x200000), (9, 0x20000)], false, 0x0, [⟨3, 0, .w1s⟩]⟩
  | .scaleFlags => -- CEL_SCALE_FLAGS (R182)
    ⟨0x800504, [(4, 0x200000), (9, 0x20000)], false, 0x0, [⟨5, 5, .w1c⟩, ⟨4, 4, .w1c⟩, ⟨3, 3, .w1c⟩, ⟨2, 2, .w1c⟩, ⟨1, 1, .w1c⟩, ⟨0, 0, .w1c⟩]⟩
  | .scaleCount => -- CEL_SCALE_COUNT (R183)
    ⟨0x800508, [(4, 0x200000), (9, 0x20000)], false, 0x0, [⟨31, 16, .rc⟩, ⟨15, 0, .rc⟩]⟩
  | .scaleLast => -- CEL_SCALE_LAST (R184)
    ⟨0x80050c, [(4, 0x200000), (9, 0x20000)], false, 0x0, [⟨31, 16, .ro⟩, ⟨13, 10, .ro⟩, ⟨9, 0, .ro⟩]⟩
  | .cseqStatus => -- CEL_SEQ_STATUS (R209)
    ⟨0x800600, [(4, 0x200000), (9, 0x20000)], false, 0x0, [⟨31, 30, .ro⟩, ⟨29, 29, .ro⟩, ⟨18, 16, .ro⟩, ⟨15, 12, .ro⟩, ⟨11, 0, .ro⟩]⟩
  | .cseqFault => -- CEL_SEQ_FAULT (R210)
    ⟨0x800604, [(4, 0x200000), (9, 0x20000)], false, 0x0, [⟨31, 31, .w1c⟩, ⟨30, 27, .ro⟩, ⟨26, 25, .ro⟩, ⟨22, 12, .ro⟩, ⟨11, 0, .ro⟩]⟩
  | .cseqCount => -- CEL_SEQ_COUNT (R211)
    ⟨0x800608, [(4, 0x200000), (9, 0x20000)], false, 0x0, [⟨31, 16, .rc⟩, ⟨15, 0, .rc⟩]⟩
  | .dmaFault => -- CEL_DMA_FAULT (R271)
    ⟨0x800700, [(4, 0x200000), (9, 0x20000)], false, 0x0, [⟨31, 31, .w1c⟩, ⟨30, 30, .ro⟩, ⟨11, 0, .ro⟩]⟩
  | .dmaExp => -- CEL_DMA_DIGEST_EXP (R272)
    ⟨0x800708, [(4, 0x200000), (9, 0x20000)], true, 0x0, [⟨63, 0, .ro⟩]⟩
  | .dmaGot => -- CEL_DMA_DIGEST_GOT (R272)
    ⟨0x800710, [(4, 0x200000), (9, 0x20000)], true, 0x0, [⟨63, 0, .ro⟩]⟩
  | .dmaCount => -- CEL_DMA_COUNT (R273)
    ⟨0x800718, [(4, 0x200000), (9, 0x20000)], false, 0x0, [⟨31, 16, .rc⟩, ⟨15, 0, .rc⟩]⟩
  | .dbgCtrl => -- CEL_DBG_CTRL (R557)
    ⟨0x800800, [(4, 0x200000), (9, 0x20000)], false, 0x0, [⟨31, 31, .wo⟩, ⟨30, 30, .wo⟩, ⟨29, 29, .wo⟩, ⟨28, 28, .wo⟩, ⟨4, 4, .rw⟩, ⟨3, 0, .rw⟩]⟩
  | .dbgStatus => -- CEL_DBG_STATUS (R558)
    ⟨0x800804, [(4, 0x200000), (9, 0x20000)], false, 0x0, [⟨31, 31, .ro⟩, ⟨30, 30, .ro⟩, ⟨29, 29, .ro⟩, ⟨28, 28, .ro⟩, ⟨27, 27, .ro⟩, ⟨25, 22, .ro⟩, ⟨21, 18, .ro⟩, ⟨17, 14, .ro⟩, ⟨13, 10, .ro⟩]⟩
  | .dbgBp => -- CEL_DBG_BP (R559)
    ⟨0x800808, [(4, 0x200000), (9, 0x20000)], false, 0x0, [⟨31, 31, .rw⟩, ⟨30, 30, .rw⟩, ⟨29, 29, .rw⟩, ⟨27, 12, .rw⟩, ⟨11, 0, .rw⟩]⟩
  | .dbgTrace => -- CEL_DBG_TRACE (R559)
    ⟨0x800810, [(4, 0x200000), (9, 0x20000)], true, 0x0, [⟨63, 48, .rw⟩, ⟨47, 32, .rw⟩, ⟨6, 0, .rw⟩]⟩
  | .dbgLoop => -- CEL_DBG_LOOP (R559)
    ⟨0x800818, [(4, 0x200000), (9, 0x20000)], true, 0x0, [⟨60, 48, .ro⟩, ⟨44, 32, .ro⟩, ⟨28, 16, .ro⟩, ⟨12, 0, .ro⟩]⟩
  | .cmdInvalid => -- CEL_CMD_INVALID (R550)
    ⟨0x800820, [(4, 0x200000), (9, 0x20000)], false, 0x0, [⟨31, 0, .ro⟩]⟩
  | .cmdSaturated => -- CEL_CMD_SATURATED (R550)
    ⟨0x800824, [(4, 0x200000), (9, 0x20000)], false, 0x0, [⟨31, 0, .ro⟩]⟩
  | .cmdFlushed => -- CEL_CMD_FLUSHED (R550)
    ⟨0x800828, [(4, 0x200000), (9, 0x20000)], false, 0x0, [⟨31, 0, .ro⟩]⟩
  | .srfEntry => -- CEL_SRF_ENTRY (R154)
    ⟨0x808000, [(4, 0x200000), (9, 0x20000), (4096, 0x8)], true, 0x0, [⟨47, 32, .rw⟩, ⟨21, 16, .rw⟩, ⟨15, 0, .rw⟩]⟩
  | .fusedLo => -- CEL_FUSED_ENTRY_LO (R169)
    ⟨0x810000, [(4, 0x200000), (9, 0x20000), (1024, 0x10)], true, 0xe4000, [⟨21, 16, .rw⟩, ⟨15, 0, .rw⟩]⟩
  | .fusedHi => -- CEL_FUSED_ENTRY_HI (R169)
    ⟨0x810008, [(4, 0x200000), (9, 0x20000), (1024, 0x10)], true, 0x0, [⟨63, 32, .rw⟩, ⟨15, 0, .rw⟩]⟩
  | .tagStore => -- CEL_TAG_STORE (R560)
    ⟨0x814000, [(4, 0x200000), (9, 0x20000), (4096, 0x4)], false, 0x0, [⟨31, 0, .ro⟩]⟩
  | .storeWindow => -- CEL_STORE_WINDOW (R549)
    ⟨0x818000, [(4, 0x200000), (9, 0x20000), (8192, 0x4)], false, 0x0, [⟨31, 0, .ro⟩]⟩
  | .aperture => -- MEM_APERTURE (R267)
    ⟨0x1000000, [], true, 0x0, [⟨47, 30, .rw⟩]⟩
  | .shelfCtrl => -- MEM_SHELF_CTRL (R268)
    ⟨0x1000020, [(2, 0x10)], false, 0x0, [⟨1, 1, .wo⟩, ⟨0, 0, .wo⟩]⟩
  | .shelfStatus => -- MEM_SHELF_STATUS (R269)
    ⟨0x1000024, [(2, 0x10)], false, 0x0, [⟨31, 30, .ro⟩, ⟨29, 29, .ro⟩, ⟨28, 28, .w1c⟩, ⟨26, 24, .ro⟩, ⟨12, 0, .ro⟩]⟩
  | .shelfCount => -- MEM_SHELF_COUNT (R270)
    ⟨0x1000028, [(2, 0x10)], false, 0x0, [⟨31, 16, .rc⟩, ⟨15, 0, .rc⟩]⟩
  | .portCtrl => -- FAB_PORT_CTRL (R456)
    ⟨0x1100000, [(24, 0x40)], false, 0x1, [⟨1, 1, .wo⟩, ⟨0, 0, .rw⟩]⟩
  | .portStatus => -- FAB_PORT_STATUS (R457)
    ⟨0x1100004, [(24, 0x40)], false, 0x0, [⟨31, 29, .ro⟩, ⟨28, 21, .ro⟩, ⟨20, 20, .ro⟩, ⟨19, 16, .ro⟩, ⟨15, 11, .ro⟩, ⟨10, 0, .ro⟩]⟩
  | .portCount => -- FAB_PORT_COUNT (R458)
    ⟨0x1100008, [(24, 0x40)], false, 0x0, [⟨31, 16, .rc⟩, ⟨15, 0, .rc⟩]⟩
  | .fabNode => -- FAB_NODE (R458)
    ⟨0x1100800, [], false, 0x7ff, [⟨31, 16, .rw⟩, ⟨15, 12, .rw⟩, ⟨10, 0, .rw⟩]⟩
  | .fabTree => -- FAB_TREE (R458)
    ⟨0x1100804, [], false, 0xf8000000, [⟨31, 27, .rw⟩, ⟨23, 0, .rw⟩]⟩
  | .fabMembers => -- FAB_MEMBERS (R458)
    ⟨0x1100808, [], false, 0x0, [⟨15, 0, .rw⟩]⟩
  | .fabTreeStatus => -- FAB_TREE_STATUS (R458)
    ⟨0x110080c, [], false, 0x0, [⟨31, 31, .ro⟩, ⟨10, 0, .ro⟩]⟩
  | .chanCfg => -- FAB_CHAN_CFG (R459)
    ⟨0x1101000, [(256, 0x20)], false, 0x0, [⟨31, 31, .rw⟩, ⟨30, 30, .rw⟩, ⟨29, 25, .rw⟩, ⟨24, 19, .rw⟩, ⟨18, 11, .rw⟩]⟩
  | .chanBuf => -- FAB_CHAN_BUF (R458)
    ⟨0x1101008, [(256, 0x20)], true, 0x0, [⟨47, 6, .rw⟩]⟩
  | .chanSeg => -- FAB_CHAN_SEG (R458)
    ⟨0x1101010, [(256, 0x20)], false, 0x0, [⟨23, 16, .rw⟩, ⟨15, 0, .rw⟩]⟩
  | .chanTally => -- FAB_CHAN_TALLY (R458)
    ⟨0x1101014, [(256, 0x20)], false, 0x0, [⟨24, 12, .rw⟩, ⟨11, 0, .rw⟩]⟩
  | .chanStatus => -- FAB_CHAN_STATUS (R458)
    ⟨0x1101018, [(256, 0x20)], false, 0x0, [⟨31, 31, .ro⟩, ⟨30, 30, .w1c⟩, ⟨29, 29, .w1c⟩, ⟨15, 0, .ro⟩]⟩
  | .lasStatus => -- LAS_STATUS (R460)
    ⟨0x1200000, [(16, 0x40)], false, 0x0, [⟨31, 29, .ro⟩, ⟨28, 28, .ro⟩, ⟨27, 27, .ro⟩, ⟨26, 26, .ro⟩, ⟨25, 25, .w1c⟩, ⟨24, 24, .w1c⟩, ⟨15, 8, .ro⟩, ⟨7, 0, .ro⟩]⟩
  | .lasCtrl => -- LAS_CTRL (R461)
    ⟨0x1200004, [(16, 0x40)], false, 0x0, [⟨1, 1, .rw⟩, ⟨0, 0, .wo⟩]⟩
  | .lasWear => -- LAS_WEAR (R459)
    ⟨0x1200008, [(16, 0x40)], false, 0x0, [⟨31, 0, .ro⟩]⟩
  | .lasSerial => -- LAS_SERIAL (R459)
    ⟨0x1200010, [(16, 0x40)], true, 0x0, [⟨63, 0, .ro⟩]⟩
  | .lasRating => -- LAS_RATING (R459)
    ⟨0x1200018, [(16, 0x40)], false, 0x0, [⟨31, 16, .ro⟩, ⟨15, 8, .ro⟩, ⟨7, 0, .ro⟩]⟩
  | .mboxCfg => -- HST_MBOX_CFG (R488)
    ⟨0x1300000, [], true, 0x0, [⟨47, 14, .rw⟩, ⟨1, 1, .w1c⟩, ⟨0, 0, .rw⟩]⟩
  | .mboxMap => -- HST_MBOX_MAP (R488)
    ⟨0x1300100, [(256, 0x4)], false, 0x0, [⟨31, 30, .rw⟩, ⟨7, 0, .rw⟩]⟩
  | .tallySum => -- HST_TALLY_SUM (R488)
    ⟨0x1300800, [(64, 0x8)], true, 0x0, [⟨63, 0, .ro⟩]⟩
  | .outRing => -- HST_OUT_RING (R489)
    ⟨0x1302000, [(64, 0x40)], true, 0x0, [⟨63, 12, .rw⟩]⟩
  | .outRec => -- HST_OUT_REC (R489)
    ⟨0x1302008, [(64, 0x40)], true, 0x0, [⟨63, 12, .rw⟩]⟩
  | .outSpill => -- HST_OUT_SPILL (R489)
    ⟨0x1302010, [(64, 0x40)], true, 0x0, [⟨47, 12, .rw⟩]⟩
  | .outEgress => -- HST_OUT_EGRESS (R489)
    ⟨0x1302018, [(64, 0x40)], true, 0x0, [⟨63, 52, .rw⟩, ⟨51, 48, .rw⟩, ⟨47, 6, .rw⟩]⟩
  | .outCfg => -- HST_OUT_CFG (R489)
    ⟨0x1302020, [(64, 0x40)], false, 0x10001000, [⟨31, 31, .rw⟩, ⟨30, 26, .rw⟩, ⟨25, 23, .rw⟩, ⟨22, 12, .rw⟩, ⟨11, 0, .rw⟩]⟩
  | .outTail => -- HST_OUT_TAIL (R489)
    ⟨0x1302024, [(64, 0x40)], false, 0x0, [⟨31, 0, .rw⟩]⟩
  | .outStatus => -- HST_OUT_STATUS (R489)
    ⟨0x1302028, [(64, 0x40)], false, 0x0, [⟨31, 31, .ro⟩, ⟨30, 30, .ro⟩, ⟨28, 16, .ro⟩, ⟨15, 0, .rc⟩]⟩
  | .msixEntry => -- MSIX_TABLE (R578)
    ⟨0x1308000, [(129, 0x10), (3, 0x4)], false, 0x0, [⟨31, 0, .rw⟩]⟩
  | .msixCtrl => -- MSIX_VECTOR_CTRL (R578)
    ⟨0x130800c, [(129, 0x10)], false, 0x1, [⟨0, 0, .rw⟩]⟩
  | .msixPba => -- MSIX_PBA (R578)
    ⟨0x1309000, [(5, 0x4)], false, 0x0, [⟨31, 0, .ro⟩]⟩
  | .strmAddr => -- MDP_STRM_ADDR (R491)
    ⟨0x1400000, [(128, 0x40)], true, 0x0, [⟨63, 0, .rw⟩]⟩
  | .strmCommit => -- MDP_STRM_COMMIT (R491)
    ⟨0x1400008, [(128, 0x40)], true, 0x0, [⟨63, 32, .ro⟩, ⟨31, 31, .wo⟩, ⟨30, 30, .ro⟩, ⟨15, 0, .rc⟩]⟩
  | .strmLatch => -- MDP_STRM_LATCH (R491)
    ⟨0x1400010, [(128, 0x40)], false, 0x0, [⟨15, 0, .rw⟩]⟩
  | .mdpCount => -- MDP_COUNT (R492)
    ⟨0x1402000, [], false, 0x0, [⟨31, 31, .w1c⟩, ⟨30, 16, .rc⟩, ⟨15, 0, .rc⟩]⟩
  | .mtrSnap => -- MTR_SNAP (R521)
    ⟨0x1500000, [], false, 0x0, [⟨31, 0, .ro⟩]⟩
  | .mtrReg => -- MTR_REG (R521)
    ⟨0x1500100, [(64, 0x8)], true, 0x0, [⟨63, 0, .ro⟩]⟩
  | .mtrTotal => -- MTR_TOTAL (R521)
    ⟨0x1500300, [], true, 0x0, [⟨63, 0, .ro⟩]⟩
  | .mtrUptime => -- MTR_UPTIME (R521)
    ⟨0x1500308, [], true, 0x0, [⟨63, 0, .ro⟩]⟩
  | .mtrFw => -- MTR_FW (R521)
    ⟨0x1500400, [(6, 0x4)], false, 0x0, [⟨31, 0, .ro⟩]⟩
  | .mtrStatus => -- MTR_STATUS (R521)
    ⟨0x1500420, [], false, 0x0, [⟨31, 16, .ro⟩, ⟨15, 0, .ro⟩]⟩
  | .dseqCtrl => -- DBG_SEQ_CTRL (R560)
    ⟨0x1600000, [(8, 0x40)], false, 0x0, [⟨31, 31, .wo⟩, ⟨30, 30, .wo⟩]⟩
  | .dseqStatus => -- DBG_SEQ_STATUS (R561)
    ⟨0x1600004, [(8, 0x40)], false, 0x0, [⟨31, 31, .ro⟩, ⟨30, 30, .ro⟩, ⟨29, 29, .ro⟩, ⟨28, 28, .ro⟩, ⟨27, 26, .ro⟩, ⟨15, 0, .rc⟩]⟩
  | .dseqBp => -- DBG_SEQ_BP (R562)
    ⟨0x1600010, [(8, 0x40), (4, 0x8)], true, 0x0, [⟨63, 63, .rw⟩, ⟨62, 62, .rw⟩, ⟨61, 61, .rw⟩, ⟨60, 60, .rw⟩, ⟨59, 48, .rw⟩, ⟨47, 47, .rw⟩, ⟨31, 0, .rw⟩]⟩
  | .dseqTrace => -- DBG_SEQ_TRACE (R563)
    ⟨0x1600030, [(8, 0x40)], false, 0x0, [⟨31, 31, .rw⟩, ⟨27, 16, .rw⟩, ⟨7, 7, .rw⟩, ⟨6, 6, .rw⟩]⟩
  | .traceCtrl => -- DBG_TRACE_CTRL (R564)
    ⟨0x1600400, [], false, 0x0, [⟨31, 31, .rw⟩, ⟨30, 30, .rw⟩, ⟨29, 29, .rw⟩, ⟨28, 28, .wo⟩]⟩
  | .traceStatus => -- DBG_TRACE_STATUS (R564)
    ⟨0x1600404, [], false, 0x0, [⟨31, 31, .ro⟩, ⟨30, 30, .ro⟩, ⟨17, 0, .ro⟩]⟩
  | .traceLost => -- DBG_TRACE_LOST (R564)
    ⟨0x1600408, [], false, 0x0, [⟨31, 0, .rc⟩]⟩
  | .dbgTime => -- DBG_TIME (R564)
    ⟨0x1600410, [], true, 0x0, [⟨63, 0, .ro⟩]⟩
  | .rsvCount => -- DBG_RSV_COUNT (R564)
    ⟨0x1600500, [], false, 0x0, [⟨31, 0, .rc⟩]⟩
  | .rsvLast => -- DBG_RSV_LAST (R564)
    ⟨0x1600504, [], false, 0x0, [⟨31, 31, .ro⟩, ⟨30, 30, .ro⟩, ⟨29, 29, .ro⟩, ⟨27, 0, .ro⟩]⟩
  | .rsvAddr => -- DBG_RSV_ADDR (R564)
    ⟨0x1600508, [], true, 0x0, [⟨35, 0, .ro⟩]⟩
  | .txnWait => -- DBG_TXN_WAIT (R564)
    ⟨0x1601000, [(45, 0x4)], false, 0x0, [⟨31, 0, .rc⟩]⟩
  | .traceBuf => -- DBG_TRACE_BUFFER (R554)
    ⟨0x1800000, [(2097152, 0x4)], false, 0x0, [⟨31, 0, .ro⟩]⟩

/-- Interface, numerics profile and readiness. -/
def hubRegs : List RegId :=
  [.hubIdentity, .hubProfile, .hubNumStatus, .hubReady]

/-- Power. -/
def pwrRegs : List RegId :=
  [.pwrClockPlan, .pwrPowerPlan, .pwrState, .pwrStatus, .pwrSense, .pwrUptime, .pwrBoot, .pwrHoldup,
   .pwrMeterTag, .pwrCount]

/-- Station time, thaw, record and replay, barriers. -/
def sttRegs : List RegId :=
  [.sttCfg, .sttRate, .sttVline, .sttPosition, .sttStatus, .sttCtrl, .sttExposure, .thawCfg, .thawPos,
   .thawLen, .thawStat, .thawCount, .rrCtrl, .rrBase, .rrStatus, .barrierCfg, .barrierStatus]

/-- Sequencers and contexts. -/
def seqRegs : List RegId :=
  [.cellOwner, .seqLoad, .fwCtrl, .fwSrc, .fwStatus, .fwSwitch, .ctxCfg, .ctxAdmit, .ctxPeriod,
   .ctxLoad, .ctxCells, .ctxScope, .ctxCtrl, .ctxStatus, .ctxCount, .ctxLate, .ctxGuard, .rcvCfg,
   .rcvStatus, .rcvCount, .ctxFirst]

/-- Tallies. -/
def talRegs : List RegId :=
  [.talValue, .talAdd, .talThresh, .talCtrl, .talStatus]

/-- Queues. -/
def queRegs : List RegId :=
  [.queBase, .queCfg, .queRate, .queBurst, .queTail, .queHead, .queStatus, .queCtrl, .queCount]

/-- Stream coders. -/
def kcxRegs : List RegId :=
  [.kcxRingBase, .kcxRingCfg, .kcxRingTail, .kcxRingHead, .kcxRingStatus, .kcxRingCtrl, .kcxCount,
   .kcxFaultCount]

/-- Coding engines and motion units. -/
def bceRegs : List RegId :=
  [.bceRingBase, .bceRingCfg, .bceRingTail, .bceRingHead, .bceRingStatus, .bceRingCtrl, .motRingBase,
   .motRingCfg, .motRingTail, .motRingHead, .motRingStatus, .motRingCtrl, .bceCount, .motCount,
   .motPool]

/-- Slabs and cells. -/
def cellRegs : List RegId :=
  [.slbCell, .slbRemapCtrl, .slbRetireCfg, .arithFlags, .accCtrl, .accStatus, .chkStatus, .chkCount,
   .chkInject, .memCtrl, .memStatus, .memCount, .agFlags, .agCount, .ftbBank, .vecCount, .srfStatus,
   .scaleFlags, .scaleCount, .scaleLast, .cseqStatus, .cseqFault, .cseqCount, .dmaFault, .dmaExp,
   .dmaGot, .dmaCount, .dbgCtrl, .dbgStatus, .dbgBp, .dbgTrace, .dbgLoop, .cmdInvalid, .cmdSaturated,
   .cmdFlushed, .srfEntry, .fusedLo, .fusedHi, .tagStore, .storeWindow]

/-- Aperture and shelves. -/
def shelfRegs : List RegId :=
  [.aperture, .shelfCtrl, .shelfStatus, .shelfCount]

/-- Ports, fabric and channels. -/
def portRegs : List RegId :=
  [.portCtrl, .portStatus, .portCount, .fabNode, .fabTree, .fabMembers, .fabTreeStatus, .chanCfg,
   .chanBuf, .chanSeg, .chanTally, .chanStatus]

/-- Lasers. -/
def lasRegs : List RegId :=
  [.lasStatus, .lasCtrl, .lasWear, .lasSerial, .lasRating]

/-- Mailbox, egress and MSI-X. -/
def hostRegs : List RegId :=
  [.mboxCfg, .mboxMap, .tallySum, .outRing, .outRec, .outSpill, .outEgress, .outCfg, .outTail,
   .outStatus, .msixEntry, .msixCtrl, .msixPba]

/-- Send streams and media. -/
def strmRegs : List RegId :=
  [.strmAddr, .strmCommit, .strmLatch, .mdpCount]

/-- Meters. -/
def mtrRegs : List RegId :=
  [.mtrSnap, .mtrReg, .mtrTotal, .mtrUptime, .mtrFw, .mtrStatus]

/-- Debug and trace. -/
def dbgRegs : List RegId :=
  [.dseqCtrl, .dseqStatus, .dseqBp, .dseqTrace, .traceCtrl, .traceStatus, .traceLost, .dbgTime,
   .rsvCount, .rsvLast, .rsvAddr, .txnWait]

/-- The registers of each block of 2^20 bytes of BAR0, in the order of the blocks: the slabs fill blocks 8 to 15, and the trace
buffer blocks 24 to 31. -/
def regBlocks : List (List RegId) :=
  [hubRegs, pwrRegs, sttRegs, seqRegs, talRegs, queRegs, kcxRegs, bceRegs] ++ List.replicate 8 cellRegs ++
    [shelfRegs, portRegs, lasRegs, hostRegs, strmRegs, mtrRegs, dbgRegs, []] ++ List.replicate 8 [.traceBuf]

/-- One named field of a register. -/
structure Fld where
  reg : RegId
  hi : Nat
  lo : Nat
  deriving DecidableEq, Repr

def Fld.hubIdentityDevice : Fld := ⟨.hubIdentity, 31, 16⟩
def Fld.hubIdentitySteppingMajor : Fld := ⟨.hubIdentity, 15, 12⟩
def Fld.hubIdentitySteppingMinor : Fld := ⟨.hubIdentity, 11, 8⟩
def Fld.hubIdentityActiveCells : Fld := ⟨.hubIdentity, 7, 0⟩
def Fld.hubProfileSwitchFrame : Fld := ⟨.hubProfile, 63, 32⟩
def Fld.hubProfilePendingId : Fld := ⟨.hubProfile, 31, 16⟩
def Fld.hubProfileActiveId : Fld := ⟨.hubProfile, 15, 0⟩
def Fld.hubNumStatusSwitchPending : Fld := ⟨.hubNumStatus, 1, 1⟩
def Fld.hubNumStatusSwitchRefused : Fld := ⟨.hubNumStatus, 0, 0⟩
def Fld.hubReadyReady : Fld := ⟨.hubReady, 31, 31⟩
def Fld.hubReadyFailStage : Fld := ⟨.hubReady, 30, 28⟩
def Fld.hubReadyTimeLocked : Fld := ⟨.hubReady, 4, 4⟩
def Fld.hubReadyOptics : Fld := ⟨.hubReady, 3, 3⟩
def Fld.hubReadyCells : Fld := ⟨.hubReady, 2, 2⟩
def Fld.hubReadyMemory : Fld := ⟨.hubReady, 1, 1⟩
def Fld.hubReadyConfig : Fld := ⟨.hubReady, 0, 0⟩
def Fld.pwrClockPlanPendingId : Fld := ⟨.pwrClockPlan, 31, 16⟩
def Fld.pwrClockPlanPlanId : Fld := ⟨.pwrClockPlan, 15, 0⟩
def Fld.pwrPowerPlanPendingId : Fld := ⟨.pwrPowerPlan, 31, 16⟩
def Fld.pwrPowerPlanPlanId : Fld := ⟨.pwrPowerPlan, 15, 0⟩
def Fld.pwrStateTarget : Fld := ⟨.pwrState, 31, 29⟩
def Fld.pwrStateCurrent : Fld := ⟨.pwrState, 28, 26⟩
def Fld.pwrStateMoving : Fld := ⟨.pwrState, 25, 25⟩
def Fld.pwrStateTargetRefused : Fld := ⟨.pwrState, 24, 24⟩
def Fld.pwrStateProtective : Fld := ⟨.pwrState, 23, 23⟩
def Fld.pwrStatusOverPower : Fld := ⟨.pwrStatus, 31, 31⟩
def Fld.pwrStatusTempWarn : Fld := ⟨.pwrStatus, 30, 30⟩
def Fld.pwrStatusThermalTrip : Fld := ⟨.pwrStatus, 29, 29⟩
def Fld.pwrStatusPlanRefused : Fld := ⟨.pwrStatus, 28, 28⟩
def Fld.pwrStatusHoldupWorn : Fld := ⟨.pwrStatus, 27, 27⟩
def Fld.pwrStatusLastShutdown : Fld := ⟨.pwrStatus, 26, 24⟩
def Fld.pwrSensePower : Fld := ⟨.pwrSense, 31, 20⟩
def Fld.pwrSenseTemperature : Fld := ⟨.pwrSense, 19, 12⟩
def Fld.pwrSenseVoltage : Fld := ⟨.pwrSense, 7, 0⟩
def Fld.pwrUptimeUptime : Fld := ⟨.pwrUptime, 63, 0⟩
def Fld.pwrBootBoot : Fld := ⟨.pwrBoot, 31, 0⟩
def Fld.pwrHoldupEnergy : Fld := ⟨.pwrHoldup, 31, 16⟩
def Fld.pwrHoldupCcal : Fld := ⟨.pwrHoldup, 15, 0⟩
def Fld.pwrMeterTagTag : Fld := ⟨.pwrMeterTag, 5, 0⟩
def Fld.pwrCountAdmissionsSkipped : Fld := ⟨.pwrCount, 31, 16⟩
def Fld.pwrCountStashRefused : Fld := ⟨.pwrCount, 15, 0⟩
def Fld.sttCfgSource : Fld := ⟨.sttCfg, 31, 30⟩
def Fld.sttCfgExposure : Fld := ⟨.sttCfg, 29, 29⟩
def Fld.sttCfgPtpPort : Fld := ⟨.sttCfg, 28, 27⟩
def Fld.sttCfgDomain : Fld := ⟨.sttCfg, 26, 20⟩
def Fld.sttCfgLinesM1 : Fld := ⟨.sttCfg, 15, 0⟩
def Fld.sttRateNum : Fld := ⟨.sttRate, 31, 12⟩
def Fld.sttRateDen : Fld := ⟨.sttRate, 11, 0⟩
def Fld.sttVlineMinGap : Fld := ⟨.sttVline, 31, 16⟩
def Fld.sttVlineVline : Fld := ⟨.sttVline, 15, 0⟩
def Fld.sttPositionFrame : Fld := ⟨.sttPosition, 63, 32⟩
def Fld.sttPositionLine : Fld := ⟨.sttPosition, 31, 16⟩
def Fld.sttPositionSubline : Fld := ⟨.sttPosition, 15, 0⟩
def Fld.sttStatusLock : Fld := ⟨.sttStatus, 31, 30⟩
def Fld.sttStatusStepped : Fld := ⟨.sttStatus, 29, 29⟩
def Fld.sttStatusSlewing : Fld := ⟨.sttStatus, 28, 28⟩
def Fld.sttStatusPulsesIgnored : Fld := ⟨.sttStatus, 15, 0⟩
def Fld.sttCtrlStep : Fld := ⟨.sttCtrl, 0, 0⟩
def Fld.sttExposureTclk : Fld := ⟨.sttExposure, 63, 0⟩
def Fld.thawCfgEnable : Fld := ⟨.thawCfg, 31, 31⟩
def Fld.thawCfgTask : Fld := ⟨.thawCfg, 30, 28⟩
def Fld.thawCfgMaxDefer : Fld := ⟨.thawCfg, 27, 20⟩
def Fld.thawCfgPeriodM1 : Fld := ⟨.thawCfg, 19, 12⟩
def Fld.thawCfgTarget : Fld := ⟨.thawCfg, 11, 0⟩
def Fld.thawPosLine : Fld := ⟨.thawPos, 31, 16⟩
def Fld.thawPosSubline : Fld := ⟨.thawPos, 15, 0⟩
def Fld.thawLenPhase : Fld := ⟨.thawLen, 31, 24⟩
def Fld.thawLenLength : Fld := ⟨.thawLen, 23, 0⟩
def Fld.thawStatOutcome : Fld := ⟨.thawStat, 31, 30⟩
def Fld.thawStatRunning : Fld := ⟨.thawStat, 29, 29⟩
def Fld.thawStatCfgRefused : Fld := ⟨.thawStat, 28, 28⟩
def Fld.thawStatDeferCount : Fld := ⟨.thawStat, 27, 20⟩
def Fld.thawCountDeferred : Fld := ⟨.thawCount, 31, 16⟩
def Fld.thawCountForced : Fld := ⟨.thawCount, 15, 0⟩
def Fld.rrCtrlMode : Fld := ⟨.rrCtrl, 31, 30⟩
def Fld.rrCtrlHaltOnDiverge : Fld := ⟨.rrCtrl, 29, 29⟩
def Fld.rrCtrlIngressDigest : Fld := ⟨.rrCtrl, 28, 28⟩
def Fld.rrCtrlLog2Size : Fld := ⟨.rrCtrl, 27, 23⟩
def Fld.rrBaseBase : Fld := ⟨.rrBase, 47, 6⟩
def Fld.rrStatusDivergeIndex : Fld := ⟨.rrStatus, 63, 32⟩
def Fld.rrStatusState : Fld := ⟨.rrStatus, 31, 30⟩
def Fld.rrStatusOverflow : Fld := ⟨.rrStatus, 29, 29⟩
def Fld.rrStatusDiverged : Fld := ⟨.rrStatus, 28, 28⟩
def Fld.rrStatusRecords : Fld := ⟨.rrStatus, 27, 0⟩
def Fld.barrierCfgLine : Fld := ⟨.barrierCfg, 63, 48⟩
def Fld.barrierCfgSubline : Fld := ⟨.barrierCfg, 47, 32⟩
def Fld.barrierCfgEnable : Fld := ⟨.barrierCfg, 31, 31⟩
def Fld.barrierCfgIncM1 : Fld := ⟨.barrierCfg, 24, 12⟩
def Fld.barrierCfgTally : Fld := ⟨.barrierCfg, 11, 0⟩
def Fld.barrierStatusFabricStarted : Fld := ⟨.barrierStatus, 31, 31⟩
def Fld.barrierStatusExcluded : Fld := ⟨.barrierStatus, 30, 30⟩
def Fld.barrierStatusTimeout : Fld := ⟨.barrierStatus, 29, 29⟩
def Fld.barrierStatusSkew : Fld := ⟨.barrierStatus, 15, 0⟩
def Fld.cellOwnerValid0 : Fld := ⟨.cellOwner, 3, 3⟩
def Fld.cellOwnerSequencer0 : Fld := ⟨.cellOwner, 2, 0⟩
def Fld.cellOwnerValid1 : Fld := ⟨.cellOwner, 7, 7⟩
def Fld.cellOwnerSequencer1 : Fld := ⟨.cellOwner, 6, 4⟩
def Fld.cellOwnerValid2 : Fld := ⟨.cellOwner, 11, 11⟩
def Fld.cellOwnerSequencer2 : Fld := ⟨.cellOwner, 10, 8⟩
def Fld.cellOwnerValid3 : Fld := ⟨.cellOwner, 15, 15⟩
def Fld.cellOwnerSequencer3 : Fld := ⟨.cellOwner, 14, 12⟩
def Fld.cellOwnerValid4 : Fld := ⟨.cellOwner, 19, 19⟩
def Fld.cellOwnerSequencer4 : Fld := ⟨.cellOwner, 18, 16⟩
def Fld.cellOwnerValid5 : Fld := ⟨.cellOwner, 23, 23⟩
def Fld.cellOwnerSequencer5 : Fld := ⟨.cellOwner, 22, 20⟩
def Fld.cellOwnerValid6 : Fld := ⟨.cellOwner, 27, 27⟩
def Fld.cellOwnerSequencer6 : Fld := ⟨.cellOwner, 26, 24⟩
def Fld.cellOwnerValid7 : Fld := ⟨.cellOwner, 31, 31⟩
def Fld.cellOwnerSequencer7 : Fld := ⟨.cellOwner, 30, 28⟩
def Fld.seqLoadCheckEn : Fld := ⟨.seqLoad, 31, 31⟩
def Fld.seqLoadLimit : Fld := ⟨.seqLoad, 30, 16⟩
def Fld.seqLoadSum : Fld := ⟨.seqLoad, 14, 0⟩
def Fld.fwCtrlLoad : Fld := ⟨.fwCtrl, 31, 31⟩
def Fld.fwCtrlSwitch : Fld := ⟨.fwCtrl, 30, 30⟩
def Fld.fwSrcBase : Fld := ⟨.fwSrc, 47, 6⟩
def Fld.fwStatusActiveSlot : Fld := ⟨.fwStatus, 31, 31⟩
def Fld.fwStatusInactiveState : Fld := ⟨.fwStatus, 30, 29⟩
def Fld.fwStatusSwitchPending : Fld := ⟨.fwStatus, 28, 28⟩
def Fld.fwStatusSwitchRefused : Fld := ⟨.fwStatus, 27, 27⟩
def Fld.fwStatusVersion : Fld := ⟨.fwStatus, 15, 0⟩
def Fld.fwSwitchSwitchFrame : Fld := ⟨.fwSwitch, 31, 0⟩
def Fld.ctxCfgKind : Fld := ⟨.ctxCfg, 31, 30⟩
def Fld.ctxCfgDropNewest : Fld := ⟨.ctxCfg, 29, 29⟩
def Fld.ctxCfgDepthM1 : Fld := ⟨.ctxCfg, 28, 28⟩
def Fld.ctxCfgProfile : Fld := ⟨.ctxCfg, 15, 0⟩
def Fld.ctxAdmitLine : Fld := ⟨.ctxAdmit, 31, 16⟩
def Fld.ctxAdmitSubline : Fld := ⟨.ctxAdmit, 15, 0⟩
def Fld.ctxPeriodPeriod : Fld := ⟨.ctxPeriod, 31, 0⟩
def Fld.ctxLoadSequencer : Fld := ⟨.ctxLoad, 18, 16⟩
def Fld.ctxLoadLoad : Fld := ⟨.ctxLoad, 14, 0⟩
def Fld.ctxCellsCells : Fld := ⟨.ctxCells, 31, 0⟩
def Fld.ctxScopeEnable : Fld := ⟨.ctxScope, 31, 31⟩
def Fld.ctxScopeCountM1 : Fld := ⟨.ctxScope, 23, 12⟩
def Fld.ctxScopeBase : Fld := ⟨.ctxScope, 11, 0⟩
def Fld.ctxCtrlResume : Fld := ⟨.ctxCtrl, 2, 2⟩
def Fld.ctxCtrlRelease : Fld := ⟨.ctxCtrl, 1, 1⟩
def Fld.ctxCtrlCreate : Fld := ⟨.ctxCtrl, 0, 0⟩
def Fld.ctxStatusState : Fld := ⟨.ctxStatus, 31, 29⟩
def Fld.ctxStatusCfgRefused : Fld := ⟨.ctxStatus, 28, 28⟩
def Fld.ctxStatusCreateRefused : Fld := ⟨.ctxStatus, 27, 27⟩
def Fld.ctxStatusGuardLate : Fld := ⟨.ctxStatus, 26, 26⟩
def Fld.ctxStatusDeferred : Fld := ⟨.ctxStatus, 25, 25⟩
def Fld.ctxStatusFreezeTiming : Fld := ⟨.ctxStatus, 24, 24⟩
def Fld.ctxStatusInFlight : Fld := ⟨.ctxStatus, 23, 22⟩
def Fld.ctxCountDropped : Fld := ⟨.ctxCount, 31, 16⟩
def Fld.ctxCountDeferred : Fld := ⟨.ctxCount, 15, 0⟩
def Fld.ctxLateLateGuards : Fld := ⟨.ctxLate, 31, 16⟩
def Fld.ctxLateTimingLost : Fld := ⟨.ctxLate, 15, 0⟩
def Fld.ctxGuardEnable : Fld := ⟨.ctxGuard, 63, 63⟩
def Fld.ctxGuardTally : Fld := ⟨.ctxGuard, 62, 51⟩
def Fld.ctxGuardStep : Fld := ⟨.ctxGuard, 50, 35⟩
def Fld.ctxGuardDeadline : Fld := ⟨.ctxGuard, 16, 0⟩
def Fld.rcvCfgRetryEn : Fld := ⟨.rcvCfg, 31, 31⟩
def Fld.rcvCfgWatchdog : Fld := ⟨.rcvCfg, 30, 27⟩
def Fld.rcvStatusAbandoned : Fld := ⟨.rcvStatus, 31, 31⟩
def Fld.rcvStatusRetryFailed : Fld := ⟨.rcvStatus, 30, 30⟩
def Fld.rcvCountRetries : Fld := ⟨.rcvCount, 31, 16⟩
def Fld.rcvCountAbandoned : Fld := ⟨.rcvCount, 15, 0⟩
def Fld.ctxFirstFrame : Fld := ⟨.ctxFirst, 31, 0⟩
def Fld.talValueValue : Fld := ⟨.talValue, 31, 0⟩
def Fld.talAddIncrement : Fld := ⟨.talAdd, 31, 0⟩
def Fld.talThreshThreshold : Fld := ⟨.talThresh, 31, 0⟩
def Fld.talCtrlIrqEn : Fld := ⟨.talCtrl, 0, 0⟩
def Fld.talStatusReached : Fld := ⟨.talStatus, 0, 0⟩
def Fld.queBaseBase : Fld := ⟨.queBase, 47, 6⟩
def Fld.queCfgEnable : Fld := ⟨.queCfg, 31, 31⟩
def Fld.queCfgSequencer : Fld := ⟨.queCfg, 30, 28⟩
def Fld.queCfgContext : Fld := ⟨.queCfg, 27, 22⟩
def Fld.queCfgAdmitMode : Fld := ⟨.queCfg, 21, 21⟩
def Fld.queCfgRegulated : Fld := ⟨.queCfg, 20, 20⟩
def Fld.queCfgLog2Size : Fld := ⟨.queCfg, 19, 15⟩
def Fld.queCfgCreditM1 : Fld := ⟨.queCfg, 14, 12⟩
def Fld.queRateRate : Fld := ⟨.queRate, 23, 0⟩
def Fld.queBurstBurst : Fld := ⟨.queBurst, 20, 0⟩
def Fld.queTailTail : Fld := ⟨.queTail, 31, 0⟩
def Fld.queHeadHead : Fld := ⟨.queHead, 31, 0⟩
def Fld.queStatusHalted : Fld := ⟨.queStatus, 31, 31⟩
def Fld.queStatusEntryFault : Fld := ⟨.queStatus, 30, 30⟩
def Fld.queStatusDoorbellRefused : Fld := ⟨.queStatus, 29, 29⟩
def Fld.queStatusCfgRefused : Fld := ⟨.queStatus, 28, 28⟩
def Fld.queStatusTokenWait : Fld := ⟨.queStatus, 27, 27⟩
def Fld.queStatusOutstanding : Fld := ⟨.queStatus, 26, 23⟩
def Fld.queStatusLastStatus : Fld := ⟨.queStatus, 7, 0⟩
def Fld.queCtrlFlush : Fld := ⟨.queCtrl, 1, 1⟩
def Fld.queCtrlResume : Fld := ⟨.queCtrl, 0, 0⟩
def Fld.queCountDoorbellsRefused : Fld := ⟨.queCount, 31, 16⟩
def Fld.queCountRegulatorWaits : Fld := ⟨.queCount, 15, 0⟩
def Fld.kcxRingBaseBase : Fld := ⟨.kcxRingBase, 47, 6⟩
def Fld.kcxRingCfgEnable : Fld := ⟨.kcxRingCfg, 31, 31⟩
def Fld.kcxRingCfgLog2Size : Fld := ⟨.kcxRingCfg, 30, 27⟩
def Fld.kcxRingCfgFaultTally : Fld := ⟨.kcxRingCfg, 11, 0⟩
def Fld.kcxRingTailTail : Fld := ⟨.kcxRingTail, 31, 0⟩
def Fld.kcxRingHeadHead : Fld := ⟨.kcxRingHead, 31, 0⟩
def Fld.kcxRingStatusHalted : Fld := ⟨.kcxRingStatus, 31, 31⟩
def Fld.kcxRingStatusCfgRefused : Fld := ⟨.kcxRingStatus, 30, 30⟩
def Fld.kcxRingStatusTailRefused : Fld := ⟨.kcxRingStatus, 29, 29⟩
def Fld.kcxRingStatusLastStatus : Fld := ⟨.kcxRingStatus, 7, 0⟩
def Fld.kcxRingCtrlFlush : Fld := ⟨.kcxRingCtrl, 1, 1⟩
def Fld.kcxRingCtrlResume : Fld := ⟨.kcxRingCtrl, 0, 0⟩
def Fld.bceRingBaseBase : Fld := ⟨.bceRingBase, 47, 6⟩
def Fld.bceRingCfgEnable : Fld := ⟨.bceRingCfg, 31, 31⟩
def Fld.bceRingCfgLog2Size : Fld := ⟨.bceRingCfg, 30, 27⟩
def Fld.bceRingCfgFaultTally : Fld := ⟨.bceRingCfg, 11, 0⟩
def Fld.bceRingTailTail : Fld := ⟨.bceRingTail, 31, 0⟩
def Fld.bceRingHeadHead : Fld := ⟨.bceRingHead, 31, 0⟩
def Fld.bceRingStatusHalted : Fld := ⟨.bceRingStatus, 31, 31⟩
def Fld.bceRingStatusCfgRefused : Fld := ⟨.bceRingStatus, 30, 30⟩
def Fld.bceRingStatusTailRefused : Fld := ⟨.bceRingStatus, 29, 29⟩
def Fld.bceRingStatusLastStatus : Fld := ⟨.bceRingStatus, 7, 0⟩
def Fld.bceRingCtrlFlush : Fld := ⟨.bceRingCtrl, 1, 1⟩
def Fld.bceRingCtrlResume : Fld := ⟨.bceRingCtrl, 0, 0⟩
def Fld.motRingBaseBase : Fld := ⟨.motRingBase, 47, 6⟩
def Fld.motRingCfgEnable : Fld := ⟨.motRingCfg, 31, 31⟩
def Fld.motRingCfgLog2Size : Fld := ⟨.motRingCfg, 30, 27⟩
def Fld.motRingCfgFaultTally : Fld := ⟨.motRingCfg, 11, 0⟩
def Fld.motRingTailTail : Fld := ⟨.motRingTail, 31, 0⟩
def Fld.motRingHeadHead : Fld := ⟨.motRingHead, 31, 0⟩
def Fld.motRingStatusHalted : Fld := ⟨.motRingStatus, 31, 31⟩
def Fld.motRingStatusCfgRefused : Fld := ⟨.motRingStatus, 30, 30⟩
def Fld.motRingStatusTailRefused : Fld := ⟨.motRingStatus, 29, 29⟩
def Fld.motRingStatusLastStatus : Fld := ⟨.motRingStatus, 7, 0⟩
def Fld.motRingCtrlFlush : Fld := ⟨.motRingCtrl, 1, 1⟩
def Fld.motRingCtrlResume : Fld := ⟨.motRingCtrl, 0, 0⟩
def Fld.kcxCountSyntaxLosses : Fld := ⟨.kcxCount, 31, 16⟩
def Fld.kcxCountMarkersSkipped : Fld := ⟨.kcxCount, 15, 0⟩
def Fld.kcxFaultCountOutputFull : Fld := ⟨.kcxFaultCount, 31, 16⟩
def Fld.kcxFaultCountTableFaults : Fld := ⟨.kcxFaultCount, 15, 0⟩
def Fld.bceCountFailedJobs : Fld := ⟨.bceCount, 31, 16⟩
def Fld.bceCountVerifyFaults : Fld := ⟨.bceCount, 15, 0⟩
def Fld.motCountSubstituted : Fld := ⟨.motCount, 31, 16⟩
def Fld.motCountPoolFaults : Fld := ⟨.motCount, 15, 0⟩
def Fld.motPoolFrame : Fld := ⟨.motPool, 63, 32⟩
def Fld.motPoolMark : Fld := ⟨.motPool, 31, 30⟩
def Fld.motPoolCompressed : Fld := ⟨.motPool, 29, 29⟩
def Fld.slbCellState : Fld := ⟨.slbCell, 31, 29⟩
def Fld.slbCellLogical : Fld := ⟨.slbCell, 28, 24⟩
def Fld.slbCellChkFaults : Fld := ⟨.slbCell, 15, 0⟩
def Fld.slbRemapCtrlRetire : Fld := ⟨.slbRemapCtrl, 31, 31⟩
def Fld.slbRemapCtrlCopy : Fld := ⟨.slbRemapCtrl, 30, 30⟩
def Fld.slbRemapCtrlCell : Fld := ⟨.slbRemapCtrl, 3, 0⟩
def Fld.slbRetireCfgThreshold : Fld := ⟨.slbRetireCfg, 7, 0⟩
def Fld.arithFlagsInvalid : Fld := ⟨.arithFlags, 4, 4⟩
def Fld.arithFlagsSaturated : Fld := ⟨.arithFlags, 3, 3⟩
def Fld.arithFlagsFlushed : Fld := ⟨.arithFlags, 2, 2⟩
def Fld.arithFlagsOperandRefused : Fld := ⟨.arithFlags, 1, 1⟩
def Fld.arithFlagsFreezeOverflow : Fld := ⟨.arithFlags, 0, 0⟩
def Fld.accCtrlSwapMode : Fld := ⟨.accCtrl, 1, 1⟩
def Fld.accCtrlChkHalt : Fld := ⟨.accCtrl, 0, 0⟩
def Fld.accStatusDrainBusy : Fld := ⟨.accStatus, 5, 5⟩
def Fld.accStatusBank1State : Fld := ⟨.accStatus, 4, 3⟩
def Fld.accStatusBank0State : Fld := ⟨.accStatus, 2, 1⟩
def Fld.accStatusActiveBank : Fld := ⟨.accStatus, 0, 0⟩
def Fld.chkStatusRowMismatch : Fld := ⟨.chkStatus, 31, 31⟩
def Fld.chkStatusColMismatch : Fld := ⟨.chkStatus, 30, 30⟩
def Fld.chkStatusUnchecked : Fld := ⟨.chkStatus, 29, 29⟩
def Fld.chkStatusFirstRow : Fld := ⟨.chkStatus, 17, 9⟩
def Fld.chkStatusFirstCol : Fld := ⟨.chkStatus, 8, 0⟩
def Fld.chkCountFailedDrains : Fld := ⟨.chkCount, 31, 16⟩
def Fld.chkCountUnchecked : Fld := ⟨.chkCount, 15, 0⟩
def Fld.chkInjectArm : Fld := ⟨.chkInject, 31, 31⟩
def Fld.chkInjectRow : Fld := ⟨.chkInject, 17, 9⟩
def Fld.chkInjectCol : Fld := ⟨.chkInject, 8, 0⟩
def Fld.memCtrlClear : Fld := ⟨.memCtrl, 0, 0⟩
def Fld.memStatusClearRefused : Fld := ⟨.memStatus, 1, 1⟩
def Fld.memStatusClearBusy : Fld := ⟨.memStatus, 0, 0⟩
def Fld.memCountWriteWaits : Fld := ⟨.memCount, 31, 16⟩
def Fld.memCountWriteOverlaps : Fld := ⟨.memCount, 15, 0⟩
def Fld.agFlagsTransformResidue : Fld := ⟨.agFlags, 1, 1⟩
def Fld.agFlagsCropClamped : Fld := ⟨.agFlags, 0, 0⟩
def Fld.agCountTransformResidue : Fld := ⟨.agCount, 31, 16⟩
def Fld.agCountCropClamped : Fld := ⟨.agCount, 15, 0⟩
def Fld.ftbBankState : Fld := ⟨.ftbBank, 31, 30⟩
def Fld.ftbBankPins : Fld := ⟨.ftbBank, 22, 16⟩
def Fld.ftbBankProfileId : Fld := ⟨.ftbBank, 15, 0⟩
def Fld.vecCountUniformRows : Fld := ⟨.vecCount, 31, 16⟩
def Fld.vecCountVarClamped : Fld := ⟨.vecCount, 15, 0⟩
def Fld.srfStatusLoaded : Fld := ⟨.srfStatus, 3, 0⟩
def Fld.scaleFlagsHostWriteRefused : Fld := ⟨.scaleFlags, 5, 5⟩
def Fld.scaleFlagsDeriveClamped : Fld := ⟨.scaleFlags, 4, 4⟩
def Fld.scaleFlagsFusedClip : Fld := ⟨.scaleFlags, 3, 3⟩
def Fld.scaleFlagsClipShareFault : Fld := ⟨.scaleFlags, 2, 2⟩
def Fld.scaleFlagsUnderuseFault : Fld := ⟨.scaleFlags, 1, 1⟩
def Fld.scaleFlagsOverflowFault : Fld := ⟨.scaleFlags, 0, 0⟩
def Fld.scaleCountScaleFaults : Fld := ⟨.scaleCount, 31, 16⟩
def Fld.scaleCountBankWaits : Fld := ⟨.scaleCount, 15, 0⟩
def Fld.scaleLastOpTag : Fld := ⟨.scaleLast, 31, 16⟩
def Fld.scaleLastSlot : Fld := ⟨.scaleLast, 13, 10⟩
def Fld.scaleLastChannel : Fld := ⟨.scaleLast, 9, 0⟩
def Fld.cseqStatusState : Fld := ⟨.cseqStatus, 31, 30⟩
def Fld.cseqStatusHalf : Fld := ⟨.cseqStatus, 29, 29⟩
def Fld.cseqStatusHold : Fld := ⟨.cseqStatus, 18, 16⟩
def Fld.cseqStatusDepth : Fld := ⟨.cseqStatus, 15, 12⟩
def Fld.cseqStatusBundle : Fld := ⟨.cseqStatus, 11, 0⟩
def Fld.cseqFaultValid : Fld := ⟨.cseqFault, 31, 31⟩
def Fld.cseqFaultCause : Fld := ⟨.cseqFault, 30, 27⟩
def Fld.cseqFaultSlot : Fld := ⟨.cseqFault, 26, 25⟩
def Fld.cseqFaultRecord : Fld := ⟨.cseqFault, 22, 12⟩
def Fld.cseqFaultBundle : Fld := ⟨.cseqFault, 11, 0⟩
def Fld.cseqCountWaitCycles : Fld := ⟨.cseqCount, 31, 16⟩
def Fld.cseqCountQueueFull : Fld := ⟨.cseqCount, 15, 0⟩
def Fld.dmaFaultValid : Fld := ⟨.dmaFault, 31, 31⟩
def Fld.dmaFaultOutbound : Fld := ⟨.dmaFault, 30, 30⟩
def Fld.dmaFaultBundle : Fld := ⟨.dmaFault, 11, 0⟩
def Fld.dmaExpDigest : Fld := ⟨.dmaExp, 63, 0⟩
def Fld.dmaGotDigest : Fld := ⟨.dmaGot, 63, 0⟩
def Fld.dmaCountDigestChecks : Fld := ⟨.dmaCount, 31, 16⟩
def Fld.dmaCountDigestFaults : Fld := ⟨.dmaCount, 15, 0⟩
def Fld.dbgCtrlHalt : Fld := ⟨.dbgCtrl, 31, 31⟩
def Fld.dbgCtrlResume : Fld := ⟨.dbgCtrl, 30, 30⟩
def Fld.dbgCtrlStep : Fld := ⟨.dbgCtrl, 29, 29⟩
def Fld.dbgCtrlClearTags : Fld := ⟨.dbgCtrl, 28, 28⟩
def Fld.dbgCtrlStoreSel : Fld := ⟨.dbgCtrl, 4, 4⟩
def Fld.dbgCtrlPage : Fld := ⟨.dbgCtrl, 3, 0⟩
def Fld.dbgStatusHalted : Fld := ⟨.dbgStatus, 31, 31⟩
def Fld.dbgStatusByRequest : Fld := ⟨.dbgStatus, 30, 30⟩
def Fld.dbgStatusByBreakpoint : Fld := ⟨.dbgStatus, 29, 29⟩
def Fld.dbgStatusByChecksum : Fld := ⟨.dbgStatus, 28, 28⟩
def Fld.dbgStatusByStep : Fld := ⟨.dbgStatus, 27, 27⟩
def Fld.dbgStatusArrayQ : Fld := ⟨.dbgStatus, 25, 22⟩
def Fld.dbgStatusVectorQ : Fld := ⟨.dbgStatus, 21, 18⟩
def Fld.dbgStatusAgQ : Fld := ⟨.dbgStatus, 17, 14⟩
def Fld.dbgStatusDmaQ : Fld := ⟨.dbgStatus, 13, 10⟩
def Fld.dbgBpBundleEn : Fld := ⟨.dbgBp, 31, 31⟩
def Fld.dbgBpTagEn : Fld := ⟨.dbgBp, 30, 30⟩
def Fld.dbgBpOnce : Fld := ⟨.dbgBp, 29, 29⟩
def Fld.dbgBpTag : Fld := ⟨.dbgBp, 27, 12⟩
def Fld.dbgBpBundle : Fld := ⟨.dbgBp, 11, 0⟩
def Fld.dbgTraceTagHi : Fld := ⟨.dbgTrace, 63, 48⟩
def Fld.dbgTraceTagLo : Fld := ⟨.dbgTrace, 47, 32⟩
def Fld.dbgTraceTypes : Fld := ⟨.dbgTrace, 6, 0⟩
def Fld.dbgLoopLevel3 : Fld := ⟨.dbgLoop, 60, 48⟩
def Fld.dbgLoopLevel2 : Fld := ⟨.dbgLoop, 44, 32⟩
def Fld.dbgLoopLevel1 : Fld := ⟨.dbgLoop, 28, 16⟩
def Fld.dbgLoopLevel0 : Fld := ⟨.dbgLoop, 12, 0⟩
def Fld.cmdInvalidCount : Fld := ⟨.cmdInvalid, 31, 0⟩
def Fld.cmdSaturatedCount : Fld := ⟨.cmdSaturated, 31, 0⟩
def Fld.cmdFlushedCount : Fld := ⟨.cmdFlushed, 31, 0⟩
def Fld.srfEntryOffset : Fld := ⟨.srfEntry, 47, 32⟩
def Fld.srfEntryShift : Fld := ⟨.srfEntry, 21, 16⟩
def Fld.srfEntryMultiplier : Fld := ⟨.srfEntry, 15, 0⟩
def Fld.fusedLoShift : Fld := ⟨.fusedLo, 21, 16⟩
def Fld.fusedLoMultiplier : Fld := ⟨.fusedLo, 15, 0⟩
def Fld.fusedHiBias : Fld := ⟨.fusedHi, 63, 32⟩
def Fld.fusedHiOffset : Fld := ⟨.fusedHi, 15, 0⟩
def Fld.tagStoreWord : Fld := ⟨.tagStore, 31, 0⟩
def Fld.storeWindowWord : Fld := ⟨.storeWindow, 31, 0⟩
def Fld.apertureBase : Fld := ⟨.aperture, 47, 30⟩
def Fld.shelfCtrlDetach : Fld := ⟨.shelfCtrl, 1, 1⟩
def Fld.shelfCtrlAttach : Fld := ⟨.shelfCtrl, 0, 0⟩
def Fld.shelfStatusState : Fld := ⟨.shelfStatus, 31, 30⟩
def Fld.shelfStatusDetachPending : Fld := ⟨.shelfStatus, 29, 29⟩
def Fld.shelfStatusAccessRefused : Fld := ⟨.shelfStatus, 28, 28⟩
def Fld.shelfStatusEnginesUp : Fld := ⟨.shelfStatus, 26, 24⟩
def Fld.shelfStatusSize : Fld := ⟨.shelfStatus, 12, 0⟩
def Fld.shelfCountLate : Fld := ⟨.shelfCount, 31, 16⟩
def Fld.shelfCountRefused : Fld := ⟨.shelfCount, 15, 0⟩
def Fld.portCtrlRetrain : Fld := ⟨.portCtrl, 1, 1⟩
def Fld.portCtrlEnable : Fld := ⟨.portCtrl, 0, 0⟩
def Fld.portStatusState : Fld := ⟨.portStatus, 31, 29⟩
def Fld.portStatusLanesUp : Fld := ⟨.portStatus, 28, 21⟩
def Fld.portStatusSpareUsed : Fld := ⟨.portStatus, 20, 20⟩
def Fld.portStatusPeerPosition : Fld := ⟨.portStatus, 19, 16⟩
def Fld.portStatusPeerPort : Fld := ⟨.portStatus, 15, 11⟩
def Fld.portStatusLatency : Fld := ⟨.portStatus, 10, 0⟩
def Fld.portCountCtrlFaults : Fld := ⟨.portCount, 31, 16⟩
def Fld.portCountSymbolErrors : Fld := ⟨.portCount, 15, 0⟩
def Fld.fabNodeFloeId : Fld := ⟨.fabNode, 31, 16⟩
def Fld.fabNodePosition : Fld := ⟨.fabNode, 15, 12⟩
def Fld.fabNodeHorizon : Fld := ⟨.fabNode, 10, 0⟩
def Fld.fabTreeParent : Fld := ⟨.fabTree, 31, 27⟩
def Fld.fabTreeChildren : Fld := ⟨.fabTree, 23, 0⟩
def Fld.fabMembersMembers : Fld := ⟨.fabMembers, 15, 0⟩
def Fld.fabTreeStatusHorizonShort : Fld := ⟨.fabTreeStatus, 31, 31⟩
def Fld.fabTreeStatusRootDelay : Fld := ⟨.fabTreeStatus, 10, 0⟩
def Fld.chanCfgEnable : Fld := ⟨.chanCfg, 31, 31⟩
def Fld.chanCfgRole : Fld := ⟨.chanCfg, 30, 30⟩
def Fld.chanCfgPort : Fld := ⟨.chanCfg, 29, 25⟩
def Fld.chanCfgShare : Fld := ⟨.chanCfg, 24, 19⟩
def Fld.chanCfgPeer : Fld := ⟨.chanCfg, 18, 11⟩
def Fld.chanBufBase : Fld := ⟨.chanBuf, 47, 6⟩
def Fld.chanSegCountM1 : Fld := ⟨.chanSeg, 23, 16⟩
def Fld.chanSegFlitsM1 : Fld := ⟨.chanSeg, 15, 0⟩
def Fld.chanTallyIncM1 : Fld := ⟨.chanTally, 24, 12⟩
def Fld.chanTallyTally : Fld := ⟨.chanTally, 11, 0⟩
def Fld.chanStatusWaiting : Fld := ⟨.chanStatus, 31, 31⟩
def Fld.chanStatusCfgRefused : Fld := ⟨.chanStatus, 30, 30⟩
def Fld.chanStatusSizeFault : Fld := ⟨.chanStatus, 29, 29⟩
def Fld.chanStatusSegments : Fld := ⟨.chanStatus, 15, 0⟩
def Fld.lasStatusState : Fld := ⟨.lasStatus, 31, 29⟩
def Fld.lasStatusInterlockOpen : Fld := ⟨.lasStatus, 28, 28⟩
def Fld.lasStatusWearWarn : Fld := ⟨.lasStatus, 27, 27⟩
def Fld.lasStatusWearEnd : Fld := ⟨.lasStatus, 26, 26⟩
def Fld.lasStatusRemoveRefused : Fld := ⟨.lasStatus, 25, 25⟩
def Fld.lasStatusCmdFault : Fld := ⟨.lasStatus, 24, 24⟩
def Fld.lasStatusTemperature : Fld := ⟨.lasStatus, 15, 8⟩
def Fld.lasStatusBias : Fld := ⟨.lasStatus, 7, 0⟩
def Fld.lasCtrlHold : Fld := ⟨.lasCtrl, 1, 1⟩
def Fld.lasCtrlRemove : Fld := ⟨.lasCtrl, 0, 0⟩
def Fld.lasWearWear : Fld := ⟨.lasWear, 31, 0⟩
def Fld.lasSerialSerial : Fld := ⟨.lasSerial, 63, 0⟩
def Fld.lasRatingHours : Fld := ⟨.lasRating, 31, 16⟩
def Fld.lasRatingMaxBias : Fld := ⟨.lasRating, 15, 8⟩
def Fld.lasRatingCrossBias : Fld := ⟨.lasRating, 7, 0⟩
def Fld.mboxCfgBase : Fld := ⟨.mboxCfg, 47, 14⟩
def Fld.mboxCfgMapRefused : Fld := ⟨.mboxCfg, 1, 1⟩
def Fld.mboxCfgEnable : Fld := ⟨.mboxCfg, 0, 0⟩
def Fld.mboxMapKind : Fld := ⟨.mboxMap, 31, 30⟩
def Fld.mboxMapGroup : Fld := ⟨.mboxMap, 7, 0⟩
def Fld.tallySumSum : Fld := ⟨.tallySum, 63, 0⟩
def Fld.outRingBase : Fld := ⟨.outRing, 63, 12⟩
def Fld.outRecBase : Fld := ⟨.outRec, 63, 12⟩
def Fld.outSpillBase : Fld := ⟨.outSpill, 47, 12⟩
def Fld.outEgressTally : Fld := ⟨.outEgress, 63, 52⟩
def Fld.outEgressLog2M4 : Fld := ⟨.outEgress, 51, 48⟩
def Fld.outEgressBase : Fld := ⟨.outEgress, 47, 6⟩
def Fld.outCfgEnable : Fld := ⟨.outCfg, 31, 31⟩
def Fld.outCfgLog2Size : Fld := ⟨.outCfg, 30, 26⟩
def Fld.outCfgPageLog2M12 : Fld := ⟨.outCfg, 25, 23⟩
def Fld.outCfgFramePages : Fld := ⟨.outCfg, 22, 12⟩
def Fld.outCfgSpillPagesM1 : Fld := ⟨.outCfg, 11, 0⟩
def Fld.outTailTail : Fld := ⟨.outTail, 31, 0⟩
def Fld.outStatusHeld : Fld := ⟨.outStatus, 31, 31⟩
def Fld.outStatusStalled : Fld := ⟨.outStatus, 30, 30⟩
def Fld.outStatusFreePages : Fld := ⟨.outStatus, 28, 16⟩
def Fld.outStatusHeldFrames : Fld := ⟨.outStatus, 15, 0⟩
def Fld.msixEntryWord : Fld := ⟨.msixEntry, 31, 0⟩
def Fld.msixCtrlMask : Fld := ⟨.msixCtrl, 0, 0⟩
def Fld.msixPbaPending : Fld := ⟨.msixPba, 31, 0⟩
def Fld.strmAddrAddress : Fld := ⟨.strmAddr, 63, 0⟩
def Fld.strmCommitTakenFrame : Fld := ⟨.strmCommit, 63, 32⟩
def Fld.strmCommitCommit : Fld := ⟨.strmCommit, 31, 31⟩
def Fld.strmCommitPending : Fld := ⟨.strmCommit, 30, 30⟩
def Fld.strmCommitRepeats : Fld := ⟨.strmCommit, 15, 0⟩
def Fld.strmLatchLine : Fld := ⟨.strmLatch, 15, 0⟩
def Fld.mdpCountCfgRefused : Fld := ⟨.mdpCount, 31, 31⟩
def Fld.mdpCountPathBUsed : Fld := ⟨.mdpCount, 30, 16⟩
def Fld.mdpCountDiscarded : Fld := ⟨.mdpCount, 15, 0⟩
def Fld.mtrSnapSequence : Fld := ⟨.mtrSnap, 31, 0⟩
def Fld.mtrRegMwh : Fld := ⟨.mtrReg, 63, 0⟩
def Fld.mtrTotalMwh : Fld := ⟨.mtrTotal, 63, 0⟩
def Fld.mtrUptimeUs : Fld := ⟨.mtrUptime, 63, 0⟩
def Fld.mtrFwWord : Fld := ⟨.mtrFw, 31, 0⟩
def Fld.mtrStatusTagFaults : Fld := ⟨.mtrStatus, 31, 16⟩
def Fld.mtrStatusCrcCheck : Fld := ⟨.mtrStatus, 15, 0⟩
def Fld.dseqCtrlHalt : Fld := ⟨.dseqCtrl, 31, 31⟩
def Fld.dseqCtrlResume : Fld := ⟨.dseqCtrl, 30, 30⟩
def Fld.dseqStatusHalted : Fld := ⟨.dseqStatus, 31, 31⟩
def Fld.dseqStatusByRequest : Fld := ⟨.dseqStatus, 30, 30⟩
def Fld.dseqStatusByBreakpoint : Fld := ⟨.dseqStatus, 29, 29⟩
def Fld.dseqStatusByDiverge : Fld := ⟨.dseqStatus, 28, 28⟩
def Fld.dseqStatusHit : Fld := ⟨.dseqStatus, 27, 26⟩
def Fld.dseqStatusAdmissionsSkipped : Fld := ⟨.dseqStatus, 15, 0⟩
def Fld.dseqBpEnable : Fld := ⟨.dseqBp, 63, 63⟩
def Fld.dseqBpPoint : Fld := ⟨.dseqBp, 62, 62⟩
def Fld.dseqBpFaultOnly : Fld := ⟨.dseqBp, 61, 61⟩
def Fld.dseqBpQueueEn : Fld := ⟨.dseqBp, 60, 60⟩
def Fld.dseqBpQueue : Fld := ⟨.dseqBp, 59, 48⟩
def Fld.dseqBpIndexEn : Fld := ⟨.dseqBp, 47, 47⟩
def Fld.dseqBpIndex : Fld := ⟨.dseqBp, 31, 0⟩
def Fld.dseqTraceQueueEn : Fld := ⟨.dseqTrace, 31, 31⟩
def Fld.dseqTraceQueue : Fld := ⟨.dseqTrace, 27, 16⟩
def Fld.dseqTraceStartEn : Fld := ⟨.dseqTrace, 7, 7⟩
def Fld.dseqTraceHaltEn : Fld := ⟨.dseqTrace, 6, 6⟩
def Fld.traceCtrlEnable : Fld := ⟨.traceCtrl, 31, 31⟩
def Fld.traceCtrlMode : Fld := ⟨.traceCtrl, 30, 30⟩
def Fld.traceCtrlStopOnHalt : Fld := ⟨.traceCtrl, 29, 29⟩
def Fld.traceCtrlClear : Fld := ⟨.traceCtrl, 28, 28⟩
def Fld.traceStatusStopped : Fld := ⟨.traceStatus, 31, 31⟩
def Fld.traceStatusWrapped : Fld := ⟨.traceStatus, 30, 30⟩
def Fld.traceStatusIndex : Fld := ⟨.traceStatus, 17, 0⟩
def Fld.traceLostCount : Fld := ⟨.traceLost, 31, 0⟩
def Fld.dbgTimeTime : Fld := ⟨.dbgTime, 63, 0⟩
def Fld.rsvCountCount : Fld := ⟨.rsvCount, 31, 0⟩
def Fld.rsvLastWrite : Fld := ⟨.rsvLast, 31, 31⟩
def Fld.rsvLastMisaligned : Fld := ⟨.rsvLast, 30, 30⟩
def Fld.rsvLastBar2 : Fld := ⟨.rsvLast, 29, 29⟩
def Fld.rsvLastOffset : Fld := ⟨.rsvLast, 27, 0⟩
def Fld.rsvAddrOffset : Fld := ⟨.rsvAddr, 35, 0⟩
def Fld.txnWaitCount : Fld := ⟨.txnWait, 31, 0⟩
def Fld.traceBufWord : Fld := ⟨.traceBuf, 31, 0⟩

/-- The indices of the copy of a register at distance `d` from its base, outermost first; none where no copy begins there.
`rem` is what is left after the strides taken so far. -/
def copyIndices : List (Nat × Nat) → Nat → Option (List Nat)
  | [], d => if d = 0 then some [] else none
  | (c, st) :: t, d =>
    if d / st < c then (copyIndices t (d % st)).map (d / st :: ·) else none

/-- The register whose first byte lies at an offset, with the indices of its copy (R579 to R581). -/
def regAtIn : List RegId → Nat → Option (RegId × List Nat)
  | [], _ => none
  | r :: t, off =>
    if off < r.row.base then regAtIn t off else
    match copyIndices r.row.dims (off - r.row.base) with
    | some ix => some (r, ix)
    | none => regAtIn t off

def regAt (off : Nat) : Option (RegId × List Nat) := regAtIn (regBlocks.getD (off / 2 ^ 20) []) off

/-- The offset of a copy of a register. -/
def copyOffset : List (Nat × Nat) → List Nat → Nat
  | (_, st) :: t, i :: is => i * st + copyOffset t is
  | _, _ => 0

def RegId.addr (r : RegId) (ix : List Nat) : Nat := r.row.base + copyOffset r.row.dims ix

end Sys2Proof.Machine
end

