-- ==== Sys2Proof/Machine/State.lean ====
section
/-! DEFINITION. The state of the module and the state after reset. -/

namespace Sys2Proof.Machine

/-- Ways the block stops with a fault: none. Every fault of the manual is a status, a flag or a count with a next state
(R522), so this type has no constructor and no step answers a fault. Safe. -/
inductive Fault where
  deriving DecidableEq, Repr

/-- Why a command has no next state. -/
inductive Refusal where
  /-- Raised by an arm of `exec` whose meaning is not written. Safe. -/
  | notModelled (mnemonic : String)
  deriving DecidableEq, Repr

/-- The state of the module. Registers lie in one sparse table from BAR0 offset to value (R11 to R15); `INVENTORY.md` lists
them with their reset values. -/
structure State where
  part : Part
  hclk : Nat
  draws : Nat
  bus : BusSt
  regs : Tab DWord
  mem : Tab Byte
  host : Tab Byte
  cells : Tab Cell
  queues : Tab QueueSt
  seqs : Tab SeqSt
  owners : Tab OwnerSt
  tallyPend : List TallyPend
  ftb0 : FtbBank
  ftb1 : FtbBank
  tableLoad : Option Nat
  remaps : List Remap
  fw : FwSt
  ctxs : Tab CtxSt
  rr : RrSt
  thaw : Tab ThawSt
  shelves : Tab ShelfSt
  ingress : Tab IngressSt
  egress : Tab EgressSt
  linkUp : Bool
  jobs : Tab (Option JobSt)
  tables : Tab (BitVec 128)
  kblocks : Tab (Option KBlock)
  power : PowerSt
  ports : Tab PortSt
  portOut : List PortWord
  chans : Tab ChanSt
  barrier : BarrierSt
  lasers : Tab LaserSt
  shutters : List Nat
  station : StationSt
  mbox : Tab MboxLine
  mboxOut : List CxlMsg
  cacheOn : Bool
  media : Tab MediaSt
  mediaOut : List MediaOut
  boot : BootSt
  stash : StashSt
  island : IslandSt
  trace : TraceSt
  msix : List Nat
  alerts : List Nat
  pending : List Instr
  deriving DecidableEq, Repr

/-- The state and logical index that SLB_CELL shows after reset for physical cell i of slab s on the EVS-9410: cells 0 to 7
active, cell 8 spare ready (log entry 3). -/
def slbCellReset (s i : Nat) : DWord := if i < 8 then BitVec.ofNat 64 ((8 * s + i) * 2 ^ 24) else BitVec.ofNat 64 (2 ^ 29)

/-- What an unlisted BAR0 offset reads as: the reset value of its register, 0 outside every register. The offset is matched
with a register by `regAt` of Regs.lean. -/
def regReset (off : Nat) : DWord :=
  match regAt off with
  | some (r, ix) => if r = .slbCell then slbCellReset (ix.headD 0) (ix.getD 1 0) else BitVec.ofNat 64 r.row.reset
  | none => 0

/-- What an unlisted byte of device, host or cell memory reads as (R107; log entry 6 for the rest). -/
def memReset (_ : Nat) : Byte := 0

def cellReset (_ : Nat) : Cell := Cell.reset
def queueReset (_ : Nat) : QueueSt := QueueSt.empty
def seqReset (_ : Nat) : SeqSt := ⟨0, none⟩
def shelfReset (_ : Nat) : ShelfSt := ShelfSt.empty
def ctxReset (_ : Nat) : CtxSt := CtxSt.empty
def ingressReset (_ : Nat) : IngressSt := IngressSt.empty
def egressReset (_ : Nat) : EgressSt := EgressSt.empty
def jobReset (_ : Nat) : Option JobSt := none
def kblockReset (_ : Nat) : Option KBlock := none
def unitReset (_ : Nat) : BitVec 128 := 0
def portReset (_ : Nat) : PortSt := PortSt.empty
def chanReset (_ : Nat) : ChanSt := ChanSt.empty
def laserReset (_ : Nat) : LaserSt := LaserSt.empty
def lineReset (_ : Nat) : MboxLine := MboxLine.empty
def mediaReset (_ : Nat) : MediaSt := MediaSt.empty
def countReset (_ : Nat) : Nat := 0
def thawReset (_ : Nat) : ThawSt := ThawSt.empty

/-- The registers whose reset value depends on the grade (R1, R583): on the EVS-9408 cells 0 to 6 of slab s are active, as logical
cells 7s to 7s + 6, cells 7 and 8 are spares that are ready, and clock plan 0x0002 is the first the grade has (log entry 3). -/
def gradeRegs : Grade → Tab DWord
  | .evs9410 => []
  | .evs9408 =>
    let cells := (List.range 36).foldl (fun t p => tabSet regReset t (RegId.slbCell.addr [p / 9, p % 9])
      (if p % 9 < 7 then BitVec.ofNat 64 ((7 * (p / 9) + p % 9) * 2 ^ 24) else BitVec.ofNat 64 (2 ^ 29))) []
    tabSet regReset cells (RegId.pwrClockPlan.addr []) (BitVec.ofNat 64 0x20002)

/-- The EVS-9410 right after power-up of every domain (log entry 3). -/
def State.reset : State :=
  { part := ⟨.evs9410, 0, 0⟩, hclk := 0, draws := 0, bus := ⟨none, none, []⟩, regs := [], mem := [], host := [],
    cells := [], queues := [], seqs := [], owners := [], tallyPend := [], ftb0 := FtbBank.empty, ftb1 := FtbBank.empty,
    tableLoad := none, remaps := [], fw := ⟨[], []⟩, ctxs := [], rr := RrSt.empty, thaw := [], shelves := [], ingress := [], egress := [],
    linkUp := true, jobs := [], tables := [], kblocks := [], power := PowerSt.empty,
    ports := [], portOut := [], chans := [], barrier := BarrierSt.empty, lasers := [], shutters := [], station := StationSt.empty,
    mbox := [], mboxOut := [], cacheOn := false, media := [], mediaOut := [], boot := ⟨false, false, false, false⟩, stash := StashSt.start,
    island := IslandSt.start, trace := TraceSt.empty, msix := [], alerts := [], pending := [] }

/-- A part of either grade right after power-up of every domain (R1). -/
def State.resetOf (p : Part) : State := { State.reset with part := p, regs := gradeRegs p.grade }

end Sys2Proof.Machine
end

