-- ==== Sys2Proof/Machine/Ops.lean ====
section
/-! DEFINITION. The named operations over registers, memory, cells, queues and tallies; every meaning goes through them. -/

namespace Sys2Proof.Machine

/-! Registers (R11 to R15). -/

/-- The value of a register copy. -/
def State.reg (s : State) (r : RegId) (ix : List Nat := []) : DWord := tabGet regReset s.regs (r.addr ix)

/-- The state with a register copy replaced. -/
def State.setReg (s : State) (r : RegId) (v : DWord) (ix : List Nat := []) : State :=
  { s with regs := tabSet regReset s.regs (r.addr ix) v }

/-- The value of a field. -/
def State.fld (s : State) (f : Fld) (ix : List Nat := []) : Nat := getBits (s.reg f.reg ix) f.hi f.lo

/-- The state with a field replaced. -/
def State.setFld (s : State) (f : Fld) (v : Nat) (ix : List Nat := []) : State :=
  s.setReg f.reg (putBits (s.reg f.reg ix) f.hi f.lo v) ix

/-- A one-bit field as a Bool. -/
def State.flag (s : State) (f : Fld) (ix : List Nat := []) : Bool := decide (s.fld f ix = 1)

/-- The state with a field set to 1. -/
def State.raise (s : State) (f : Fld) (ix : List Nat := []) : State := s.setFld f 1 ix

/-- A counting field raised by `inc`, saturating at its maximum (R100 and the other counter rules). -/
def State.count (s : State) (f : Fld) (inc : Nat) (ix : List Nat := []) : State :=
  if inc = 0 then s else s.setFld f (satAdd (f.hi + 1 - f.lo) (s.fld f ix) inc) ix

/-- The copy indices of the registers of physical cell p = 9 × slab + i. -/
def cellIx (p : Nat) : List Nat := [p / 9, p % 9]

def State.cfld (s : State) (f : Fld) (p : Nat) : Nat := s.fld f (cellIx p)
def State.csetFld (s : State) (f : Fld) (v p : Nat) : State := s.setFld f v (cellIx p)
def State.cflag (s : State) (f : Fld) (p : Nat) : Bool := s.flag f (cellIx p)
def State.craise (s : State) (f : Fld) (p : Nat) : State := s.raise f (cellIx p)
def State.ccount (s : State) (f : Fld) (inc p : Nat) : State := s.count f inc (cellIx p)

/-! Free values (log entry 2). -/

/-- The state with one free value taken. -/
def State.draw (s : State) : DWord × State := (Config.freeValue s.draws, { s with draws := s.draws + 1 })

/-! Bytes. -/

/-- `n` bytes of a table from address `a` upwards. -/
def tabRead (t : Tab Byte) : Nat → Nat → List Byte
  | 0, _ => []
  | n + 1, a => tabGet memReset t a :: tabRead t n (a + 1)

/-- Bytes written from address `a` upwards. -/
def tabWrite (t : Tab Byte) (a : Nat) : List Byte → Tab Byte
  | [] => t
  | b :: bs => tabWrite (tabSet memReset t a b) (a + 1) bs

/-- HUB_IDENTITY of a part (R6). -/
def Part.identity (p : Part) : Nat :=
  let g := match p.grade with | .evs9410 => (0x9410, 32) | .evs9408 => (0x9408, 28)
  g.1 * 65536 + p.steppingMajor.toNat * 4096 + p.steppingMinor.toNat * 256 + g.2

/-! Cells. -/

def State.cell (s : State) (p : Nat) : Cell := tabGet cellReset s.cells p
def State.setCell (s : State) (p : Nat) (c : Cell) : State := { s with cells := tabSet cellReset s.cells p c }
def State.onCell (s : State) (p : Nat) (f : Cell → Cell) : State := s.setCell p (f (s.cell p))

def Cell.read (c : Cell) (a n : Nat) : List Byte := tabRead c.mem n a
def Cell.readNat (c : Cell) (a n : Nat) : Nat := leNat (c.read a n)
def Cell.write (c : Cell) (a : Nat) (bs : List Byte) : Cell := { c with mem := tabWrite c.mem a bs }
def State.cwrite (s : State) (p a : Nat) (bs : List Byte) : State := s.onCell p (·.write a bs)

/-- The size of a cell memory, 24 MiB (R102). -/
def cellBytes : Nat := 0x1800000

/-- The steps of a zero clear, 2 KiB each (R107). -/
def clearSteps : Nat := 12288

/-- A zero clear has made its first k steps, by rising addresses (R107). -/
def Cell.clearTo (c : Cell) (k : Nat) : Cell :=
  if c.cleared < k then
    { c with mem := c.mem.filter fun e => decide (e.1 < 2048 * c.cleared) || decide (2048 * k ≤ e.1), cleared := k }
  else c

/-- The states of SLB_CELL (R540). -/
def slbActive : Nat := 0
def slbSpareReady : Nat := 1
def slbSpareUntested : Nat := 2
def slbMarked : Nat := 3
def slbRetired : Nat := 4
def slbSpareFailed : Nat := 5
def slbInactive : Nat := 6

/-- Whether physical cell p serves logical cell c (R540: the state is active or marked). -/
def State.serves (s : State) (p c : Nat) : Bool :=
  (s.cfld .slbCellState p == slbActive || s.cfld .slbCellState p == slbMarked) && s.cfld .slbCellLogical p == c

/-- The physical cells. -/
def allCells : List Nat := List.range 36

/-- The physical cell that serves logical cell c, if any (R212, R248). -/
def State.cellOf (s : State) (c : Nat) : Option Nat := allCells.find? fun p => s.serves p c

/-- The logical index of a physical cell. -/
def State.logical (s : State) (p : Nat) : Nat := s.cfld .slbCellLogical p

/-- A cell is idle when no command runs on it (R107, R250). -/
def Cell.idle (c : Cell) : Bool := c.cmd.isNone

/-- Below Flow the engine clocks are gated: no cell dispatches, issues or drains (R496, R498). -/
def State.gated (s : State) : Bool := decide (s.fld .pwrStateCurrent ≠ 0)

/-- The command of a cell whose clock runs. -/
def State.clockedCmd (s : State) (p : Nat) : Option CellCmd := if s.gated then none else (s.cell p).cmd

/-- A cell is halted (R543, R558). -/
def State.halted (s : State) (p : Nat) : Bool := s.cflag .dbgStatusHalted p

/-! Device memory (R247 to R250). -/

/-- What lies at a device address (R247). -/
inductive Place where
  | hole
  | tier1 (slab : Nat)
  | tier2
  | tier3 (group : Nat) (off : Nat)
  | window (logical : Nat) (off : Nat)
  | hub
  deriving DecidableEq, Repr

/-- The size of a tier-1 region on a grade (R247). -/
def tier1Size (g : Grade) : Nat := match g with | .evs9410 => 0x3000000000 | .evs9408 => 0x2400000000

/-- The number of logical cells of a grade (R1). -/
def activeCells (g : Grade) : Nat := match g with | .evs9410 => 32 | .evs9408 => 28

/-- The place of a device address (R247): holes outside every range, above a region's size, above a window's 24 MiB, at the
windows of logical cells that the grade lacks, and in the tier-3 window outside the attached shelf. A window whose logical
cell no physical cell serves (R529) is a hole as well. -/
def State.place (s : State) (a : Nat) : Place :=
  if a < 0xC000000000 then
    (if a % 0x3000000000 < tier1Size s.part.grade then .tier1 (a / 0x3000000000) else .hole)
  else if 0x10000000000 ≤ a ∧ a < 0x24000000000 then .tier2
  else if 0x100000000000 ≤ a ∧ a < 0x180000000000 then
    let g := (a - 0x100000000000) / 0x40000000000
    let off := (a - 0x100000000000) % 0x40000000000
    if s.fld .shelfStatusState [g] = 2 ∧ off < s.fld .shelfStatusSize [g] * 0x40000000 then .tier3 g off else .hole
  else if 0x300000000000 ≤ a ∧ a < 0x300040000000 then
    let c := (a - 0x300000000000) / 0x2000000
    let off := (a - 0x300000000000) % 0x2000000
    if c < activeCells s.part.grade ∧ off < cellBytes ∧ (s.cellOf c).isSome then .window c off else .hole
  else if 0x300080000000 ≤ a ∧ a < 0x300086000000 then .hub
  else .hole

/-- Hub store or tier 2: what the load engine and the queue manager reach (R584). -/
def Place.loadable : Place → Bool
  | .tier2 | .hub => true
  | _ => false

/-- The two ends of a span decide its place where it lies inside one range; a span that leaves its range touches a hole or
another level (R249). Ranges are contiguous, so a span lies wholly in a level when both its ends do and are in the same one. -/
def State.spanPlaces (s : State) (a n : Nat) : List Place := [s.place a, s.place (a + n - 1)]

/-- A span lies wholly in hub store, or wholly in tier 2 (R584). -/
def State.spanLoadable (s : State) (a n : Nat) : Bool :=
  (s.place a).loadable && s.place a == s.place (a + n - 1)

/-- One byte of device memory; a hole reads zero, which only the host path relies on (R250). -/
def State.devByte (s : State) (a : Nat) : Byte :=
  match s.place a with
  | .hole => 0
  | .window c off => match s.cellOf c with | some p => tabGet memReset (s.cell p).mem off | none => 0
  | _ => tabGet memReset s.mem a

def State.devRead (s : State) : Nat → Nat → List Byte
  | _, 0 => []
  | a, n + 1 => s.devByte a :: s.devRead (a + 1) n

def State.devNat (s : State) (a n : Nat) : Nat := leNat (s.devRead a n)

/-- One byte written to device memory; a write to a hole reaches nothing. -/
def State.devSet (s : State) (a : Nat) (b : Byte) : State :=
  match s.place a with
  | .hole => s
  | .window c off => match s.cellOf c with
    | some p => s.onCell p fun cl => { cl with mem := tabSet memReset cl.mem off b }
    | none => s
  | _ => { s with mem := tabSet memReset s.mem a b }

def State.devWrite (s : State) : Nat → List Byte → State
  | _, [] => s
  | a, b :: bs => (s.devSet a b).devWrite (a + 1) bs

/-! Queues and sequencers. -/

def State.queue (s : State) (q : Nat) : QueueSt := tabGet queueReset s.queues q
def State.setQueue (s : State) (q : Nat) (v : QueueSt) : State := { s with queues := tabSet queueReset s.queues q v }
def State.onQueue (s : State) (q : Nat) (f : QueueSt → QueueSt) : State := s.setQueue q (f (s.queue q))

def State.seq (s : State) (n : Nat) : SeqSt := tabGet seqReset s.seqs n
def State.setSeq (s : State) (n : Nat) (v : SeqSt) : State := { s with seqs := tabSet seqReset s.seqs n v }

def State.shelf (s : State) (g : Nat) : ShelfSt := tabGet shelfReset s.shelves g
def State.setShelf (s : State) (g : Nat) (v : ShelfSt) : State := { s with shelves := tabSet shelfReset s.shelves g v }

/-- The staged entries of a queue with the first one that meets `p` replaced. -/
def updFirst {α : Type} (p : α → Bool) (f : α → α) : List α → List α
  | [] => []
  | x :: t => if p x then f x :: t else x :: updFirst p f t

/-- The list without its first element that meets `p`. -/
def dropFirst {α : Type} (p : α → Bool) : List α → List α
  | [] => []
  | x :: t => if p x then t else x :: dropFirst p t

/-! Tallies (R235, R236). -/

/-- The signed 32-bit difference of two counters is at least 0 (R205, R218, R236). -/
def reaches (a b : Nat) : Bool := decide (((a + 2 ^ 32 - b % 2 ^ 32) % 2 ^ 32) < 2 ^ 31)

def State.tally (s : State) (t : Nat) : Nat := s.fld .talValueValue [t]

/-- The interrupt condition of a tally (R236). -/
def State.tallyCond (s : State) (t : Nat) : Bool :=
  s.flag .talCtrlIrqEn [t] && reaches (s.tally t) (s.fld .talThreshThreshold [t])

/-- An increment on its way to a tally (R205, R233, R225), from a signal of cell `src` or another source: TALLY_UPDATE applies it. -/
def State.signalTally (s : State) (src : Option Nat) (t inc : Nat) : State := { s with tallyPend := s.tallyPend ++ [⟨src, t, inc⟩] }

/-! Interrupt vectors (R464, R578). -/

/-- A vector fires: the message goes out (the log of `msix`), or its pending bit is set while it is masked. -/
def State.fire (s : State) (v : Nat) : State :=
  if s.flag .msixCtrlMask [v] then s.setReg .msixPba (s.reg .msixPba [v / 32] ||| BitVec.ofNat 64 (2 ^ (v % 32))) [v / 32]
  else { s with msix := s.msix ++ [v] }

/-- The reserved-access counter (R16, R17, R250, R552, R564). -/
def State.countReserved (s : State) (write misaligned : Bool) (off : Nat) : State :=
  let s := s.count .rsvCountCount 1
  let s := s.setReg .rsvLast (BitVec.ofNat 64 (b2n write * 2 ^ 31 + b2n misaligned * 2 ^ 30 + off % 2 ^ 28))
  s.setReg .rsvAddr 0

def State.countBar2 (s : State) (write : Bool) (off : Nat) : State :=
  let s := s.count .rsvCountCount 1
  let s := s.setReg .rsvLast (BitVec.ofNat 64 (b2n write * 2 ^ 31 + 2 ^ 29))
  s.setReg .rsvAddr (BitVec.ofNat 64 (off % 2 ^ 36))

/-! Host writes (R14, R471, R474). -/

/-- The module's ready bit (R475). -/
def State.ready (s : State) : Bool := s.flag .hubReadyReady

/-- The blocks that the host reaches while ready is 0 (R474): HUB_, PWR_, STT_ and HST_. -/
def hostOpen (off : Nat) : Bool := decide (off < 0x300000) || (decide (0x1300000 ≤ off) && decide (off < 0x1400000))

/-- A held low word that the next write passes by is discarded and counted (R14). -/
def State.dropHeld (s : State) : State :=
  match s.bus.held with
  | some (a, _) => { (s.countReserved true false a) with bus := { s.bus with held := none } }
  | none => s

/-- The host reaches the module's BARs (R471, R473): the link is up, and the configuration stage is done. -/
def State.hostUp (s : State) : Bool := s.linkUp && s.flag .hubReadyConfig

/-- A host write of the register at offset `off` (R14, R471, R473, R474): nothing arrives before the configuration stage or while the link is down,
and outside the open blocks it is discarded and counted while ready is 0. -/
def State.hostWriteAt (s : State) (off : Nat) (f : State → State) : State :=
  if !s.hostUp then s else
  if s.ready || hostOpen off then f s.dropHeld else s.dropHeld.countReserved true false off

/-- A host write of a new tail (R14, R218, R471): R218 itself refuses it while ready is 0. -/
def State.hostTail (s : State) (f : State → State) : State := if s.hostUp then f s.dropHeld else s

end Sys2Proof.Machine
end

