-- ==== Sys2Proof/Machine/Trace.lean ====
section
/-! DEFINITION. Trace records: emission into the source FIFOs and the move into the trace buffer (R553 to R556). -/

namespace Sys2Proof.Machine

/-- A trace record (R555): the words of offsets 0x00 and 0x04, the time, three arguments, and the CRC-32C. -/
def traceRecord (w0 w1 time a0 a1 a2 : Nat) : BitVec 256 :=
  let body := leBytes 4 w0 ++ leBytes 4 w1 ++ leBytes 8 time ++ leBytes 4 a0 ++ leBytes 4 a1 ++ leBytes 4 a2
  BitVec.ofNat 256 (leNat (body ++ leBytes 4 (crc32c body)))

/-- The number of records a source FIFO holds (R553). -/
def traceFifoDepth : Nat := 64

/-- A record enters its source's FIFO, after a lost record where some were lost; a full FIFO loses it (R553). -/
def State.tracePush (s : State) (src : Nat) (rec : BitVec 256) : State :=
  let fifo := tabGet (fun _ => []) s.trace.fifos src
  let lost := tabGet (fun _ => 0) s.trace.lost src
  let fifo' := if 0 < lost && decide (fifo.length < traceFifoDepth)
    then fifo ++ [traceRecord (src * 256 + 0x0E) 0 s.hclk lost 0 0] else fifo
  let lost' := if fifo'.length = fifo.length then lost else 0
  let room := decide (fifo'.length < traceFifoDepth)
  let s := { s with trace := { s.trace with
    fifos := tabSet (fun _ => []) s.trace.fifos src (if room then fifo' ++ [rec] else fifo')
    lost := tabSet (fun _ => 0) s.trace.lost src (if room then lost' else lost' + 1) } }
  if room then s else s.count .traceLostCount 1

/-- Whether records are written at all (R554, R564). -/
def State.tracing (s : State) : Bool :=
  s.flag .traceCtrlEnable && !s.flag .traceStatusStopped && !s.trace.stopping

/-- A cell emits a record (R553): its type is enabled, and for the record of an instruction (types 0x03 to 0x06) the tag lies
in the range of CEL_DBG_TRACE. The source is the logical index. -/
def State.traceCell (s : State) (p type tag layer bundle slot status a0 a1 a2 : Nat) : State :=
  let ok := s.tracing && bitOf (s.cfld .dbgTraceTypes p) (type - 1) &&
    (decide (type < 3) || decide (6 < type) ||
      (decide (s.cfld .dbgTraceTagLo p ≤ tag) && decide (tag ≤ s.cfld .dbgTraceTagHi p)))
  if ok then
    s.tracePush (s.logical p) (traceRecord (tag * 65536 + s.logical p * 256 + type)
      (status * 2 ^ 24 + bundle * 2 ^ 12 + slot * 2 ^ 9 + layer) s.hclk a0 a1 a2)
  else s

/-- A sequencer emits a record (R553, R563): type 0x07 with halt_en, type 0x08 with start_en for its selected queue. -/
def State.traceSeq (s : State) (n type queue a0 a1 a2 : Nat) : State :=
  let ok := if type = 7 then s.flag .dseqTraceHaltEn [n]
    else s.flag .dseqTraceStartEn [n] && (!s.flag .dseqTraceQueueEn [n] || s.fld .dseqTraceQueue [n] == queue)
  if s.tracing && ok then s.tracePush (32 + n) (traceRecord ((32 + n) * 256 + type) 0 s.hclk a0 a1 a2) else s

/-- No FIFO holds a record. -/
def State.traceDrained (s : State) : Bool := s.trace.fifos.all fun e => e.2.isEmpty

/-- A halt of a cell or a sequencer stops the trace after the records already in the FIFOs, where stop_on_halt is set (R554). -/
def State.traceHalt (s : State) : State :=
  if s.flag .traceCtrlStopOnHalt && s.flag .traceCtrlEnable && !s.flag .traceStatusStopped then
    if s.traceDrained then s.raise .traceStatusStopped else { s with trace := { s.trace with stopping := true } }
  else s

/-- The number of records the buffer holds (R554). -/
def traceDepth : Nat := 262144

/-- The hub moves one record from the lowest-numbered source that holds one into the buffer (R553, R554). -/
def State.traceMove (s : State) : State :=
  if !s.flag .traceCtrlEnable || s.flag .traceStatusStopped then s else
  match s.trace.fifos.find? fun e => !e.2.isEmpty with
  | none => s
  | some (src, fifo) =>
    let ix := s.fld .traceStatusIndex
    let s := { s with trace := { s.trace with
      buffer := tabSet (fun _ => 0) s.trace.buffer ix (fifo.headD 0)
      fifos := tabSet (fun _ => []) s.trace.fifos src fifo.tail } }
    let full := ix + 1 = traceDepth
    let s := s.setFld .traceStatusIndex ((ix + 1) % traceDepth)
    let s := if full then (if s.flag .traceCtrlMode then s.raise .traceStatusStopped else s.raise .traceStatusWrapped) else s
    if s.trace.stopping && s.traceDrained then { s with trace := { s.trace with stopping := false } }.raise .traceStatusStopped
    else s

end Sys2Proof.Machine
end

