-- ==== Sys2Proof/Machine/Flags.lean ====
section
/-! DEFINITION. Flags, counts and the end of a command on a fault: element events (R68 to R70, R550, R551), refusals (R67,
R210), and R208. -/

namespace Sys2Proof.Machine

/-- How many elements were counted as invalid, saturated and flushed (R68). -/
structure EvCount where
  inv : Nat
  sat : Nat
  flu : Nat
  deriving DecidableEq, Repr

def EvCount.zero : EvCount := ⟨0, 0, 0⟩

def EvCount.add (a b : EvCount) : EvCount := ⟨a.inv + b.inv, a.sat + b.sat, a.flu + b.flu⟩

/-- The counts of a list of element events. -/
def countEvs (es : List Ev) : EvCount :=
  es.foldl (fun c e => match e with
    | .none => c
    | .flushed => { c with flu := c.flu + 1 }
    | .saturated => { c with sat := c.sat + 1 }
    | .invalid => { c with inv := c.inv + 1 }) .zero

/-- The update of a tag entry by elements of tag t (R551). -/
def TagEntry.update (e : TagEntry) (t layer : Nat) (n : EvCount) : TagEntry :=
  { inv := satAdd 32 e.inv n.inv, sat := satAdd 32 e.sat n.sat, flu := satAdd 32 e.flu n.flu, opTag := t, layer := layer,
    collision := e.collision || (decide (e.opTag ≠ t) && decide (e ≠ .empty)) }

def tagReset (_ : Nat) : TagEntry := TagEntry.empty

/-- The flags of counted elements (R70). -/
def State.raiseArith (s : State) (p : Nat) (n : EvCount) : State :=
  let s := if 0 < n.inv then s.craise .arithFlagsInvalid p else s
  let s := if 0 < n.sat then s.craise .arithFlagsSaturated p else s
  if 0 < n.flu then s.craise .arithFlagsFlushed p else s

/-- Elements of instruction `id` with tag `tag` counted on cell p: the flags, the command's counts, the tag counter store and
the instruction's own counts (R69, R70, R207, R550, R551, R556). -/
def State.countElems (s : State) (p id tag layer : Nat) (n : EvCount) : State :=
  if n = .zero then s else
  let s := s.raiseArith p n
  let s := s.ccount .cmdInvalidCount n.inv p
  let s := s.ccount .cmdSaturatedCount n.sat p
  let s := s.ccount .cmdFlushedCount n.flu p
  s.onCell p fun c => { c with
    tags := tabSet tagReset c.tags (tag % 1024) ((tabGet tagReset c.tags (tag % 1024)).update tag layer n)
    inflight := updFirst (fun f => f.id == id)
      (fun f => { f with inv := f.inv + n.inv, sat := f.sat + n.sat, flu := f.flu + n.flu }) c.inflight }

/-- The end of a command on a fault (R208): the highest status stands (R224), dispatch stops, queued instructions and pending
SIGNAL_DONEs are discarded; issued instructions go on. -/
def Cell.endCmd (c : Cell) (status : Nat) : Cell :=
  { c with
    ended := some (match c.ended with | none => status | some e => if e < status then status else e)
    arrayQ := [], vectorQ := [], agQ := [], dmaQ := [], signals := []
    run := { c.run with state := .completing, hold := .none, heldWait := none, met := false, released := false, loops := [] } }

def State.endCmd (s : State) (p status : Nat) : State := s.onCell p (·.endCmd status)

/-- CEL_SEQ_FAULT keeps the first fault until software clears valid (R210). Slots: 0 array, 1 vector, 2 address, 3 sync. -/
def State.seqFault (s : State) (p cause slot record bundle : Nat) : State :=
  if s.cflag .cseqFaultValid p then s else
  let s := s.craise .cseqFaultValid p
  let s := s.csetFld .cseqFaultCause cause p
  let s := s.csetFld .cseqFaultSlot slot p
  let s := s.csetFld .cseqFaultRecord record p
  s.csetFld .cseqFaultBundle bundle p

/-- The slot of a unit (R210). -/
def CellUnit.slot : CellUnit → Nat
  | .array => 0 | .vector => 1 | .ag => 2 | .dma => 2

/-- A refusal at issue (R67, R208, R210 cause 0x9). -/
def State.refuse (s : State) (p : Nat) (u : CellUnit) (q : QIns) : State :=
  let s := s.craise .arithFlagsOperandRefused p
  let s := s.seqFault p 9 u.slot 0 q.bundle
  s.endCmd p 2

/-- The queue of a unit. -/
def Cell.queueOf (c : Cell) : CellUnit → List QIns
  | .array => c.arrayQ | .vector => c.vectorQ | .ag => c.agQ | .dma => c.dmaQ

/-- The cell with the head of a unit queue taken. -/
def Cell.popQ (c : Cell) : CellUnit → Cell
  | .array => { c with arrayQ := c.arrayQ.tail }
  | .vector => { c with vectorQ := c.vectorQ.tail }
  | .ag => { c with agQ := c.agQ.tail }
  | .dma => { c with dmaQ := c.dmaQ.tail }

/-- The cell with an instruction put into a unit queue. -/
def Cell.pushQ (c : Cell) (q : QIns) : CellUnit → Cell
  | .array => { c with arrayQ := c.arrayQ ++ [q] }
  | .vector => { c with vectorQ := c.vectorQ ++ [q] }
  | .ag => { c with agQ := c.agQ ++ [q] }
  | .dma => { c with dmaQ := c.dmaQ ++ [q] }

/-- The instruction leaves its queue and is in flight (R191, R205); its issue is traced (R556). The cycle is a free value. -/
def State.issue (s : State) (p : Nat) (u : CellUnit) (q : QIns) (left : Nat) : State :=
  let s := s.onCell p fun c =>
    let c := c.popQ u
    { c with inflight := c.inflight ++ [⟨q.id, u, left, q.tag, q.layer, q.bundle, 0, 0, 0, none⟩] }
  let d := s.draw
  d.2.traceCell p 3 q.tag q.layer q.bundle u.slot 0 (d.1.toNat % 2 ^ 32) (q.extra / 2 ^ 14) 0

/-- One unit of an issued instruction's work has finished (R205). -/
def State.finish (s : State) (p id : Nat) : State :=
  s.onCell p fun c => { c with inflight := updFirst (fun f => f.id == id) (fun f => { f with left := f.left - 1 }) c.inflight }

end Sys2Proof.Machine
end

