-- ==== Sys2Proof/Machine/Operands.lean ====
section
/-! DEFINITION. Operand forms of cell instructions: record fields, loop steps (R194), tensors in cell memory (R38, R46, R108),
and the records of vector instructions (R199). -/

namespace Sys2Proof.Machine

/-- Bits [hi:lo] of the word at byte offset `off` of a record. -/
def QIns.f (q : QIns) (off hi lo : Nat) : Nat := bitsOf q.record.toNat (8 * off + hi) (8 * off + lo)

/-- The same as a signed number. -/
def QIns.sf (q : QIns) (off hi lo : Nat) : Int := sbitsOf q.record.toNat (8 * off + hi) (8 * off + lo)

/-- The record index of a slot (R189). -/
def QIns.recordIx (q : QIns) : Nat := bitsOf q.extra 24 14

/-- The pattern entry of an address slot (R189). -/
def QIns.patternIx (q : QIns) : Nat := bitsOf q.extra 10 5

/-- A stepped field: field + c × increment with the product in signed 32-bit arithmetic (R194); no loop select has counter 0. -/
def QIns.stepped (q : QIns) (field : Nat) (inc : Int) : Int := field + toSigned 32 (((q.ctr : Int) * inc) % 2 ^ 32).toNat

/-- All the listed reserved bits are 0 (R196). -/
def QIns.clear (q : QIns) (res : List (Nat × Nat × Nat)) : Bool := res.all fun r => q.f r.1 r.2.1 r.2.2 == 0

/-- An address span of `n` bytes lies in cell memory (R102). -/
def inCell (a : Int) (n : Nat) : Bool := decide (0 ≤ a) && decide (a + n ≤ cellBytes)

/-! Tensors in cell memory. -/

/-- The code of element `x` of a packed row at `row` (R38, R108). -/
def Cell.elem (c : Cell) (f : Fmt) (row x : Nat) : Nat :=
  let bit := x * f.bits
  let sh := bit % 8
  (c.readNat (row + bit / 8) (ceilDiv (sh + f.bits) 8) / 2 ^ sh) % 2 ^ f.bits

/-- `n` codes of a contiguous run of a format that is no block format. -/
def Cell.codes (c : Cell) (f : Fmt) (base n : Nat) : List Nat := unpackNat f.bits n (c.readNat base (packedBytes f n))

/-- Elements of a block with element codes and scale as one record (R46). -/
def Cell.block (c : Cell) (f : Fmt) (a : Nat) : List FVal :=
  let nb := if f = .b4 then 16 else 32
  let sc := (c.readNat (a + nb) 1)
  (unpackNat f.bits 32 (c.readNat a nb)).map fun x => blockVal sc (toSigned f.bits x)

/-- `n` blocks packed back to back (R46). -/
def Cell.blocks (c : Cell) (f : Fmt) : Nat → Nat → List FVal
  | _, 0 => []
  | a, n + 1 => c.block f a ++ c.blocks f (a + if f = .b4 then 17 else 33) n

/-- `n` values of a contiguous run, of any format (R38, R46). -/
def Cell.vals (c : Cell) (f : Fmt) (uns : Bool) (base n : Nat) : List Val :=
  if f.isBlock then ((c.blocks f base (ceilDiv n 32)).take n).map .flt
  else (c.codes f base n).map (f.decode uns)

/-! Vector records (R199). -/

/-- An operand field of a vector record, its base stepped. -/
structure VOp where
  scalar : Bool
  uns : Bool
  fmt : Option Fmt
  base : Int
  deriving DecidableEq, Repr

/-- A vector record (R199). -/
structure VRec where
  a : VOp
  b : VOp
  c : VOp
  writeValue : Bool
  propagate : Bool
  dUns : Bool
  dFmt : Option Fmt
  dBase : Int
  count : Nat
  rows : Nat
  aStride : Nat
  dStride : Nat
  cond : Nat
  right : Bool
  shift : Nat
  scaleOut : Nat
  scaleIn : Nat
  eps : Nat
  scratch : Nat
  entryEn : Bool
  fusedTarget : Bool
  entry : Nat
  bank : Nat
  offset : Int
  reservedOk : Bool
  deriving DecidableEq, Repr

def QIns.vop (q : QIns) (off step : Nat) : VOp :=
  let scalar := q.f off 30 30 == 1
  { scalar := scalar, uns := q.f off 29 29 == 1, fmt := Fmt.ofCode (q.f off 28 25)
    base := if scalar then q.f off 24 0 else q.stepped (q.f off 24 0) (q.sf step 25 0) }

/-- The bits that a vector record reserves (R199). -/
def vecReserved : List (Nat × Nat × Nat) :=
  [(0x00, 31, 31), (0x04, 31, 31), (0x08, 31, 31), (0x10, 31, 24), (0x14, 31, 12), (0x18, 31, 25), (0x1C, 31, 25),
   (0x20, 31, 25), (0x28, 31, 25), (0x2C, 31, 30), (0x30, 31, 26), (0x34, 31, 26), (0x38, 31, 26), (0x3C, 15, 0)]

def QIns.vrec (q : QIns) : VRec :=
  { a := q.vop 0x00 0x30, b := q.vop 0x04 0x34, c := q.vop 0x08 0x34
    writeValue := q.f 0x0C 31 31 == 1, propagate := q.f 0x0C 30 30 == 1, dUns := q.f 0x0C 29 29 == 1
    dFmt := Fmt.ofCode (q.f 0x0C 28 25), dBase := q.stepped (q.f 0x0C 24 0) (q.sf 0x38 25 0)
    count := q.f 0x10 23 0 + 1, rows := q.f 0x14 11 0 + 1, aStride := q.f 0x18 24 0, dStride := q.f 0x1C 24 0
    cond := q.f 0x20 24 23, right := q.f 0x20 22 22 == 1, shift := q.f 0x20 21 16, scaleOut := q.f 0x20 15 8
    scaleIn := q.f 0x20 7 0, eps := q.f 0x24 31 0, scratch := q.f 0x28 24 0, entryEn := q.f 0x2C 29 29 == 1
    fusedTarget := q.f 0x2C 28 28 == 1, entry := q.f 0x2C 27 18, bank := q.f 0x2C 17 16, offset := q.sf 0x2C 15 0
    reservedOk := q.clear vecReserved }

/-- The formats that the vector unit accepts (R133). -/
def vecFmt : Option Fmt → Bool
  | none => false
  | some f => !f.isBlock

/-- An operand run of `n` elements (one for a scalar) lies in cell memory (R102). -/
def VOp.fits (o : VOp) (n : Nat) : Bool :=
  match o.fmt with
  | none => false
  | some f => inCell o.base (packedBytes f (if o.scalar then 1 else n))

/-- The values of an operand over `n` elements: a scalar is read once and stands in every lane (R136). -/
def Cell.opnd (c : Cell) (o : VOp) (n : Nat) : List Val :=
  match o.fmt with
  | none => []
  | some f =>
    if o.scalar then List.replicate n ((c.vals f o.uns o.base.toNat 1).headD (.int 0)) else c.vals f o.uns o.base.toNat n

/-- The bytes of values converted to a destination format, with their events: a row of elements or of blocks. -/
def packOut (f : Fmt) (rs : List (Nat × Ev)) : List Byte := packElems f (rs.map (·.1))

end Sys2Proof.Machine
end

