-- ==== Sys2Proof/Machine/Pattern.lean ====
section
/-! DEFINITION. Convolution patterns and array operands: the pattern entry (R110, R202), its geometry (R111), elements (R112), and
the vectors of an operand with their line counts (R109). -/

namespace Sys2Proof.Machine

/-- A pattern entry read out of its record (R202). -/
structure PatF where
  kOrder : Bool
  fmt : Option Fmt
  base : Nat
  planeStride : Nat
  rowLo : Int
  rowStride : Nat
  wi : Nat
  rowHi : Nat
  dx : Nat
  dy : Nat
  sx : Nat
  sy : Nat
  kw : Nat
  kh : Nat
  ci : Nat
  padRight : Nat
  padLeft : Nat
  padBottom : Nat
  padTop : Nat
  padValue : Nat
  clear : Bool
  deriving DecidableEq, Repr

def recF (r : BitVec 512) (off hi lo : Nat) : Nat := bitsOf r.toNat (8 * off + hi) (8 * off + lo)

/-- The fields of a PATTERN_LOAD record (R202); `clear` says that its reserved bits are 0. -/
def patOf (r : BitVec 512) : PatF :=
  { kOrder := recF r 0 29 29 == 1, fmt := Fmt.ofCode (recF r 0 28 25), base := recF r 0 24 0
    planeStride := recF r 4 24 0, rowLo := toSigned 7 (recF r 8 26 20), rowStride := recF r 8 19 0
    wi := recF r 0xC 29 15, rowHi := recF r 0xC 14 0
    dx := recF r 0x10 31 29 + 1, dy := recF r 0x10 28 26 + 1, sx := recF r 0x10 25 23 + 1, sy := recF r 0x10 22 20 + 1
    kw := recF r 0x10 19 16 + 1, kh := recF r 0x10 15 12 + 1, ci := recF r 0x10 11 0 + 1
    padRight := recF r 0x14 23 18, padLeft := recF r 0x14 17 12, padBottom := recF r 0x14 11 6, padTop := recF r 0x14 5 0
    padValue := recF r 0x18 15 0
    clear := recF r 0 31 30 == 0 && recF r 4 31 25 == 0 && recF r 8 31 27 == 0 && recF r 0xC 31 30 == 0 &&
      recF r 0x14 31 24 == 0 && recF r 0x18 31 16 == 0 && bitsOf r.toNat (8 * 0x3D + 7) (8 * 0x1C) == 0 }

/-- The formats of a pattern entry (R110). -/
def patFmt : Fmt → Bool
  | .i4 | .i8 | .f6 | .f8a | .f8b | .f12 | .f16 => true
  | _ => false

/-- The fields of an entry lie in their ranges (R102, R108, R110). Every address the entry can reach counts as named by it. -/
def PatF.ok (t : PatF) : Bool :=
  match t.fmt with
  | none => false
  | some f =>
    t.clear && patFmt f && decide (-64 ≤ t.rowLo) && decide (t.rowLo ≤ 0) && decide (1 ≤ t.rowHi) && decide (t.rowHi ≤ 16384) &&
      decide (1 ≤ t.wi) && decide (t.wi ≤ 16384) && decide (t.padValue < 2 ^ f.bits) &&
      decide (packedBytes f t.wi ≤ t.rowStride) &&
      decide (((t.rowHi : Int) - t.rowLo) * t.rowStride ≤ t.planeStride) &&
      decide (0 ≤ (t.base : Int) + t.rowLo * t.rowStride) &&
      decide (t.base + (t.ci - 1) * t.planeStride + (t.rowHi - 1) * t.rowStride + packedBytes f t.wi ≤ cellBytes)

/-- The output size of an entry (R111). -/
def PatF.ho (t : PatF) : Int :=
  ((t.rowHi : Int) - t.rowLo + t.padTop + t.padBottom - t.dy * (t.kh - 1 : Nat) - 1) / t.sy + 1
def PatF.wo (t : PatF) : Int := ((t.wi : Int) + t.padLeft + t.padRight - t.dx * (t.kw - 1 : Nat) - 1) / t.sx + 1

/-- The element at step k and position p: its row address and place, or none where it is padding (R112). -/
def PatF.place (t : PatF) (k p : Nat) : Option (Nat × Nat) :=
  let ch := if t.kOrder then k % t.ci else k / (t.kh * t.kw)
  let ky := if t.kOrder then k / (t.kw * t.ci) else (k / t.kw) % t.kh
  let kx := if t.kOrder then (k / t.ci) % t.kw else k % t.kw
  let wo := t.wo.toNat
  let iy : Int := t.rowLo + (p / wo * t.sy + ky * t.dy : Nat) - t.padTop
  let ix : Int := (p % wo * t.sx + kx * t.dx : Nat) - (t.padLeft : Int)
  if iy < t.rowLo ∨ (t.rowHi : Int) ≤ iy ∨ ix < 0 ∨ (t.wi : Int) ≤ ix then none
  else some (((t.base + ch * t.planeStride : Nat) + iy * t.rowStride).toNat, ix.toNat)

/-- The lines of 64 bytes that an element of a packed row touches. -/
def elemLines (f : Fmt) (row x : Nat) : List Nat :=
  let a := (row + x * f.bits / 8) / 64
  let b := (row + (x * f.bits + f.bits - 1) / 8) / 64
  if a = b then [a] else [a, b]

/-- The distinct numbers of a list. -/
def distinct : List Nat → List Nat
  | [] => []
  | x :: t => if (distinct t).contains x then distinct t else x :: distinct t

/-- The lines of lanes `lo` to `lo + n - 1` of vector k of an operand that is no block operand (R109). -/
def Operand.lines (o : Operand) (k lo n : Nat) : List Nat :=
  if o.patterned then
    distinct ((List.range n).flatMap fun l => match (patOf o.pat).place (o.k0 + k) (o.p0 + lo + l) with
      | some (row, x) => elemLines o.fmt row x
      | none => [])
  else
    let row := o.base + k * o.kStride
    let a := (row + lo * o.fmt.bits / 8) / 64
    let b := (row + ((lo + n) * o.fmt.bits - 1) / 8) / 64
    List.range (b + 1 - a)

/-- The parts of 256 lanes of an operand of `n` lanes: first lane and width (R80). -/
def lanesOf (n : Nat) : List (Nat × Nat) :=
  (List.range (ceilDiv n 256)).map fun b => (256 * b, Nat.min 256 (n - 256 * b))

/-- The operand is accepted for `n` lanes and `k` steps (R102, R109 to R111). -/
def Operand.ok (o : Operand) (n k : Nat) : Bool :=
  let sums := !o.supplied || inCell o.sumAddr (4 * (ceilDiv n 256 * k))
  sums &&
  if o.patterned then
    let t := patOf o.pat
    !o.fmt.isBlock && t.ok && decide (t.fmt = some o.fmt) && decide (1 ≤ t.ho) && decide (1 ≤ t.wo) &&
      decide (((o.p0 + n : Nat) : Int) ≤ t.ho * t.wo) && decide (o.k0 + k ≤ t.ci * t.kh * t.kw) &&
      (List.range k).all fun i => (lanesOf n).all fun b => decide ((o.lines i b.1 b.2).length ≤ 8)
  else if o.fmt.isBlock then
    inCell o.base ((ceilDiv k 32 - 1) * o.kStride + n * (if o.fmt = .b4 then 17 else 33))
  else
    inCell o.base ((k - 1) * o.kStride + packedBytes o.fmt n) &&
      (List.range k).all fun i => (lanesOf n).all fun b => decide ((o.lines i b.1 b.2).length ≤ 8)

/-- The values of lanes `lo` to `lo + n - 1` at step k (R109, R112). -/
def Operand.vector (o : Operand) (c : Cell) (k lo n : Nat) : List Val :=
  if o.patterned then
    (List.range n).map fun l => match (patOf o.pat).place (o.k0 + k) (o.p0 + lo + l) with
      | some (row, x) => o.fmt.decode o.uns (c.elem o.fmt row x)
      | none => o.fmt.decode o.uns (patOf o.pat).padValue
  else (c.codes o.fmt (o.base + k * o.kStride + packedBytes o.fmt lo) n).map (o.fmt.decode o.uns)

/-- Scale code and element integers of each lane's block of block vector kb (R46, R109); elements past K read as zero. -/
def Operand.blockVec (o : Operand) (c : Cell) (kb lo n : Nat) : List (Nat × List Int) :=
  let b := if o.fmt = .b4 then 17 else 33
  let nb := b - 1
  (List.range n).map fun l =>
    let a := o.base + kb * o.kStride + (lo + l) * b
    (c.readNat (a + nb) 1, (unpackNat o.fmt.bits 32 (c.readNat a nb)).map (toSigned o.fmt.bits))

/-- The supplied sum of slice σ at step k, as a code (R90). -/
def Operand.suppliedSum (o : Operand) (c : Cell) (steps slice k : Nat) : Nat := c.readNat (o.sumAddr + 4 * (slice * steps + k)) 4

/-- The pattern entry a slot names, from the table of the cell (R110). -/
def patReset (_ : Nat) : BitVec 512 := 0
def Cell.pattern (c : Cell) (i : Nat) : BitVec 512 := tabGet patReset c.patterns i

end Sys2Proof.Machine
end

