-- ==== Sys2Proof/Machine/Frames.lean ====
section
/-! DEFINITION. Frames in flight of the stream contexts, their freeze-timing flags, and the halt of a sequencer (R364, R368, R381,
R392, R547, R548). -/

namespace Sys2Proof.Machine

def State.ctx (s : State) (c : Nat) : CtxSt := tabGet ctxReset s.ctxs c
def State.setCtx (s : State) (c : Nat) (v : CtxSt) : State := { s with ctxs := tabSet ctxReset s.ctxs c v }

/-- The module is in Flow (R497); below it no command, job or admission starts (R499). -/
def State.inFlow (s : State) : Bool := s.fld .pwrStateCurrent == 0

/-- The states of a context (R392). -/
def ctxIdle : Nat := 0
def ctxPending : Nat := 1
def ctxActive : Nat := 2
def ctxReleasing : Nat := 3
def ctxStalled : Nat := 4

def State.ctxState (s : State) (c : Nat) : Nat := s.fld .ctxStatusState [c]

/-- The 64 contexts (R215). -/
def allCtxs : List Nat := List.range 64

/-- A new list of frames in flight, shown in SEQ_CTX_STATUS (R392). -/
def State.setFrames (s : State) (c : Nat) (fs : List FrameSt) : State :=
  (s.setCtx c { s.ctx c with frames := fs }).setFld .ctxStatusInFlight fs.length [c]

/-- The freeze-timing flag of the frames of context c that meet `p` is cleared, and every frame so struck is counted
once (R381, R393). -/
def State.clearTimingIf (s : State) (c : Nat) (p : FrameSt → Bool) : State :=
  let fs := (s.ctx c).frames
  let hit := (fs.filter fun f => p f && f.timing).length
  (s.setCtx c { s.ctx c with frames := fs.map fun f => if p f then { f with timing := false } else f }).count
    .ctxLateTimingLost hit [c]

/-- The same for the commands of immediate queues of a context, which belong to no frame (R225). -/
def State.clearLoose (s : State) (c : Nat) (p : Nat → Staged → Bool) : State :=
  { s with queues := s.queues.map fun e =>
      if s.fld .queCfgContext [e.1] = c
      then (e.1, { e.2 with staged := e.2.staged.map fun x => if x.frame = 0 ∧ p e.1 x then { x with timing := false } else x })
      else e }

/-- The flag of the frame that an entry belongs to, or of the command itself, is cleared (R175, R259, R405, R526, R528). -/
def State.clearEntryTiming (s : State) (q ix : Nat) : State :=
  let c := s.fld .queCfgContext [q]
  match (s.queue q).staged.find? fun e => e.index == ix with
  | none => s
  | some e => if e.frame = 0 then s.clearLoose c fun q' x => q' == q && x.index == ix
      else s.clearTimingIf c fun f => f.id == e.frame

/-- Every frame in flight of a context loses its flag (R548). -/
def State.clearCtxTiming (s : State) (c : Nat) : State :=
  (s.clearTimingIf c fun _ => true).clearLoose c fun _ x => x.phase == .running

/-- The set of R364 holds a logical cell. -/
def State.ctxHas (s : State) (c cell : Nat) : Bool := bitOf (s.fld .ctxCellsCells [c]) cell

/-- The contexts whose set holds a logical cell, and those of a sequencer (R389). -/
def State.ctxsOfCell (s : State) (cell : Nat) : List Nat := allCtxs.filter fun c => s.ctxState c != ctxIdle && s.ctxHas c cell
def State.ctxsOfSeq (s : State) (n : Nat) : List Nat :=
  allCtxs.filter fun c => s.ctxState c != ctxIdle && s.fld .ctxLoadSequencer [c] == n

/-! Thaw windows that run (R402, R404, R405). -/

def State.thawEntry (s : State) (n : Nat) : ThawSt := tabGet thawReset s.thaw n

/-- The task of an entry; the supervisor's entries 0 and 1 hold tasks 1 and 2 (R402, R422). -/
def State.thawTask (s : State) (n : Nat) : Nat := if n = 0 then 1 else if n = 1 then 2 else s.fld .thawCfgTask [n]

def State.thawRuns (s : State) (n : Nat) : Bool := s.flag .thawStatRunning [n]

/-- A window of a task runs. -/
def State.taskRuns (s : State) (k : Nat) : Bool := (List.range 16).any fun n => s.thawRuns n && s.thawTask n == k

/-- A forced window of a task runs on a target (R405). -/
def State.forcedOn (s : State) (k target : Nat) : Bool :=
  (List.range 16).any fun n => s.thawRuns n && s.thawTask n == k && s.fld .thawCfgTarget [n] == target && (s.thawEntry n).force

/-- The sets of two contexts meet (R364). -/
def State.ctxMeet (s : State) (c d : Nat) : Bool := allCells.any fun l => s.ctxHas c l && s.ctxHas d l

/-- The window of an entry is to be forced (R405). -/
def State.thawForced (s : State) (n : Nat) : Bool := (s.thawEntry n).force && s.flag .thawCfgEnable [n]

/-- An entry has come to its window in this station frame (R402, R406). -/
def State.thawCame (s : State) (n : Nat) : Bool := (s.thawEntry n).last == some (s.fld .sttPositionFrame)

/-- A task-6 window keeps a command of queue q, of a frame, from cells of its context's set (R364, R404, R405): the window's own frame is taken
and not complete, or its boundary has come and it waits for the cells to end what they run. -/
def State.maintained (s : State) (q frame : Nat) : Bool :=
  s.thaw.any fun e =>
    let c := s.fld .queCfgContext [s.fld .thawCfgTarget [e.1]]
    let d := s.fld .queCfgContext [q]
    s.ctxMeet c d &&
      ((match e.2.frame with
        | some f => (s.ctx c).frames.any (fun x => x.id == f) && !(d == c && frame == f)
        | none => false) ||
        (s.thawForced e.1 && s.thawTask e.1 == 6 && !s.thawCame e.1 && !s.thawRuns e.1))

/-- A sequencer halts (R547, R548, R554, R561): its reason bit, the flags of the frames in flight, the trace record and stop. -/
def State.seqHaltAt (s : State) (reason : Fld) (n : Nat) : State :=
  let s := (s.raise .dseqStatusHalted [n]).raise reason [n]
  let s := (s.ctxsOfSeq n).foldl State.clearCtxTiming s
  (s.traceSeq n 7 0 0 (getBits (s.reg .dseqStatus [n]) 30 28 * 2 ^ 28) 0).traceHalt

/-- A sequencer is halted (R561). -/
def State.seqHalted (s : State) (n : Nat) : Bool := s.flag .dseqStatusHalted [n]

/-- A cell is halted from here on (R543, R544, R548, R554). -/
def State.cellHaltAt (s : State) (p : Nat) : State :=
  let s := s.craise .dbgStatusHalted p
  let s := (s.ctxsOfCell (s.logical p)).foldl State.clearCtxTiming s
  let c := s.cell p
  (s.traceCell p 7 c.run.tag c.run.layer c.run.bundle 3 0 0 (getBits (s.reg .dbgStatus (cellIx p)) 30 27 * 2 ^ 27) 0).traceHalt

end Sys2Proof.Machine
end

