-- ==== Sys2Proof/Machine/Special.lean ====
section
/-! DEFINITION. The special functions (R142 to R146): exactly rounded tanh, logistic, exp and log by interval enclosures of
rising precision, faithfully rounded A32 results, and integer square roots. -/

namespace Sys2Proof.Machine

/-- The functions of R145. -/
inductive SpecFn where
  | tanh | logistic | exp | log
  deriving DecidableEq, Repr

/-- A closed interval [lo, hi] of integers that stands for [lo, hi] × 2^(-P). -/
structure Encl where
  lo : Int
  hi : Int
  deriving DecidableEq, Repr

def fdiv (a b : Int) : Int := a / b
def cdiv (a b : Int) : Int := -((-a) / b)

/-- A dyadic number in units of 2^(-P), from below and from above. -/
def Dy.encl (P : Nat) (d : Dy) : Encl :=
  let e := d.e + P
  if 0 ≤ e then ⟨d.m * 2 ^ e.toNat, d.m * 2 ^ e.toNat⟩
  else ⟨fdiv d.m (2 ^ (-e).toNat), cdiv d.m (2 ^ (-e).toNat)⟩

/-- Partial sums of the exponential series at y ≥ 0 in units of 2^(-P), from below (`up` false) or from above; the last term
doubled bounds what is left for y at most 1/2. -/
def expSum (P : Nat) (up : Bool) (y : Int) : Nat → Nat → Int → Int → Int
  | 0, _, term, acc => if up then acc + 2 * term else acc
  | n + 1, i, term, acc =>
    let den : Int := 2 ^ P * (i + 1 : Nat)
    let t := if up then cdiv (term * y) den else fdiv (term * y) den
    expSum P up y n (i + 1) t (acc + if n = 0 ∧ up then 0 else t)

/-- `k` squarings of an interval in units of 2^(-P). -/
def sqr (P : Nat) : Nat → Encl → Encl
  | 0, x => x
  | k + 1, x => sqr P k ⟨fdiv (x.lo * x.lo) (2 ^ P), cdiv (x.hi * x.hi) (2 ^ P)⟩

/-- Binary places of the range reduction for |x| up to 512. -/
def expHalvings : Nat := 17

/-- exp |x| for a dyadic x of magnitude at most 512, in units of 2^(-P). -/
def expPos (P : Nat) (x : Dy) : Encl :=
  let y := (Dy.mk x.m.natAbs (x.e - expHalvings)).encl P
  let n := P / 8 + 4
  sqr P expHalvings ⟨expSum P false y.lo n 0 (2 ^ P) (2 ^ P), expSum P true y.hi n 0 (2 ^ P) (2 ^ P)⟩

/-- Partial sums of the inverse hyperbolic tangent series at 0 ≤ z ≤ 1/3. -/
def atanhSum (P : Nat) (up : Bool) (z2 : Int) : Nat → Nat → Int → Int → Int
  | 0, _, pw, acc => if up then acc + 2 * pw else acc
  | n + 1, i, pw, acc =>
    let d : Int := (2 * i + 1 : Nat)
    let t := if up then cdiv pw d else fdiv pw d
    let pw' := if up then cdiv (pw * z2) (2 ^ P) else fdiv (pw * z2) (2 ^ P)
    atanhSum P up z2 n (i + 1) pw' (acc + t)

/-- 2 × atanh(num/den) for 0 ≤ num/den ≤ 1/3. -/
def atanh2 (P : Nat) (num den : Nat) : Encl :=
  let lo := fdiv (num * 2 ^ P : Nat) den
  let hi := cdiv (num * 2 ^ P : Nat) den
  let n := P / 3 + 4
  ⟨2 * atanhSum P false (fdiv (lo * lo) (2 ^ P)) n 0 lo 0, 2 * atanhSum P true (cdiv (hi * hi) (2 ^ P)) n 0 hi 0⟩

/-- log of a positive dyadic number, in units of 2^(-P): log(r × 2^k) with r from 3/4 to 3/2. -/
def logEncl (P : Nat) (x : Dy) : Encl :=
  let m := x.m.natAbs
  let j := Nat.log2 m
  let big := decide (3 * 2 ^ j ≤ 2 * m)
  let one := if big then 2 ^ (j + 1) else 2 ^ j
  let k : Int := x.e + j + if big then 1 else 0
  let l2 := atanh2 P 1 3
  let base : Encl := if 0 ≤ k then ⟨k * l2.lo, k * l2.hi⟩ else ⟨k * l2.hi, k * l2.lo⟩
  let r := atanh2 P (if one ≤ m then m - one else one - m) (m + one)
  if one ≤ m then ⟨base.lo + r.lo, base.hi + r.hi⟩ else ⟨base.lo - r.hi, base.hi - r.lo⟩

/-- The function's value at a finite nonzero argument (positive for log), in units of 2^(-P). Beyond magnitude 512 the value
is replaced by one on the same side of every rounding boundary of every format. -/
def SpecFn.encl (f : SpecFn) (P : Nat) (x : Dy) : Encl :=
  let neg := decide (x.m < 0)
  let big := decide ((Dy.mk 512 0).lt x.abs)
  let one : Int := 2 ^ P
  match f with
  | .log => logEncl P x
  | .exp =>
    if big then (if neg then (Dy.mk 1 (-700)).encl P else (Dy.mk 1 700).encl P) else
    let e := expPos P x
    if neg then ⟨fdiv (one * one) e.hi, cdiv (one * one) e.lo⟩ else e
  | .logistic =>
    if big then (if neg then (Dy.mk 1 (-700)).encl P else (Dy.mk (2 ^ 700 - 1) (-700)).encl P) else
    let e := expPos P x
    if neg then ⟨fdiv (one * one) (one + e.hi), cdiv (one * one) (one + e.lo)⟩
    else ⟨fdiv (e.lo * one) (one + e.lo), cdiv (e.hi * one) (one + e.hi)⟩
  | .tanh =>
    let r : Encl := if big then (Dy.mk (2 ^ 700 - 1) (-700)).encl P else
      let e := expPos P ⟨2 * x.m, x.e⟩
      ⟨fdiv ((e.lo - one) * one) (e.lo + one), cdiv ((e.hi - one) * one) (e.hi + one)⟩
    if neg then ⟨-r.hi, -r.lo⟩ else r

/-- The value of `g` at the function's exact result: the first precision at which both ends of the enclosure agree decides. -/
def specRound {β : Type} [DecidableEq β] (f : SpecFn) (x : Dy) (g : Dy → β) : List Nat → β
  | [] => g ⟨(f.encl 6144 x).lo, -6144⟩
  | P :: t =>
    let e := f.encl P x
    let lo := g ⟨e.lo, -P⟩
    if lo = g ⟨e.hi, -P⟩ then lo else specRound f x g t

def specPrecisions : List Nat := [64, 192, 768, 3072]

/-- The value at a special input (R146): none where R145 gives it. The flag marks the results counted as invalid. -/
def SpecFn.special (f : SpecFn) : FVal → Option (FVal × Bool)
  | .nan => some (.nan, false)
  | .inf s =>
    match f, s with
    | .tanh, _ => some (.fin ⟨if s then -1 else 1, 0⟩, false)
    | .logistic, false => some (.fin ⟨1, 0⟩, false)
    | .logistic, true => some (.zero, false)
    | .exp, false => some (.inf false, false)
    | .exp, true => some (.zero, false)
    | .log, false => some (.inf false, false)
    | .log, true => some (.nan, true)
  | .fin d =>
    if d.m = 0 then
      match f with
      | .tanh => some (.zero, false)
      | .logistic => some (.fin ⟨1, -1⟩, false)
      | .exp => some (.fin ⟨1, 0⟩, false)
      | .log => some (.inf true, false)
    else
      match f with
      | .log => if d.m < 0 then some (.nan, true)
        else if (d.add ⟨-1, 0⟩).m = 0 then some (.zero, false) else none
      | _ => none

def SpecFn.id : SpecFn → Nat
  | .tanh => 0 | .logistic => 1 | .exp => 2 | .log => 3

/-- A value of an A32 magnitude pair: faithful rounding takes the lower or the upper of the two bracketing values (R142, R143,
R145); an exact value has both equal. -/
def faithfulOf (fn : Nat) (key : List Int) (neg : Bool) (lo hi : Rounded) : FVal × Ev :=
  let r := if Config.faithfulUp fn key then hi else lo
  if hi.tooBig then (.inf neg, .saturated)
  else if r.r = 0 then (.zero, if hi.r = 0 then .none else .flushed)
  else (.fin ⟨if neg then -(r.r : Int) else r.r, r.q⟩, .none)

/-- Faithful A32 rounding of an exact positive rational. -/
def faithfulRat (fn : Nat) (key : List Int) (neg : Bool) (n d : Nat) (e : Int) : FVal × Ev :=
  faithfulOf fn key neg (roundRat Fmt.a32.spec .trunc false n d e) (roundRat Fmt.a32.spec .away false n d e)

/-- Faithful A32 value of a special function at a finite argument (R143, R145). -/
def SpecFn.faithful (f : SpecFn) (x : Dy) : FVal × Ev :=
  let r := specRound f x (fun d => (decide (d.m < 0), roundRat Fmt.a32.spec .trunc false d.m.natAbs 1 d.e,
    roundRat Fmt.a32.spec .away false d.m.natAbs 1 d.e)) specPrecisions
  faithfulOf f.id [x.m, x.e] r.1 r.2.1 r.2.2

/-- Scaling to and from the S8 code of an integer operand (R145). -/
def Dy.scale (d : Dy) (k : Int) : Dy := ⟨d.m, d.e + k⟩

/-- The integer code of a result (R145): rounded to nearest even, saturated, and counted as flushed where a nonzero value
becomes 0. -/
def specInt (dst : Fmt) (uns : Bool) (d : Dy) : Int × Ev :=
  let x := d.rne
  let r := saturate dst uns x
  if x = 0 ∧ d.m ≠ 0 then (0, .flushed) else r

/-- A finite or special value written to the output format (R145, R146): integer outputs carry the scale 2^(127 - b). -/
def specWrite (dst : Fmt) (uns propagate : Bool) (b : Nat) (v : FVal) : Nat × Ev :=
  if dst.isInt then
    match v with
    | .fin d => let r := specInt dst uns (d.scale (127 - (b : Int))); (ofSigned dst.bits r.1, r.2)
    | _ => let r := convInt dst uns (.flt v); (ofSigned dst.bits r.1, r.2)
  else convFloat dst propagate v

/-- A fast-mode float result of the vector unit below 2^(-127) is +0 and counted as flushed (R137). -/
def vecFlush (mode : Mode) (r : FVal × Ev) : FVal × Ev :=
  match mode, r.1 with
  | .fast, .fin d => if d.m ≠ 0 ∧ d.abs.lt ⟨1, -127⟩ then (.zero, Ev.max r.2 .flushed) else r
  | _, _ => r

/-- One element of a special-function instruction: input value with its scale applied, to an output code (R145, R146). The
A32 pairings round faithfully to A32 first. -/
def specElem (f : SpecFn) (mode : Mode) (srcA32 : Bool) (dst : Fmt) (uns propagate : Bool) (b : Nat) (x : FVal) : Nat × Ev :=
  match f.special x with
  | some (v, inv) =>
    let w := specWrite dst uns propagate b v
    (w.1, if inv then .invalid else w.2)
  | none =>
    match x with
    | .fin d =>
      if srcA32 || dst = .a32 then
        let r := vecFlush mode (f.faithful d)
        match r with
        | (.inf s, _) =>
          let w := specWrite dst uns propagate b (.inf s)
          (w.1, .saturated)
        | (v, ev) => let w := specWrite dst uns propagate b v; (w.1, Ev.max ev w.2)
      else if dst.isInt then
        let r := specRound f d (fun y => specInt dst uns (y.scale (127 - (b : Int)))) specPrecisions
        (ofSigned dst.bits r.1, r.2)
      else specRound f d (fun y => convFloat dst propagate (.fin y)) specPrecisions
    | _ => (0, .none)

/-- The integer square root by bits from the top. -/
def isqrtBits (n : Nat) : Nat → Nat → Nat
  | 0, r => r
  | i + 1, r => isqrtBits n i (if (r + 2 ^ i) * (r + 2 ^ i) ≤ n then r + 2 ^ i else r)

def isqrt (n : Nat) : Nat := isqrtBits n (Nat.log2 n / 2 + 1) 0

/-- Faithful A32 reciprocal square root of a positive dyadic number (R142): 2^t / √m lies from s to s + 1, and its half place
stands for every value strictly between. -/
def faithfulRsqrt (v : Dy) : FVal × Ev :=
  let odd := decide (v.e % 2 ≠ 0)
  let m := if odd then 2 * v.m.natAbs else v.m.natAbs
  let e := if odd then (v.e - 1) / 2 else v.e / 2
  let t := Nat.log2 m + 64
  let s := isqrt (2 ^ (2 * t) / m)
  let w := if s * s * m = 2 ^ (2 * t) then 2 * s else 2 * s + 1
  faithfulRat 4 [v.m, v.e] false w 1 (-(t : Int) - 1 - e)

/-- E(t) of R144: round to nearest even of 2^15 × exp(-t × 2^(a - 127)). -/
def softE (a : Nat) (t : Nat) : Nat :=
  if t = 0 then 32768 else
  (specRound .exp ⟨-(t : Int), (a : Int) - 127⟩ (fun y => (y.scale 15).rne) specPrecisions).toNat

end Sys2Proof.Machine
end

