-- ==== Sys2Proof/Machine/VectorElem.lean ====
section
/-! DEFINITION. Element-wise instructions, conversions and special functions of the vector unit (R133 to R137, R145, R586). -/

namespace Sys2Proof.Machine

/-- One vector instruction issues (R134, R191, R198): the head of the vector queue with the step's opcode is refused where
`ok` fails (R67), else it leaves the queue and has its effect. The tables are those of the bank that the command's context has when
the instruction issues (R149). Where no such instruction waits, the step does not happen (log
entry 7). -/
def State.vecIssue (s : State) (p opcode : Nat) (ok : CellCmd → VRec → Bool)
    (eff : State → CellCmd → QIns → VRec → State) : State :=
  match (s.cell p).vectorQ, s.clockedCmd p with
  | q :: _, some cmd =>
    let cmd := { cmd with tables := (s.ctx cmd.context).bank }
    if q.opcode = opcode then
      if q.vrec.reservedOk && ok cmd q.vrec then eff (s.issue p .vector q 0) cmd q q.vrec else s.refuse p .vector q
    else s
  | _, _ => s

/-- A vector result is written to cell memory and its elements are counted (R68, R69). -/
def State.vecWrite (s : State) (p : Nat) (q : QIns) (addr : Int) (bs : List Byte) (evs : List Ev) : State :=
  (s.cwrite p addr.toNat bs).countElems p q.id q.tag q.layer (countEvs evs)

/-- The operations of R136. -/
inductive ElemOp where
  | add | sub | mul | madd | min | max | abs | neg | shift | select
  deriving DecidableEq, Repr

/-- The operands that an operation reads (R199). -/
def ElemOp.opnds (o : ElemOp) (v : VRec) : List VOp :=
  match o with
  | .add | .sub | .mul | .min | .max => [v.a, v.b]
  | .madd | .select => [v.a, v.b, v.c]
  | .abs | .neg | .shift => [v.a]

/-- A format whose values enter the integer path (R586). -/
def Fmt.intPath (f : Fmt) : Bool := f.isInt || f == .p16

def VOp.intPath (o : VOp) : Bool := match o.fmt with | some f => f.intPath | none => false

/-- The comparison of R136 with zero, from an ordering; NaN meets none. -/
def condHolds (cond : Nat) (lt eq gt : Bool) : Bool :=
  match cond with | 0 => lt | 1 => eq | _ => gt

/-- The integer form of an operation (R136), exact. -/
def ElemOp.int (o : ElemOp) (v : VRec) (a b c : Int) : Int :=
  match o with
  | .add => a + b
  | .sub => a - b
  | .mul => a * b
  | .madd => a * b + c
  | .min => if b < a then b else a
  | .max => if a < b then b else a
  | .abs => a.natAbs
  | .neg => -a
  | .shift => if v.right then rneDiv a (2 ^ v.shift) else a * 2 ^ v.shift
  | .select => if condHolds v.cond (decide (a < 0)) (decide (a = 0)) (decide (0 < a)) then b else c

/-- The A32 form of an operation (R61, R136, R137). -/
def ElemOp.a32 (o : ElemOp) (mode : Mode) (v : VRec) (a b c : FVal) : FVal × Ev :=
  match o with
  | .add => vecFlush mode (a32Add a b)
  | .sub => vecFlush mode (a32Sub a b)
  | .mul => vecFlush mode (a32Mul a b)
  | .madd =>
    let p := vecFlush mode (a32Mul a b)
    let r := vecFlush mode (a32Add p.1 c)
    (r.1, Ev.max p.2 r.2)
  | .min => vecFlush mode (if a.isNan || b.isNan then .nan else if b.lt a then b else a, .none)
  | .max => vecFlush mode (if a.isNan || b.isNan then .nan else if a.lt b then b else a, .none)
  | .abs => vecFlush mode (a.abs, .none)
  | .neg => vecFlush mode (a.neg, .none)
  | .shift => (a, .none)
  | .select =>
    vecFlush mode (if !a.isNan && condHolds v.cond (a.lt .zero) (a.eqv .zero) (FVal.lt .zero a) then b else c, .none)

/-- A value as it enters the A32 path: integers round to nearest even in A32 (R586). -/
def Val.toA32 : Val → FVal
  | .int x => (a32Round ⟨x, 0⟩).1
  | v => v.toF

/-- The result of one element, to its destination code (R586). -/
def ElemOp.elem (o : ElemOp) (intPath : Bool) (mode : Mode) (v : VRec) (df : Fmt) (a b c : Val) : Nat × Ev :=
  if intPath then
    let x := o.int v a.toI b.toI c.toI
    if df.intPath then convElem df v.dUns v.propagate (.int x)
    else
      let w := saturate .i48 false x
      let r := convElem df v.dUns v.propagate (.int w.1)
      (r.1, Ev.max w.2 r.2)
  else
    let r := o.a32 mode v a.toA32 b.toA32 c.toA32
    let w := convElem df v.dUns v.propagate (.flt r.1)
    (w.1, Ev.max r.2 w.2)

/-- The refusals of an element-wise instruction (R37, R58, R102, R133, R136, R585, R586). -/
def ElemOp.ok (o : ElemOp) (cmd : CellCmd) (v : VRec) : Bool :=
  match v.dFmt with
  | none => false
  | some df =>
    let os := o.opnds v
    let ip := os.all (·.intPath)
    os.all (fun x => vecFmt x.fmt && x.fits v.count) && vecFmt (some df) && inCell v.dBase (packedBytes df v.count) &&
      decide (df ≠ .s8) && (decide (cmd.mode ≠ .freeze) || (ip && df.intPath)) &&
      (match o with
       | .shift => ip && decide (v.shift ≤ 47)
       | .select => decide (v.cond < 3)
       | _ => true)

/-- The elements of up to three operand lists taken together. -/
def zip3 (f : Val → Val → Val → Nat × Ev) : List Val → List Val → List Val → List (Nat × Ev)
  | a :: as, b :: bs, c :: cs => f a b c :: zip3 f as bs cs
  | _, _, _ => []

/-- The effect of an element-wise instruction (R136, R586): every operand is read before the result is written. -/
def ElemOp.run (o : ElemOp) (p : Nat) (s : State) (cmd : CellCmd) (q : QIns) (v : VRec) : State :=
  match v.dFmt with
  | none => s
  | some df =>
    let cl := s.cell p
    let os := o.opnds v
    let a := cl.opnd v.a v.count
    let b := if 2 ≤ os.length then cl.opnd v.b v.count else a
    let c := if 3 ≤ os.length then cl.opnd v.c v.count else a
    let rs := zip3 (o.elem (os.all (·.intPath)) cmd.mode v df) a b c
    s.vecWrite p q v.dBase (packOut df rs) (rs.map (·.2))

/-- One element-wise step. -/
def State.elemStep (s : State) (p opcode : Nat) (o : ElemOp) : State := s.vecIssue p opcode o.ok (o.run p)

/-- ADD (R136). -/
def execAdd (p : Fin 36) (s : State) : Host.Outcome State Fault Refusal := .next (s.elemStep p 0x01 .add)
/-- SUB (R136). -/
def execSub (p : Fin 36) (s : State) : Host.Outcome State Fault Refusal := .next (s.elemStep p 0x02 .sub)
/-- MUL (R136). -/
def execMul (p : Fin 36) (s : State) : Host.Outcome State Fault Refusal := .next (s.elemStep p 0x03 .mul)
/-- MADD (R136). -/
def execMadd (p : Fin 36) (s : State) : Host.Outcome State Fault Refusal := .next (s.elemStep p 0x04 .madd)
/-- MIN (R136). -/
def execMin (p : Fin 36) (s : State) : Host.Outcome State Fault Refusal := .next (s.elemStep p 0x05 .min)
/-- MAX (R136). -/
def execMax (p : Fin 36) (s : State) : Host.Outcome State Fault Refusal := .next (s.elemStep p 0x06 .max)
/-- ABS (R136). -/
def execAbs (p : Fin 36) (s : State) : Host.Outcome State Fault Refusal := .next (s.elemStep p 0x07 .abs)
/-- NEG (R136). -/
def execNeg (p : Fin 36) (s : State) : Host.Outcome State Fault Refusal := .next (s.elemStep p 0x08 .neg)
/-- SHIFT (R136). -/
def execShift (p : Fin 36) (s : State) : Host.Outcome State Fault Refusal := .next (s.elemStep p 0x09 .shift)
/-- SELECT (R136). -/
def execSelect (p : Fin 36) (s : State) : Host.Outcome State Fault Refusal := .next (s.elemStep p 0x0A .select)

/-- The refusals of CONVERT (R37, R58, R102, R133, R585). -/
def convertOk (cmd : CellCmd) (v : VRec) : Bool :=
  match v.a.fmt, v.dFmt with
  | some sf, some df =>
    vecFmt (some sf) && v.a.fits v.count && vecFmt (some df) && inCell v.dBase (packedBytes df v.count) &&
      (decide (df ≠ .s8) || decide (sf = .s8)) && (decide (cmd.mode ≠ .freeze) || (sf.intPath && df.intPath))
  | _, _ => false

/-- CONVERT: R62, R63 and R585; an S8 source into S8 copies each code. -/
def convertRun (p : Nat) (s : State) (_ : CellCmd) (q : QIns) (v : VRec) : State :=
  match v.a.fmt, v.dFmt with
  | some sf, some df =>
    if sf = .s8 ∧ df = .s8 then
      let n := if v.a.scalar then 1 else v.count
      let cs := (s.cell p).codes .s8 v.a.base.toNat n
      s.vecWrite p q v.dBase (packElems .s8 (if v.a.scalar then List.replicate v.count (cs.headD 0) else cs)) []
    else
      let rs := ((s.cell p).opnd v.a v.count).map (convElem df v.dUns v.propagate)
      s.vecWrite p q v.dBase (packOut df rs) (rs.map (·.2))
  | _, _ => s

/-- CONVERT (R62, R63, R585). -/
def execConvert (p : Fin 36) (s : State) : Host.Outcome State Fault Refusal := .next (s.vecIssue p 0x0B convertOk (convertRun p))

/-- The formats of R145. -/
def Fmt.special (f : Fmt) : Bool := f.isFloat || f == .i8 || f == .i16

/-- The refusals of a special function (R58, R102, R145, R149). -/
def specOk (cmd : CellCmd) (v : VRec) : Bool :=
  match v.a.fmt, v.dFmt with
  | some sf, some df =>
    sf.special && df.special && v.a.fits v.count && inCell v.dBase (packedBytes df v.count) &&
      (!sf.isInt || decide (v.scaleIn ≠ 255)) && (!df.isInt || decide (v.scaleOut ≠ 255)) &&
      (decide (cmd.mode ≠ .freeze) || (sf.isInt && df.isInt)) && cmd.tables.isSome
  | _, _ => false

/-- The argument of a special function: an integer operand carries its scale (R145). -/
def specArg (scaleIn : Nat) : Val → FVal
  | .int x => .fin ⟨x, (scaleIn : Int) - 127⟩
  | v => v.toF

def specRun (f : SpecFn) (p : Nat) (s : State) (cmd : CellCmd) (q : QIns) (v : VRec) : State :=
  match v.a.fmt, v.dFmt with
  | some sf, some df =>
    let rs := ((s.cell p).opnd v.a v.count).map fun x =>
      specElem f cmd.mode (sf == .a32) df v.dUns v.propagate v.scaleOut (specArg v.scaleIn x)
    s.vecWrite p q v.dBase (packOut df rs) (rs.map (·.2))
  | _, _ => s

/-- TANH (R145, R146). -/
def execTanh (p : Fin 36) (s : State) : Host.Outcome State Fault Refusal := .next (s.vecIssue p 0x13 specOk (specRun .tanh p))
/-- LOGISTIC (R145, R146). -/
def execLogistic (p : Fin 36) (s : State) : Host.Outcome State Fault Refusal :=
  .next (s.vecIssue p 0x14 specOk (specRun .logistic p))
/-- EXP (R145, R146). -/
def execExp (p : Fin 36) (s : State) : Host.Outcome State Fault Refusal := .next (s.vecIssue p 0x15 specOk (specRun .exp p))
/-- LOG (R145, R146). -/
def execLog (p : Fin 36) (s : State) : Host.Outcome State Fault Refusal := .next (s.vecIssue p 0x16 specOk (specRun .log p))

end Sys2Proof.Machine
end

