-- ==== Sys2Proof/Machine/VectorRow.lean ====
section
/-! DEFINITION. Row instructions of the vector unit: reductions, mean and variance, normalisation, soft maximum, argmax
(R138 to R144, R150). -/

namespace Sys2Proof.Machine

/-- Lane results combined with the next elements of their lanes; lanes without a further element keep theirs. -/
def zipKeep {α : Type} (f : α → α → α) : List α → List α → List α
  | a :: as, b :: bs => f a b :: zipKeep f as bs
  | as, [] => as
  | [], _ => []

/-- One level of the pairwise tree (R138). -/
def treeLevel {α : Type} (f : α → α → α) : List α → List α
  | a :: b :: t => f a b :: treeLevel f t
  | l => l

def treeLevels {α : Type} (f : α → α → α) : Nat → List α → List α
  | 0, l => l
  | n + 1, l => treeLevels f n (treeLevel f l)

/-- The reduction of a row in the fixed order of R138: 256 lanes, then a pairwise tree of eight levels. A lane without an
element takes no part. -/
def rowReduce {α : Type} (f : α → α → α) (z : α) (xs : List α) : α :=
  match chunks 256 (xs.length + 1) xs with
  | [] => z
  | c :: cs => (treeLevels f 8 (cs.foldl (zipKeep f) c)).headD z

/-- A value of the A32 path with what befell it. -/
abbrev FEv := FVal × Ev

def fevAdd (mode : Mode) (a b : FEv) : FEv :=
  let r := vecFlush mode (a32Add a.1 b.1)
  (r.1, Ev.max (Ev.max a.2 b.2) r.2)

def fevMin (a b : FVal) : FVal := if a.isNan || b.isNan then .nan else if b.lt a then b else a
def fevMax (a b : FVal) : FVal := if a.isNan || b.isNan then .nan else if a.lt b then b else a

def rowSumA32 (mode : Mode) (xs : List FVal) : FEv := rowReduce (fevAdd mode) (.zero, .none) (xs.map fun x => (x, .none))

/-- x / L rounded to nearest even in A32 (R140). -/
def a32DivNat (mode : Mode) (x : FVal) (l : Nat) : FEv :=
  match x with
  | .fin d => vecFlush mode (roundArith Fmt.a32.spec .rne false (decide (d.m < 0)) d.m.natAbs l d.e)
  | v => (v, .none)

/-- What the passes of R140 give for a row of the integer path: mean, deviations, and Q' = Q - T²/L. `uniform` marks R141. -/
structure IntMoments where
  mean : Int
  devs : List Int
  q : Int
  uniform : Bool
  deriving DecidableEq, Repr

def intMoments (xs : List Int) : IntMoments :=
  let l := xs.length
  let mn := rowReduce (fun a b => if b < a then b else a) 0 xs
  let mx := rowReduce (fun a b => if a < b then b else a) 0 xs
  if mn = mx then ⟨mn, xs.map fun _ => 0, 0, true⟩ else
  let mu := rneDiv (xs.foldl (· + ·) 0) l
  let ds := xs.map (· - mu)
  let t := ds.foldl (· + ·) 0
  let q := ds.foldl (fun a d => a + d * d) 0 - rneDiv (t * t) l
  ⟨mu, ds, if q < 0 then 0 else q, false⟩

/-- The variance of the integer path, saturated to I32 (R140). -/
def IntMoments.variance (m : IntMoments) : Int × Ev := saturate .i32 false (rneDiv m.q m.devs.length)

/-- What the passes of R140 give for a row of the A32 path, with the cases of R141. -/
structure FltMoments where
  mean : FEv
  devs : List FEv
  q : FVal
  var : FEv
  uniform : Bool
  clamped : Bool
  deriving DecidableEq, Repr

def isFin : FVal → Bool
  | .fin _ => true
  | _ => false

def fltMoments (mode : Mode) (xs : List FVal) : FltMoments :=
  let l := xs.length
  let mn := rowReduce fevMin .zero xs
  let mx := rowReduce fevMax .zero xs
  if isFin mn && mn.eqv mx then ⟨(mn, .none), xs.map fun _ => (.zero, .none), .zero, (.zero, .none), true, false⟩ else
  let sum := rowSumA32 mode xs
  let mu := a32DivNat mode sum.1 l
  let ds := xs.map fun x => vecFlush mode (a32Sub x mu.1)
  let t := rowReduce (fevAdd mode) (.zero, .none) ds
  let sq := ds.map fun d => let r := vecFlush mode (a32Mul d.1 d.1); (r.1, Ev.max d.2 r.2)
  let q := rowReduce (fevAdd mode) (.zero, .none) sq
  let t2 : FEv := match t.1 with
    | .fin d => vecFlush mode (roundArith Fmt.a32.spec .rne false false (d.m * d.m).natAbs l (2 * d.e))
    | .nan => (.nan, .none)
    | .inf _ => (.inf false, .none)
  let df := vecFlush mode (a32Sub q.1 t2.1)
  let clamped := df.1.lt .zero
  let qc := if clamped then .zero else df.1
  let v := a32DivNat mode qc l
  let hasNan := xs.any (·.isNan)
  let hasInf := xs.any fun x => match x with | .inf _ => true | _ => false
  let mean := (mu.1, if hasNan then .none else Ev.max sum.2 mu.2)
  if hasNan then ⟨mean, ds, .nan, (.nan, .none), false, false⟩
  else if hasInf then ⟨mean, ds, .nan, (.nan, .invalid), false, false⟩
  else ⟨mean, ds, qc, (v.1, Ev.max q.2 (Ev.max t2.2 (Ev.max df.2 v.2))), false, clamped⟩

/-- The code of an A32 value, and of an integer of `bits` bits. -/
def a32Code (v : FVal) : Nat := Fmt.a32.spec.encode v

/-- What a row yields: the bytes it writes at its output, the events of its elements, and whether it was uniform or clamped
(R141, R153). -/
structure RowOut where
  bytes : List Byte
  evs : List Ev
  uniform : Bool
  clamped : Bool
  deriving DecidableEq, Repr

/-- The formats of a row source (R139): the integer path takes I4, I8 and I16. -/
def Fmt.rowInt (f : Fmt) : Bool := f == .i4 || f == .i8 || f == .i16

/-- What the row instruction shares (R138, R139): source, path, size. Each output row takes `outBytes`. -/
def rowOk (cmd : CellCmd) (v : VRec) (outBytes : Fmt → Nat) : Bool :=
  match v.a.fmt with
  | none => false
  | some sf =>
    (sf.rowInt || (sf.isFloat && decide (cmd.mode ≠ .freeze))) && !v.a.scalar && decide (v.count ≤ 65536) &&
      inCell v.a.base ((v.rows - 1) * v.aStride + packedBytes sf v.count) &&
      inCell v.dBase ((v.rows - 1) * v.dStride + outBytes sf)

/-- One row: its result is written and counted before the next row is read (R151). `rows` counts the rows left. -/
def rowLoop (p : Nat) (q : QIns) (v : VRec) (sf : Fmt) (f : State → List Val → RowOut × State) : Nat → Nat → State → State
  | 0, _, s => s
  | n + 1, r, s =>
    let xs := (s.cell p).vals sf v.a.uns (v.a.base.toNat + r * v.aStride) v.count
    let o := f s xs
    let s := o.2.vecWrite p q (v.dBase + (r * v.dStride : Nat)) o.1.bytes o.1.evs
    let s := s.ccount .vecCountUniformRows (b2n o.1.uniform) p
    let s := s.ccount .vecCountVarClamped (b2n o.1.clamped) p
    rowLoop p q v sf f n (r + 1) s

def rowRun (f : CellCmd → VRec → Fmt → State → List Val → RowOut × State) (p : Nat) (s : State) (cmd : CellCmd) (q : QIns)
    (v : VRec) : State :=
  match v.a.fmt with
  | none => s
  | some sf => rowLoop p q v sf (f cmd v sf) v.rows 0 s

/-- A single value of the lane format, I48 or A32 (R139). -/
def laneOut (i : Int) (f : FEv) (ip : Bool) : RowOut :=
  if ip then ⟨leBytes 6 (ofSigned 48 i), [.none], false, false⟩ else ⟨leBytes 4 (a32Code f.1), [f.2], false, false⟩

def laneBytes (f : Fmt) : Nat := if f.rowInt then 6 else 4

/-- Row sum (R137 to R139). -/
def rsumRow (cmd : CellCmd) (_ : VRec) (sf : Fmt) (s : State) (xs : List Val) : RowOut × State :=
  (laneOut ((xs.map (·.toI)).foldl (· + ·) 0) (vecFlush cmd.mode (rowSumA32 cmd.mode (xs.map (·.toF)))) sf.rowInt, s)

/-- Row minimum and maximum (R136, R138). -/
def rminRow (cmd : CellCmd) (_ : VRec) (sf : Fmt) (s : State) (xs : List Val) : RowOut × State :=
  (laneOut (rowReduce (fun a b => if b < a then b else a) 0 (xs.map (·.toI)))
    (vecFlush cmd.mode (rowReduce fevMin .zero (xs.map (·.toF)), .none)) sf.rowInt, s)

def rmaxRow (cmd : CellCmd) (_ : VRec) (sf : Fmt) (s : State) (xs : List Val) : RowOut × State :=
  (laneOut (rowReduce (fun a b => if a < b then b else a) 0 (xs.map (·.toI)))
    (vecFlush cmd.mode (rowReduce fevMax .zero (xs.map (·.toF)), .none)) sf.rowInt, s)

/-- Row mean, I32 or A32 (R139 to R141). -/
def rmeanRow (cmd : CellCmd) (_ : VRec) (sf : Fmt) (s : State) (xs : List Val) : RowOut × State :=
  if sf.rowInt then
    let m := intMoments (xs.map (·.toI))
    (⟨leBytes 4 (ofSigned 32 m.mean), [.none], m.uniform, false⟩, s)
  else
    let m := fltMoments cmd.mode (xs.map (·.toF))
    (⟨leBytes 4 (a32Code m.mean.1), [m.mean.2], m.uniform, false⟩, s)

/-- Row mean and variance, the mean first (R139 to R141; log entry 14 for the record's order). -/
def rvarRow (cmd : CellCmd) (_ : VRec) (sf : Fmt) (s : State) (xs : List Val) : RowOut × State :=
  if sf.rowInt then
    let m := intMoments (xs.map (·.toI))
    let w := m.variance
    (⟨leBytes 4 (ofSigned 32 m.mean) ++ leBytes 4 (ofSigned 32 w.1), [.none, w.2], m.uniform, false⟩, s)
  else
    let m := fltMoments cmd.mode (xs.map (·.toF))
    (⟨leBytes 4 (a32Code m.mean.1) ++ leBytes 4 (a32Code m.var.1), [m.mean.2, m.var.2], m.uniform, m.clamped⟩, s)

/-- RSUM (R138, R139). -/
def execRsum (p : Fin 36) (s : State) : Host.Outcome State Fault Refusal :=
  .next (s.vecIssue p 0x0C (rowOk · · laneBytes) (rowRun rsumRow p))
/-- RMIN (R138, R139). -/
def execRmin (p : Fin 36) (s : State) : Host.Outcome State Fault Refusal :=
  .next (s.vecIssue p 0x0D (rowOk · · laneBytes) (rowRun rminRow p))
/-- RMAX (R138, R139). -/
def execRmax (p : Fin 36) (s : State) : Host.Outcome State Fault Refusal :=
  .next (s.vecIssue p 0x0E (rowOk · · laneBytes) (rowRun rmaxRow p))
/-- RMEAN (R139 to R141). -/
def execRmean (p : Fin 36) (s : State) : Host.Outcome State Fault Refusal :=
  .next (s.vecIssue p 0x0F (rowOk · · (fun _ => 4)) (rowRun rmeanRow p))
/-- RVAR (R140, R141). -/
def execRvar (p : Fin 36) (s : State) : Host.Outcome State Fault Refusal :=
  .next (s.vecIssue p 0x10 (rowOk · · (fun _ => 8)) (rowRun rvarRow p))

/-- A destination of row elements: no block, no S8, and in freeze mode integer or P16 (R58, R133, R585). -/
def rowDst (cmd : CellCmd) (v : VRec) : Bool :=
  match v.dFmt with
  | none => false
  | some df => !df.isBlock && decide (df ≠ .s8) && (decide (cmd.mode ≠ .freeze) || df.intPath)

def dstBytes (v : VRec) (_ : Fmt) : Nat := match v.dFmt with | none => 0 | some df => packedBytes df v.count

/-- The ε of the A32 path: a nonnegative A32 scalar (R142), +infinity among them. A NaN or a negative ε is no such scalar and is refused
(DEDUCED, log entry 15). -/
def epsVal (v : VRec) : Option FVal :=
  match Fmt.a32.spec.decode v.eps with
  | .fin d => if d.m < 0 then none else some (.fin d)
  | .inf false => some (.inf false)
  | _ => none

def normOk (cmd : CellCmd) (v : VRec) : Bool :=
  rowOk cmd v (dstBytes v) && rowDst cmd v &&
    (match v.a.fmt with
     | some sf => if sf.rowInt then decide (1 ≤ v.eps) && decide (v.shift ≤ 16) else (epsVal v).isSome
     | none => false)

/-- A normalised row (R142). The integer path writes I32 values, converted to the destination under R585; where V + ε is 0 or not
finite the manual states no reciprocal square root, and r is a free value. An output is counted for its own deviation, product and
conversion, and as invalid where R141 counts the row's variance so (log entry 15). -/
def normRow (cmd : CellCmd) (v : VRec) (sf : Fmt) (s : State) (xs : List Val) : RowOut × State :=
  match v.dFmt with
  | none => (⟨[], [], false, false⟩, s)
  | some df =>
    if sf.rowInt then
      let m := intMoments (xs.map (·.toI))
      let l := xs.length
      let r := isqrt (l * 2 ^ 62 / (m.q.toNat + l * v.eps))
      let rs := m.devs.map fun d =>
        let w := saturate .i32 false (rneDiv (d * r * 2 ^ v.shift) (2 ^ 31))
        let c := convElem df v.dUns v.propagate (.int w.1)
        (c.1, Ev.max w.2 c.2)
      (⟨packOut df rs, rs.map (·.2), m.uniform, false⟩, s)
    else
      let m := fltMoments cmd.mode (xs.map (·.toF))
      let open_ := let f := s.draw; (Fmt.a32.spec.decode (f.1.toNat % 2 ^ 32), f.2)
      let rs := match m.var.1, (epsVal v).getD .zero with
        | .nan, _ => (FVal.nan, s)
        | .fin d, .fin eps =>
          let w := d.add eps
          if 0 < w.m then ((vecFlush cmd.mode (faithfulRsqrt w)).1, s) else open_
        | _, _ => open_
      let row := if m.var.2 = .invalid then Ev.invalid else Ev.none
      let es := m.devs.map fun d =>
        let w := vecFlush cmd.mode (a32Mul d.1 rs.1)
        let c := convElem df v.dUns v.propagate (.flt w.1)
        (c.1, Ev.max (Ev.max row d.2) (Ev.max w.2 c.2))
      (⟨packOut df es, es.map (·.2), m.uniform, m.clamped⟩, rs.2)

/-- NORM (R142). -/
def execNorm (p : Fin 36) (s : State) : Host.Outcome State Fault Refusal := .next (s.vecIssue p 0x11 normOk (rowRun normRow p))

def softmaxOk (cmd : CellCmd) (v : VRec) : Bool :=
  rowOk cmd v (dstBytes v) && rowDst cmd v &&
    (match v.a.fmt with
     | some sf => if sf.rowInt then
         decide (sf ≠ .i4) && decide (v.dFmt = some .p16) && decide (v.scaleIn ≠ 255) && cmd.tables.isSome &&
           inCell v.scratch (2 * v.count)
       else true
     | none => false)

/-- The integer soft maximum of a row (R144): the exponentials, and the outputs with their events. -/
def softInt (a : Nat) (xs : List Int) : List Nat × List (Nat × Ev) :=
  let m := rowReduce (fun x y => if x < y then y else x) 0 xs
  let es := xs.map fun x => softE a (m - x).toNat
  let sum := es.foldl (· + ·) 0
  (es, es.map fun e => let y := rneDiv (e * 65536 : Nat) sum
    if 65535 < y then (65535, .saturated) else (y.toNat, .none))

/-- exp(x - m) faithfully rounded in A32 (R143); the argument is exact. -/
def softExp (mode : Mode) (m x : FVal) : FEv :=
  match x.addExact m.neg with
  | .inl (v, e) => match SpecFn.exp.special v with
    | some (w, _) => (w, e)
    | none => (.nan, e)
  | .inr d => match SpecFn.exp.special (.fin d) with
    | some (w, _) => (w, .none)
    | none => vecFlush mode (SpecFn.exp.faithful d)

/-- The A32 soft maximum of a row (R143). -/
def softFlt (mode : Mode) (df : Fmt) (v : VRec) (xs : List FVal) : List (Nat × Ev) :=
  let m := rowReduce fevMax .zero xs
  if m.isNan then xs.map fun _ => convElem df v.dUns v.propagate (.flt .nan) else
  let es := xs.map (softExp mode m)
  let sum := rowReduce (fevAdd mode) (.zero, .none) (es.map fun e => (e.1, .none))
  let inv : FVal := match sum.1 with
    | .fin d => (vecFlush mode (faithfulRat 5 [d.m, d.e] (decide (d.m < 0)) 1 d.m.natAbs (-d.e))).1
    | .inf _ => .zero
    | .nan => .nan
  es.map fun e =>
    let y := vecFlush mode (a32Mul e.1 inv)
    let c := convElem df v.dUns v.propagate (.flt y.1)
    (c.1, Ev.max e.2 (Ev.max y.2 c.2))

/-- A row of SOFTMAX (R143, R144); the integer path writes its exponentials to the scratch area. -/
def softmaxRow (p : Nat) (cmd : CellCmd) (v : VRec) (sf : Fmt) (s : State) (xs : List Val) : RowOut × State :=
  match v.dFmt with
  | none => (⟨[], [], false, false⟩, s)
  | some df =>
    if sf.rowInt then
      let r := softInt v.scaleIn (xs.map (·.toI))
      (⟨packOut df r.2, r.2.map (·.2), false, false⟩, s.cwrite p v.scratch (packElems .i16 r.1))
    else
      let rs := softFlt cmd.mode df v (xs.map (·.toF))
      (⟨packOut df rs, rs.map (·.2), false, false⟩, s)

/-- SOFTMAX (R143, R144). -/
def execSoftmax (p : Fin 36) (s : State) : Host.Outcome State Fault Refusal :=
  .next (s.vecIssue p 0x12 softmaxOk (rowRun (softmaxRow p) p))

/-- The refusals of ARGMAX (R102, R150, R199). -/
def argmaxOk (cmd : CellCmd) (v : VRec) : Bool :=
  match v.a.fmt with
  | none => false
  | some sf =>
    !sf.isBlock && decide (sf.bits ≤ 32) && (decide (cmd.mode ≠ .freeze) || !sf.isFloat) && !v.a.scalar &&
      inCell v.a.base ((v.rows - 1) * v.aStride + packedBytes sf v.count) && inCell v.dBase (2 * v.count) &&
      (!v.writeValue || (decide (v.b.fmt = some sf) && !v.b.scalar && inCell v.b.base (packedBytes sf v.count)))

/-- The better of two candidates at one position: a NaN never wins, and of equals the lower channel stays (R150). -/
def argBetter (sf : Fmt) (uns : Bool) (best : Option (Nat × Nat)) (ch code : Nat) : Option (Nat × Nat) :=
  let v := sf.decode uns code
  if v.toF.isNan then best else
  match best with
  | none => some (ch, code)
  | some b => if (sf.decode uns b.2).toF.lt v.toF then some (ch, code) else best

/-- The best candidate of every position over the channels from `ch` on (R150). -/
def argScan (cl : Cell) (sf : Fmt) (v : VRec) : Nat → Nat → List (Option (Nat × Nat)) → List (Option (Nat × Nat))
  | 0, _, best => best
  | n + 1, ch, best =>
    let cs := cl.codes sf (v.a.base.toNat + ch * v.aStride) v.count
    argScan cl sf v n (ch + 1) (List.zipWith (fun b c => argBetter sf v.a.uns b ch c) best cs)

/-- The code of NaN in a source format (R43, R45). -/
def Fmt.nanCode (f : Fmt) : Nat := if f = .s8 then 255 else f.spec.nanCode

/-- ARGMAX (R150): indices at d, the values at operand b's place when write_value is set. -/
def argmaxRun (p : Nat) (s : State) (_ : CellCmd) (q : QIns) (v : VRec) : State :=
  match v.a.fmt with
  | none => s
  | some sf =>
    let best := argScan (s.cell p) sf v v.rows 0 (List.replicate v.count none)
    let s := s.vecWrite p q v.dBase (packElems .i16 (best.map fun b => match b with | some x => x.1 | none => 0))
      (best.map fun b => if b.isNone then .invalid else .none)
    if v.writeValue then
      s.vecWrite p q v.b.base (packElems sf (best.map fun b => match b with | some x => x.2 | none => sf.nanCode)) []
    else s

/-- ARGMAX (R150). -/
def execArgmax (p : Fin 36) (s : State) : Host.Outcome State Fault Refusal := .next (s.vecIssue p 0x17 argmaxOk (argmaxRun p))

end Sys2Proof.Machine
end

