-- ==== Sys2Proof/Machine/AddrGen.lean ====
section
/-! DEFINITION. The address generator's record, issue, regrouping, transposition and crop-and-resize (R108, R113 to R115, R120 to
R122, R200 to R202). -/

namespace Sys2Proof.Machine

/-- An address-generator record (R201), bases stepped. -/
structure AgRec where
  uns : Bool
  sFmt : Option Fmt
  sBase : Int
  sPlane : Nat
  sRow : Nat
  planes : Nat
  width : Nat
  height : Nat
  propagate : Bool
  dFmt : Option Fmt
  dBase : Int
  dPlane : Nat
  dRow : Nat
  xBase : Int
  group : Nat
  nearest : Bool
  outW : Nat
  outH : Nat
  boxes : Nat
  bCode : Nat
  fill : Nat
  reservedOk : Bool
  deriving DecidableEq, Repr

/-- The bits that an address-generator record reserves (R201). -/
def agReserved : List (Nat × Nat × Nat) :=
  [(0x00, 31, 30), (0x04, 31, 25), (0x08, 31, 20), (0x0C, 31, 12), (0x10, 31, 30), (0x14, 31, 30), (0x18, 31, 25),
   (0x1C, 31, 20), (0x20, 31, 25), (0x24, 31, 25), (0x28, 31, 29), (0x2C, 31, 18), (0x30, 31, 26), (0x34, 31, 26),
   (0x38, 31, 26), (0x3C, 15, 0)]

def QIns.agrec (q : QIns) : AgRec :=
  { uns := q.f 0x00 29 29 == 1, sFmt := Fmt.ofCode (q.f 0x00 28 25), sBase := q.stepped (q.f 0x00 24 0) (q.sf 0x30 25 0)
    sPlane := q.f 0x04 24 0, sRow := q.f 0x08 19 0, planes := q.f 0x0C 11 0 + 1
    width := q.f 0x10 29 15, height := q.f 0x10 14 0, propagate := q.f 0x14 29 29 == 1
    dFmt := Fmt.ofCode (q.f 0x14 28 25), dBase := q.stepped (q.f 0x14 24 0) (q.sf 0x34 25 0)
    dPlane := q.f 0x18 24 0, dRow := q.f 0x1C 19 0, xBase := q.stepped (q.f 0x20 24 0) (q.sf 0x38 25 0)
    group := q.f 0x24 24 0, nearest := q.f 0x28 28 28 == 1, outW := q.f 0x28 27 20 + 1, outH := q.f 0x28 19 12 + 1
    boxes := q.f 0x28 11 0 + 1, bCode := q.f 0x2C 17 16, fill := q.f 0x2C 15 0, reservedOk := q.clear agReserved }

/-- One address-generator operation issues, in issue order (R113, R191): the head of its queue with the step's opcode is refused
where `ok` fails (R67), else it has its effect. Every source is read before a result is written (log entry 16). -/
def State.agIssue (s : State) (p opcode : Nat) (ok : CellCmd → PatF → AgRec → Bool)
    (eff : State → CellCmd → QIns → PatF → AgRec → State) : State :=
  match (s.cell p).agQ, s.clockedCmd p with
  | q :: _, some cmd =>
    if q.opcode = opcode then
      let t := patOf ((s.cell p).pattern q.patternIx)
      if q.agrec.reservedOk && ok cmd t q.agrec then eff (s.issue p .ag q 0) cmd q t q.agrec else s.refuse p .ag q
    else s
  | _, _ => s

/-- PATTERN_LOAD (R200, R202): the record becomes the entry; the ranges are checked where an instruction names the entry. -/
def State.patternLoadStep (s : State) (p : Nat) : State :=
  match (s.cell p).agQ, s.clockedCmd p with
  | q :: _, some _ =>
    if q.opcode = 0x01 then
      let r := BitVec.ofNat 512 (q.record.toNat % 2 ^ 496)
      if (patOf r).clear then
        (s.issue p .ag q 0).onCell p fun c => { c with patterns := tabSet patReset c.patterns q.patternIx r }
      else s.refuse p .ag q
    else s
  | _, _ => s

/-- PATTERN_LOAD (R202). -/
def execPatternLoad (p : Fin 36) (s : State) : Host.Outcome State Fault Refusal := .next (s.patternLoadStep p)

/-! Planar tensors (R108). -/

/-- A planar tensor of c planes of h rows of w elements. -/
structure Planar where
  fmt : Fmt
  base : Int
  plane : Nat
  row : Nat
  c : Nat
  h : Nat
  w : Nat
  deriving DecidableEq, Repr

/-- The strides of R108 hold, the base lies in cell memory even where the tensor has no element, and so does every byte (R102). -/
def Planar.ok (t : Planar) : Bool :=
  decide (packedBytes t.fmt t.w ≤ t.row) && decide (t.h * t.row ≤ t.plane) && inCell t.base 1 &&
    (decide (t.c = 0) || decide (t.h = 0) || decide (t.w = 0) ||
      inCell t.base ((t.c - 1) * t.plane + (t.h - 1) * t.row + packedBytes t.fmt t.w))

/-- The base and every row begin at a multiple of 64. R114 says that they must and names no consequence; the model refuses an operation
whose rows or bases do not, under R67 (DESIGN CHOICE, log entry 17). -/
def Planar.aligned (t : Planar) : Bool :=
  decide (t.base % 64 = 0) && (decide (t.h ≤ 1) || decide (t.row % 64 = 0)) && (decide (t.c ≤ 1) || decide (t.plane % 64 = 0))

/-- The address of row y of plane c. -/
def Planar.rowAt (t : Planar) (c y : Nat) : Nat := t.base.toNat + c * t.plane + y * t.row

def Planar.get (t : Planar) (cl : Cell) (c y x : Nat) : Nat := cl.elem t.fmt (t.rowAt c y) x

/-- The rows of a tensor whose element codes a function gives, as writes. -/
def Planar.rows (t : Planar) (f : Nat → Nat → Nat → Nat) : List (Nat × List Byte) :=
  (List.range t.c).flatMap fun c => (List.range t.h).map fun y =>
    (t.rowAt c y, packElems t.fmt ((List.range t.w).map (f c y)))

/-- Writes in order. -/
def Cell.writes (c : Cell) (ws : List (Nat × List Byte)) : Cell := ws.foldl (fun c w => c.write w.1 w.2) c

/-- The whole-byte formats of R114; those of R115 are the same, since their elements take 1, 2 or 4 bytes. -/
def wholeFmt : Fmt → Bool
  | .i8 | .i16 | .i32 | .s8 | .p16 | .f8a | .f8b | .f16 | .a32 => true
  | _ => false

/-- The source tensor of a record, and a destination of given shape (R201). -/
def AgRec.src (r : AgRec) (f : Fmt) (c h w : Nat) : Planar := ⟨f, r.sBase, r.sPlane, r.sRow, c, h, w⟩
def AgRec.dst (r : AgRec) (f : Fmt) (c h w : Nat) : Planar := ⟨f, r.dBase, r.dPlane, r.dRow, c, h, w⟩

/-- The block size b (R201). -/
def AgRec.b (r : AgRec) : Nat := 2 ^ (r.bCode + 1)

/-- Space and depth tensors of a regrouping (R114): the record's C, W and H are those of the tensor before space-to-depth,
for both directions (log entry 17). -/
def AgRec.space (r : AgRec) (mk : Fmt → Nat → Nat → Nat → Planar) (f : Fmt) : Planar := mk f r.planes r.height r.width
def AgRec.depth (r : AgRec) (mk : Fmt → Nat → Nat → Nat → Planar) (f : Fmt) : Planar :=
  mk f (r.planes * r.b * r.b) (ceilDiv r.height r.b) (ceilDiv r.width r.b)

/-- The format codes that a record names: neither is reserved (R37), and in freeze mode neither is a block or float format (R58). -/
def AgRec.fmtsOk (r : AgRec) (cmd : CellCmd) : Bool :=
  match r.sFmt, r.dFmt with
  | some s, some d => decide (cmd.mode ≠ .freeze) || !(s.isFloat || s.isBlock || d.isFloat || d.isBlock)
  | _, _ => false

/-- What S2D and D2S refuse (R58, R67, R114): block code 0b11, other formats, strides, and misaligned rows or bases. -/
def AgRec.regroupOk (r : AgRec) (src dst : Planar) : Bool :=
  decide (r.bCode < 3) && wholeFmt src.fmt && src.ok && dst.ok && src.aligned && dst.aligned

def s2dOk (cmd : CellCmd) (_ : PatF) (r : AgRec) : Bool :=
  r.fmtsOk cmd && match r.sFmt with | some f => r.regroupOk (r.space r.src f) (r.depth r.dst f) | none => false

/-- Output (c × b² + dy × b + dx, Y, X) from input (c, Y × b + dy, X × b + dx), or the fill value (R114). The 16-bit fill is zero-extended
to a 32-bit element, and an 8-bit element takes its low 8 bits (DESIGN CHOICE, log entry 17). -/
def s2dRun (p : Nat) (s : State) (_ : CellCmd) (_ : QIns) (_ : PatF) (r : AgRec) : State :=
  match r.sFmt with
  | none => s
  | some f =>
    let src := r.space r.src f
    s.onCell p fun cl => cl.writes <| (r.depth r.dst f).rows fun c y x =>
      let iy := y * r.b + c % (r.b * r.b) / r.b
      let ix := x * r.b + c % r.b
      if iy < src.h ∧ ix < src.w then src.get cl (c / (r.b * r.b)) iy ix else r.fill

/-- S2D (R114). -/
def execS2d (p : Fin 36) (s : State) : Host.Outcome State Fault Refusal := .next (s.agIssue p 0x02 s2dOk (s2dRun p))

def d2sOk (cmd : CellCmd) (_ : PatF) (r : AgRec) : Bool :=
  r.fmtsOk cmd && match r.sFmt with | some f => r.regroupOk (r.depth r.src f) (r.space r.dst f) | none => false

/-- The exact inverse (R114). -/
def d2sRun (p : Nat) (s : State) (_ : CellCmd) (_ : QIns) (_ : PatF) (r : AgRec) : State :=
  match r.sFmt with
  | none => s
  | some f =>
    let src := r.depth r.src f
    s.onCell p fun cl => cl.writes <| (r.space r.dst f).rows fun c y x =>
      src.get cl (c * r.b * r.b + y % r.b * r.b + x % r.b) (y / r.b) (x / r.b)

/-- D2S (R114). -/
def execD2s (p : Fin 36) (s : State) : Host.Outcome State Fault Refusal := .next (s.agIssue p 0x03 d2sOk (d2sRun p))

/-- TRANSPOSE takes one matrix of R rows and S columns (R115): height R, width S. -/
def transposeOk (cmd : CellCmd) (_ : PatF) (r : AgRec) : Bool :=
  r.fmtsOk cmd && match r.sFmt with
  | some f => wholeFmt f && (r.src f 1 r.height r.width).ok && (r.dst f 1 r.width r.height).ok
  | none => false

def transposeRun (p : Nat) (s : State) (_ : CellCmd) (_ : QIns) (_ : PatF) (r : AgRec) : State :=
  match r.sFmt with
  | none => s
  | some f =>
    let src := r.src f 1 r.height r.width
    s.onCell p fun cl => cl.writes <| (r.dst f 1 r.width r.height).rows fun _ j i => src.get cl 0 i j

/-- TRANSPOSE (R115). -/
def execTranspose (p : Fin 36) (s : State) : Host.Outcome State Fault Refusal :=
  .next (s.agIssue p 0x04 transposeOk (transposeRun p))

/-! Crop-and-resize (R120 to R122). -/

/-- A coordinate in Q16.16 with its clamp, and whether the clamp changed it (R121). -/
def cropCoord (lo hi : Int) (i n size : Nat) : Nat × Bool :=
  let q : Int := lo + ((hi - lo) * (2 * i + 1)) / (2 * n : Nat) - 0x8000
  let top : Int := ((size - 1 : Nat) : Int) * 65536
  let c := if q < 0 then 0 else if top < q then top else q
  (c.toNat, decide (c ≠ q))

/-- The integer blend of R122. -/
def cropInt (a b c d : Int) (fx fy : Nat) : Int :=
  let top := a * (65536 - fx) + b * fx
  let bot := c * (65536 - fx) + d * fx
  rneDiv (top * (65536 - fy) + bot * fy) (2 ^ 32)

/-- A product and a sum of the float blend, each rounded (R122). -/
def cropBlend (a b : FVal × Ev) (w : Nat) : FVal × Ev :=
  let x := a32Mul a.1 (.fin ⟨(65536 : Int) - w, -16⟩)
  let y := a32Mul b.1 (.fin ⟨w, -16⟩)
  let z := a32Add x.1 y.1
  (z.1, Ev.max (Ev.max a.2 b.2) (Ev.max (Ev.max x.2 y.2) z.2))

/-- One output element of a box at sample coordinates sy, sx: code and event (R121, R122). -/
def cropElem (r : AgRec) (src : Planar) (cl : Cell) (ch sy sx : Nat) : Nat × Ev :=
  if r.nearest then
    (src.get cl ch (Nat.min ((sy + 0x8000) / 65536) (src.h - 1)) (Nat.min ((sx + 0x8000) / 65536) (src.w - 1)), .none)
  else
    let iy := sy / 65536
    let ix := sx / 65536
    let iy1 := Nat.min (iy + 1) (src.h - 1)
    let ix1 := Nat.min (ix + 1) (src.w - 1)
    let v := fun y x => src.fmt.decode r.uns (src.get cl ch y x)
    if src.fmt.isInt then
      convElem src.fmt r.uns false
        (.int (cropInt (v iy ix).toI (v iy ix1).toI (v iy1 ix).toI (v iy1 ix1).toI (sx % 65536) (sy % 65536)))
    else
      let e := fun y x => ((v y x).toF, Ev.none)
      let z := cropBlend (cropBlend (e iy ix) (e iy ix1) (sx % 65536)) (cropBlend (e iy1 ix) (e iy1 ix1) (sx % 65536)) (sy % 65536)
      let o := convElem src.fmt r.uns false (.flt z.1)
      (o.1, Ev.max z.2 o.2)

/-- The output of box k (R120). -/
def AgRec.boxDst (r : AgRec) (f : Fmt) (k : Nat) : Planar := { r.dst f r.planes r.outH r.outW with base := r.dBase + k * r.group }

def cropOk (cmd : CellCmd) (_ : PatF) (r : AgRec) : Bool :=
  r.fmtsOk cmd && match r.sFmt with
  | some f =>
    let src := r.src f r.planes r.height r.width
    (f == .i8 || f == .i16 || ((f == .f12 || f == .f16) && decide (cmd.mode ≠ .freeze))) && decide (0 < src.h) &&
      decide (0 < src.w) && src.ok && inCell r.xBase (16 * r.boxes) && (List.range r.boxes).all fun k => (r.boxDst f k).ok
  | none => false

/-- A coordinate of a box entry (R120). -/
def Cell.boxField (c : Cell) (a : Nat) : Int := toSigned 32 (c.readNat a 4)

/-- The rows of one box: address and element results (R120, R121), with the number of clamped samples. -/
def cropBox (r : AgRec) (f : Fmt) (cl : Cell) (k : Nat) : List (Nat × List (Nat × Ev)) × Nat :=
  let src := r.src f r.planes r.height r.width
  let e := r.xBase.toNat + 16 * k
  let ys := (List.range r.outH).map fun i => cropCoord (cl.boxField e) (cl.boxField (e + 8)) i r.outH src.h
  let xs := (List.range r.outW).map fun j => cropCoord (cl.boxField (e + 4)) (cl.boxField (e + 12)) j r.outW src.w
  let rows := (List.range r.planes).flatMap fun ch => ((List.range r.outH).zip ys).map fun iy =>
    ((r.boxDst f k).rowAt ch iy.1, xs.map fun x => cropElem r src cl ch iy.2.1 x.1)
  let clamped := (ys.map fun y => (xs.filter fun x => y.2 || x.2).length).sum
  (rows, r.planes * clamped)

def cropRun (p : Nat) (s : State) (_ : CellCmd) (q : QIns) (_ : PatF) (r : AgRec) : State :=
  match r.sFmt with
  | none => s
  | some f =>
    let bs := (List.range r.boxes).map (cropBox r f (s.cell p))
    let rows := bs.flatMap (·.1)
    let clamped := (bs.map (·.2)).sum
    let s := s.onCell p fun cl => cl.writes (rows.map fun x => (x.1, packOut f x.2))
    let s := if 0 < clamped then (s.craise .agFlagsCropClamped p).ccount .agCountCropClamped clamped p else s
    s.countElems p q.id q.tag q.layer (countEvs (rows.flatMap fun x => x.2.map (·.2)))

/-- CROP (R120 to R122). -/
def execCrop (p : Fin 36) (s : State) : Host.Outcome State Fault Refusal := .next (s.agIssue p 0x09 cropOk (cropRun p))

end Sys2Proof.Machine
end

