-- ==== Sys2Proof/Machine/ArrayIssue.lean ====
section
/-! DEFINITION. The array slot: the MMA record, its refusals and its issue (R49, R50, R66, R77 to R80, R109, R161, R163, R195 to
R197), and the armed injection (R101). -/

namespace Sys2Proof.Machine

/-- The operand class of a pair, or none for a pair that the array does not accept (R50). -/
def pairClass (a b : Fmt) : Option OpClass :=
  if (a == .i4 || a == .i8) && (b == .i4 || b == .i8) then some .integer
  else if a.isBlock && b.isBlock then some .block
  else if a.isFloat && b.isFloat && a != .a32 && b != .a32 then some .float
  else none

/-- The reserved bits of an MMA record (R196), both units. -/
def mmaReserved : List (Nat × Nat × Nat) :=
  [(0x04, 31, 26), (0x08, 31, 28), (0x0C, 31, 20), (0x10, 31, 25), (0x14, 31, 26),
   (0x1C, 31, 26), (0x20, 31, 28), (0x24, 31, 20), (0x28, 31, 25), (0x2C, 31, 26),
   (0x30, 31, 22), (0x34, 31, 16), (0x38, 31, 25), (0x3C, 15, 0), (0x44, 31, 20), (0x48, 31, 26), (0x4C, 31, 29),
   (0x50, 31, 8), (0x54, 31, 0), (0x58, 31, 0), (0x5C, 31, 0), (0x60, 31, 0), (0x64, 31, 0), (0x68, 31, 0), (0x6C, 31, 0),
   (0x70, 31, 0), (0x74, 31, 0), (0x78, 31, 0), (0x7C, 15, 0)]

/-- Every reserved bit of the record is 0 (R196, R197), whatever the patterned bits make unused. -/
def QIns.mmaClear (q : QIns) : Bool := q.clear mmaReserved

/-- An operand block at offset `o` (R196), with its pattern entry copied at issue (R110). None where its format code is
reserved or a stepped field is out of range (R194). -/
def QIns.operand (q : QIns) (c : Cell) (o : Nat) : Option Operand :=
  let pat := q.f o 30 30 == 1
  let inc := q.sf (o + 0x14) 25 0
  let base := if pat then (q.f o 24 0 : Int) else q.stepped (q.f o 24 0) inc
  let p0 := if pat then q.stepped (q.f (o + 8) 27 0) inc else q.f (o + 8) 27 0
  match Fmt.ofCode (q.f o 28 25) with
  | none => none
  | some f =>
    if base < 0 ∨ p0 < 0 ∨ 2 ^ 28 ≤ p0 then none else
    some { supplied := q.f o 31 31 == 1, patterned := pat, uns := q.f o 29 29 == 1, fmt := f, base := base.toNat
           kStride := q.f (o + 4) 19 0, pat := c.pattern (q.f (o + 4) 25 20), p0 := p0.toNat, k0 := q.f (o + 0xC) 19 0
           sumAddr := q.f (o + 0x10) 24 0 }

/-- The drain fields (R161, R196). -/
def QIns.drainSpec (q : QIns) : Option DrainSpec :=
  let base := q.stepped (q.f 0x40 24 0) (q.sf 0x48 25 0)
  match Fmt.ofCode (q.f 0x40 30 27) with
  | none => none
  | some f =>
    if base < 0 then none else
    some { uns := q.f 0x40 31 31 == 1, fmt := f, route := q.f 0x40 26 25, base := base.toNat, rowStride := q.f 0x44 19 0
           kLo := q.f 0x4C 28 25, kHi := q.f 0x4C 24 21, statsStart := q.f 0x4C 20 20 == 0, statsEn := q.f 0x4C 19 19 == 1
           slot := q.f 0x4C 18 15, entryBase := q.f 0x4C 14 5, bank := q.f 0x4C 4 3, axisCols := q.f 0x4C 2 2 == 1
           perChannel := q.f 0x4C 1 1 == 1, propagate := q.f 0x4C 0 0 == 1, clipShare := q.f 0x50 7 0 }

/-- The acc and end codes in force (R195): first-start and last-swap take the selected counter; none for a reserved code. -/
def QIns.accEnd (q : QIns) : Option (Bool × Bool) :=
  let cont := match bitsOf q.extra 10 9 with
    | 0 => some false | 1 => some true | 2 => some (decide (q.ctr ≠ 0)) | _ => none
  let hold := match bitsOf q.extra 8 7 with
    | 0 => some false | 1 => some true | 2 => some (!q.ctrLast) | _ => none
  match cont, hold with
  | some c, some h => some (c, h)
  | _, _ => none

/-- The array instruction that a queue entry spells, with the pattern entries copied (R110, R195, R196). -/
def QIns.mma (q : QIns) (cl : Cell) (mode : Mode) : Option MmaIns :=
  match q.operand cl 0x00, q.operand cl 0x18, q.drainSpec, q.accEnd with
  | some a, some b, some d, some (cont, hold) =>
    match pairClass a.fmt b.fmt with
    | none => none
    | some cls =>
      some { id := q.id, bundle := q.bundle, tag := q.tag, layer := q.layer, mode := mode, cls := cls, a := a, b := b
             preloadStart := q.f 0x30 21 21 == 1, cont := cont, hold := hold, colOrder := q.f 0x30 20 20 == 1
             m := q.f 0x30 9 0 + 1, n := q.f 0x30 19 10 + 1, k := q.f 0x34 15 0 + 1, preload := q.f 0x38 24 0, dst := d }
  | _, _, _, _ => none

/-- The destination formats of the converter and fused routes (R161). -/
def dstFmtOk (cls : OpClass) (f : Fmt) : Bool :=
  match cls with
  | .integer => f == .i4 || f == .i8 || f == .i16 || f == .i32
  | _ => f == .i4 || f == .i8 || f == .i16 || f == .i32 || f.isBlock || f.isFloat

/-- A load or derive that was issued earlier and has not completed writes the store that the drain of an array instruction names
(R156). -/
def Cell.storeLoading (c : Cell) (d : DrainSpec) : Bool := c.inflight.any fun f => f.scale.isSome && f.scale == d.store

/-- The channels that a conversion names (R161, R163). -/
def MmaIns.channels (i : MmaIns) : Nat := if i.dst.perChannel then (if i.dst.axisCols then i.n else i.m) else 1

/-- Bytes of one drained row (R73, R85, R196). -/
def MmaIns.rowBytes (i : MmaIns) : Nat := packedBytes i.dst.fmt i.n

/-- The records that the command would name with this instruction (R163). -/
def Cell.namedRecords (c : Cell) (i : MmaIns) : Nat :=
  let others := (List.range 16).foldl (fun a k =>
    let sl := c.stats.getD k .empty
    if k = i.dst.slot then a else a + sl.count) 0
  let own := c.stats.getD i.dst.slot .empty
  others + (if !i.dst.statsStart ∧ i.channels < own.count then own.count else i.channels)

/-- The refusals of the drain fields (R58, R157, R161, R163, R197). With hold nothing drains, and only the stepped address itself
must lie in cell memory (R194). -/
def MmaIns.dstOk (i : MmaIns) (loaded : Nat) (c : Cell) : Bool :=
  decide (i.dst.route < 3) &&
  (if i.dst.route = 0 then decide (i.dst.fmt = if i.cls = .integer then .i32 else .a32)
   else dstFmtOk i.cls i.dst.fmt && decide (i.dst.entryBase + i.channels ≤ 1024) &&
     (decide (i.dst.route ≠ 1) || bitOf loaded i.dst.bank) &&
     (!i.dst.statsEn || i.hold || decide (c.namedRecords i ≤ 1024))) &&
  (decide (i.mode ≠ .freeze) || i.dst.fmt.isInt) &&
  (if i.hold then inCell i.dst.base 1 else inCell i.dst.base ((i.m - 1) * i.dst.rowStride + i.rowBytes))

/-- The refusals of an array instruction (R49, R50, R58, R77 to R79, R109, R111, R161, R197). -/
def MmaIns.ok (i : MmaIns) (loaded : Nat) (c : Cell) : Bool :=
  (decide (i.mode ≠ .freeze) || decide (i.cls = .integer)) &&
  (!(i.hold || i.cont) || (decide (i.m ≤ 256) && decide (i.n ≤ 256))) &&
  (!i.cont || (match c.prevHold with
    | none => false
    | some h => decide (h.m = i.m) && decide (h.n = i.n) && ((h.cls == .integer) == (i.cls == .integer)) &&
        decide (h.steps + i.k ≤ 262144))) &&
  i.a.ok i.m i.k && i.b.ok i.n i.k &&
  (i.cont || !i.preloadStart || inCell i.preload (4 * i.n)) && i.dstOk loaded c

/-- The passes of an instruction in its tile order (R80). -/
def MmaIns.passes (i : MmaIns) : List Pass :=
  let mbs := List.range (ceilDiv i.m 256)
  let nbs := List.range (ceilDiv i.n 256)
  let blocks := if i.colOrder then nbs.flatMap fun nb => mbs.map fun mb => (mb, nb)
    else mbs.flatMap fun mb => nbs.map fun nb => (mb, nb)
  (List.range blocks.length).zip blocks |>.map fun x =>
    { ins := i, mb := x.2.1, nb := x.2.2, first := x.1 == 0, last := x.1 + 1 == blocks.length }

/-- The statistics slot named by an instruction (R161, R163). -/
def Cell.nameSlot (c : Cell) (i : MmaIns) : Cell :=
  if i.dst.statsEn ∧ i.dst.route ≠ 0 ∧ !i.hold then
    let sl := c.stats.getD i.dst.slot .empty
    let n := if !i.dst.statsStart ∧ i.channels < sl.count then sl.count else i.channels
    { c with stats := c.stats.set i.dst.slot { sl with count := n } }
  else c

/-- What the next array instruction may continue (R77, R79). -/
def MmaIns.leaves (i : MmaIns) (prev : Option HoldInfo) : Option HoldInfo :=
  if i.hold then
    let before := match prev with | some h => if i.cont then h.steps else 0 | none => 0
    some ⟨i.m, i.n, i.cls, before + i.k⟩
  else none

/-- An array instruction issues (R67, R80, R84, R195): the head of the array queue becomes its passes. It waits, and the wait is counted,
while a load or derive of its scale bank or of the fused table is not complete (R156). A refused one leaves what a
later continue goes on from: the previous array instruction of R77 is the last one that issued (DESIGN CHOICE, log entry 82). -/
def State.mmaStep (s : State) (p : Nat) : State :=
  match (s.cell p).arrayQ, s.clockedCmd p with
  | q :: _, some cmd =>
    match q.mma (s.cell p) cmd.mode with
    | none => s.refuse p .array q
    | some i =>
      if (s.cell p).storeLoading i.dst then s.ccount .scaleCountBankWaits 1 p
      else if q.mmaClear && i.ok (s.cfld .srfStatusLoaded p) (s.cell p) then
        let s := s.issue p .array q i.passes.length
        s.onCell p fun c => { c.nameSlot i with passes := c.passes ++ i.passes, prevHold := i.leaves c.prevHold }
      else s.refuse p .array q
  | _, _ => s

/-- MMA (R195). -/
def execMma (p : Fin 36) (s : State) : Host.Outcome State Fault Refusal := .next (s.mmaStep p)

/-- CHK_INJECT_ARM (R101): arm set prepares one injection, arm clear has no effect. A second armed write before the drain that takes
the first replaces it (DESIGN CHOICE, log entry 82). -/
def execChkInjectArm (p : Fin 36) (val : BitVec 32) (s : State) : Host.Outcome State Fault Refusal :=
  .next (s.hostWriteAt (RegId.addr .chkInject (cellIx p)) fun s =>
    if bitOf val.toNat 31 then
      s.onCell p fun c => { c with inject := some (bitsOf val.toNat 17 9, bitsOf val.toNat 8 0) }
    else s)

end Sys2Proof.Machine
end

