-- ==== Sys2Proof/Machine/ArrayPass.lean ====
section
/-! DEFINITION. A pass of the array (R51 to R56, R59, R71, R72, R75 to R77, R80 to R84, R87 to R90): outer products into a bank with
its checksum row, column, corner and magnitudes. -/

namespace Sys2Proof.Machine

/-- A value of the float and block classes as it lies in a bank. -/
def accVal (code : Int) : FVal := Fmt.a32.spec.decode code.toNat
def accCode (v : FVal) : Int := Fmt.a32.spec.encode v

/-- Rounding up to A32 of a magnitude (R89); overflow gives infinity. -/
def upRound (d : Dy) : FVal := (roundArith Fmt.a32.spec .away false false d.m.natAbs 1 d.e).1

def upAdd (a b : FVal) : FVal := match a.addExact b with | .inl r => r.1 | .inr d => upRound d
def upMul (a b : FVal) : FVal := match a.mulExact b with | .inl r => r.1 | .inr d => upRound d

/-- The exact sum of values; NaN and infinities by R61. -/
def exactSum (xs : List FVal) : FVal := match sumExact xs with | .inl r => r.1 | .inr d => .fin d

/-- A signed edge sum: exact, then rounded to nearest even in A32 (R89). -/
def edgeSum (xs : List FVal) : FVal := match exactSum xs with | .fin d => (a32Round d).1 | v => v

/-- An absolute edge sum, rounded up (R89). -/
def edgeAbs (xs : List FVal) : FVal := match exactSum (xs.map (·.abs)) with | .fin d => upRound d | v => v

/-- A term of an accumulation step: a product (R51). -/
def prodVal (a b : FVal) : FVal × Ev := match a.mulExact b with | .inl r => r | .inr d => (.fin d, .none)

/-- One accumulation step (R48, R54, R56): the exact sum of the accumulator and the terms by R61, rounded as the mode requires,
with the highest of the events so far, of the terms and of the step. -/
def accStep (mode : Mode) (acc : Int × Ev) (terms : List (FVal × Ev)) : Int × Ev :=
  let ev := terms.foldl (fun a t => Ev.max a t.2) acc.2
  let w := match sumExact (accVal acc.1 :: terms.map (·.1)) with
    | .inl r => r
    | .inr d => accRound mode d
  (accCode w.1, Ev.max ev w.2)

/-- The fold shape of R81 as the key of the part's open grouping (R54). The tile order is left out of the key, because R80 lets it
change no element's value (log entry 12). -/
def MmaIns.shape (i : MmaIns) : List Nat :=
  [i.m, i.n, i.k, i.a.fmt.bits, i.b.fmt.bits, i.mode.code, i.a.fmt.spec.ebits, i.b.fmt.spec.ebits]

/-- The group size of the part in fast mode (R54), 1 elsewhere (R56). -/
def groupSize (i : MmaIns) : Nat :=
  if i.mode = .fast ∧ i.cls = .float then (match Config.fastGroup i.shape % 3 with | 0 => 1 | 1 => 2 | _ => 4) else 1

/-- What one step of a pass feeds to the array: the operand lanes as values, and the signed and absolute edge sums (R88). -/
structure StepIn where
  a : List FVal
  b : List FVal
  sa : FVal
  sb : FVal
  absA : FVal
  absB : FVal
  deriving DecidableEq, Repr

/-- The lists of the i-th elements. -/
def transposeN : Nat → List (List FVal) → List (List FVal)
  | 0, _ => []
  | n + 1, ls => ls.map (·.headD .zero) :: transposeN n (ls.map (·.tail))

/-- A list updated lane by lane. -/
def lanes2 {α β γ : Type} (f : α → β → γ) (as : List α) (bs : List β) : List γ := List.zipWith f as bs

/-- The rounding of signed checksum products and steps (R89). -/
def chkMac (acc : Int) (x y : FVal) : Int := accCode (a32Add (accVal acc) (a32Mul x y).1).1
def magMac (acc : Int) (x y : FVal) : Int := accCode (upAdd (accVal acc) (upMul x y))

/-- The checksum positions take one step (R88, R89). -/
def Bank.chkStep (k : Bank) (t : StepIn) : Bank :=
  { k with
    chkCol := lanes2 (fun c a => chkMac c a t.sb) k.chkCol t.a
    chkRow := lanes2 (fun c b => chkMac c t.sa b) k.chkRow t.b
    corner := chkMac k.corner t.sa t.sb
    magCol := lanes2 (fun c a => magMac c a.abs t.absB) k.magCol t.a
    magRow := lanes2 (fun c b => magMac c t.absA b.abs) k.magRow t.b
    magCorner := magMac k.magCorner t.absA t.absB }

/-- Data positions take one group of float products (R51, R54, R56). -/
def Bank.floatStep (k : Bank) (mode : Mode) (g : List StepIn) : Bank :=
  let at_ := transposeN k.m (g.map (·.a))
  let bt := transposeN k.n (g.map (·.b))
  let rows := List.zipWith (fun (row : List Int × List Ev) ai =>
    List.zipWith (fun (c : Int × Ev) bj => accStep mode c (List.zipWith prodVal ai bj)) (row.1.zip row.2) bt)
    (k.data.zip k.ev) at_
  let k := { k with data := rows.map (·.map (·.1)), ev := rows.map (·.map (·.2)) }
  g.foldl Bank.chkStep k

/-- The scaled integer sum of a pair of blocks, one accumulation step (R52). -/
def blockTerm (a b : Nat × List Int) : FVal × Ev :=
  if a.1 = 255 ∨ b.1 = 255 then (.nan, .none)
  else (.fin ⟨(List.zipWith (· * ·) a.2 b.2).foldl (· + ·) 0, (a.1 + b.1 : Nat) - (254 : Int)⟩, .none)

/-- Data positions take one block step (R52). -/
def Bank.blockStep (k : Bank) (mode : Mode) (as bs : List (Nat × List Int)) : Bank :=
  let rows := List.zipWith (fun (row : List Int × List Ev) ai =>
    List.zipWith (fun (c : Int × Ev) bj => accStep mode c [blockTerm ai bj]) (row.1.zip row.2) bs) (k.data.zip k.ev) as
  { k with data := rows.map (·.map (·.1)), ev := rows.map (·.map (·.2)) }

/-- The sum of integers, and the sum of their magnitudes (R88). -/
def sumInts (xs : List Int) : Int := xs.foldl (· + ·) 0
def absSum (xs : List Int) : Int := sumInts (xs.map fun x => (x.natAbs : Int))

/-- All positions take one integer step, exact, with their magnitude terms (R59, R88, R89). Only wrong supplied sums could take the
corner beyond a signed 64-bit integer; R89 names no overflow and the sum is kept exact (DESIGN CHOICE, log entry 82). -/
def Bank.intStep (k : Bank) (as bs : List Int) (sa sb : Int) : Bank :=
  let absA := absSum as
  let absB := absSum bs
  { k with
    data := lanes2 (fun row a => lanes2 (fun c b => c + a * b) row bs) k.data as
    chkCol := lanes2 (fun c a => c + a * sb) k.chkCol as
    chkRow := lanes2 (fun c b => c + sa * b) k.chkRow bs
    corner := k.corner + sa * sb
    magCol := lanes2 (fun c (a : Int) => c + a.natAbs * absB) k.magCol as
    magRow := lanes2 (fun c (b : Int) => c + absA * b.natAbs) k.magRow bs
    magCorner := k.magCorner + absA * absB }

/-- The starting values of a bank opened for a pass of m × n positions: the row `pre` in every row, with the checksum and magnitude
starts of R88 (R75, R89). -/
def Bank.opened (cls : OpClass) (m n : Nat) (pre : List Nat) : Bank :=
  let isInt := cls == .integer
  let vals : List Int := if isInt then pre.map (toSigned 32) else pre.map fun (c : Nat) => (c : Int)
  let fs := pre.map (Fmt.a32.spec.decode ·)
  let sum : Int := if isInt then sumInts vals else accCode (edgeSum fs)
  let mag : Int := if isInt then absSum vals else accCode (edgeAbs fs)
  let mF : FVal := .fin ⟨m, 0⟩
  { state := .accumulating, cls := cls, m := m, n := n, steps := 0
    data := List.replicate m vals, ev := List.replicate m (List.replicate n .none)
    chkCol := List.replicate m sum
    chkRow := if isInt then vals.map (m * ·) else fs.map fun v => accCode (a32Mul mF v).1
    corner := if isInt then m * sum
      else accCode (match mF.mulExact (exactSum fs) with | .inl r => r.1 | .inr d => (a32Round d).1)
    magCol := List.replicate m mag
    magRow := if isInt then vals.map fun v => (m : Int) * v.natAbs else fs.map fun v => accCode (upMul mF v.abs)
    magCorner := if isInt then m * mag
      else accCode (match mF.mulExact (exactSum (fs.map (·.abs))) with | .inl r => r.1 | .inr d => upRound d)
    preload := [] }

/-- The part of the preload row that a pass reads (R76): n elements from element 256 × nb. -/
def Pass.preloadRow (x : Pass) (c : Cell) (n : Nat) : List Nat :=
  (List.range n).map fun j => c.readNat (x.ins.preload + 1024 * x.nb + 4 * j) 4

/-- A bank at the start of a pass (R75, R76): a preload start loads the bank's preload register, whose elements past n stay, and
begins at it; a zero start begins at zero and leaves the register. -/
def Pass.open (x : Pass) (c : Cell) (k : Bank) (m n : Nat) : Bank :=
  if x.ins.preloadStart then
    let pre := x.preloadRow c n
    { Bank.opened x.ins.cls m n pre with preload := pre ++ k.preload.drop n }
  else { Bank.opened x.ins.cls m n (List.replicate n 0) with preload := k.preload }

/-- A supplied or edge sum of a float or block operand (R90). -/
def Operand.fltSum (o : Operand) (c : Cell) (steps slice k : Nat) (vs : List FVal) : FVal :=
  if o.supplied then Fmt.a32.spec.decode (o.suppliedSum c steps slice k) else edgeSum vs

def Operand.intSum (o : Operand) (c : Cell) (steps slice k : Nat) (vs : List Int) : Int :=
  if o.supplied then toSigned 32 (o.suppliedSum c steps slice k) else sumInts vs

def Pass.rows (x : Pass) : Nat := Nat.min 256 (x.ins.m - 256 * x.mb)
def Pass.cols (x : Pass) : Nat := Nat.min 256 (x.ins.n - 256 * x.nb)

/-- The lanes of step k with their edge sums, for the float class. -/
def Pass.stepIn (x : Pass) (c : Cell) (k : Nat) : StepIn :=
  let a := (x.ins.a.vector c k (256 * x.mb) x.rows).map (·.toF)
  let b := (x.ins.b.vector c k (256 * x.nb) x.cols).map (·.toF)
  ⟨a, b, x.ins.a.fltSum c x.ins.k x.mb k a, x.ins.b.fltSum c x.ins.k x.nb k b, edgeAbs a, edgeAbs b⟩

/-- The 32 steps of a block pair as decoded values for the checksum positions, steps past K left out (R89). -/
def Pass.blockSteps (x : Pass) (c : Cell) (kb : Nat) (as bs : List (Nat × List Int)) : List StepIn :=
  (List.range (Nat.min 32 (x.ins.k - 32 * kb))).map fun e =>
    let val := fun (l : Nat × List Int) => blockVal l.1 (l.2.getD e 0)
    let a := as.map val
    let b := bs.map val
    let k := 32 * kb + e
    ⟨a, b, x.ins.a.fltSum c x.ins.k x.mb k a, x.ins.b.fltSum c x.ins.k x.nb k b, edgeAbs a, edgeAbs b⟩

/-- The element codes of a block past step K are read as zero (R46). -/
def Pass.maskBlock (x : Pass) (kb : Nat) (l : Nat × List Int) : Nat × List Int := (l.1, l.2.take (Nat.min 32 (x.ins.k - 32 * kb)))

/-- The whole accumulation of a pass into an opened bank, k rising in every mode (R71, R72, R80 to R82). -/
def Pass.accumulate (x : Pass) (c : Cell) (k : Bank) : Bank :=
  let i := x.ins
  match i.cls with
  | .integer =>
    (List.range i.k).foldl (fun k t =>
      let as := (i.a.vector c t (256 * x.mb) x.rows).map (·.toI)
      let bs := (i.b.vector c t (256 * x.nb) x.cols).map (·.toI)
      k.intStep as bs (i.a.intSum c i.k x.mb t as) (i.b.intSum c i.k x.nb t bs)) k
  | .float =>
    (chunks (groupSize i) (i.k + 1) (List.range i.k)).foldl (fun k g => k.floatStep i.mode (g.map (x.stepIn c))) k
  | .block =>
    (List.range (ceilDiv i.k 32)).foldl (fun k kb =>
      let as := (i.a.blockVec c kb (256 * x.mb) x.rows).map (x.maskBlock kb)
      let bs := (i.b.blockVec c kb (256 * x.nb) x.cols).map (x.maskBlock kb)
      (x.blockSteps c kb as bs).foldl Bank.chkStep (k.blockStep i.mode as bs)) k

def Cell.bank (c : Cell) (b : Nat) : Bank := if b = 0 then c.bank0 else c.bank1
def Cell.setBank (c : Cell) (b : Nat) (k : Bank) : Cell := if b = 0 then { c with bank0 := k } else { c with bank1 := k }

/-- Whether the running command uses one bank (R87). -/
def Cell.single (c : Cell) : Bool := match c.cmd with | some m => m.swapMode | none => false

/-- The bank of the next pass: the active one, and with one bank in use bank 0. A pass that continues stays in the bank that is
held, be it bank 1 in a command with swap_mode 1 (DEDUCED, log entry 82). -/
def Cell.passBank (c : Cell) (x : Pass) : Nat := if c.single && !x.ins.cont then 0 else c.active

/-- Whether the next pass can begin (R83, R84, R87): its bank does not drain, and in single-bank mode nothing drains; a pass
that continues finds its bank held. A pass with a zero or preload start after one that ended in hold begins anew, and the held sums
of its bank are lost: R77 says that the next instruction must continue and names no refusal of one that does not (DESIGN CHOICE,
log entry 82). -/
def Cell.passReady (c : Cell) (x : Pass) : Bool :=
  if x.ins.cont then decide ((c.bank c.active).state = .held)
  else decide ((c.bank (c.passBank x)).state ≠ .draining) && (!c.single || c.drains.isEmpty)

/-- The bank after a pass, and its steps (R79). -/
def Pass.run (x : Pass) (c : Cell) (k : Bank) : Bank :=
  let opened := if x.ins.cont then { k with state := .accumulating }
    else x.open c k x.rows x.cols
  let k := x.accumulate c opened
  { k with steps := k.steps + x.ins.k }

/-- The bank that becomes active after a swap (R77, R87). -/
def Cell.nextBank (c : Cell) : Nat := if c.single then 0 else 1 - c.active

/-- The cell after the first pass that waits has run: held, or swapped and waiting for the drain port (R75 to R77, R83). -/
def Cell.passStep (c : Cell) : Cell :=
  match c.passes with
  | [] => c
  | x :: rest =>
    if c.passReady x then
      let b := c.passBank x
      let k := x.run c (c.bank b)
      if x.ins.hold then { (c.setBank b { k with state := .held }) with passes := rest, active := b }
      else { (c.setBank b { k with state := .draining }) with
             passes := rest, active := c.nextBank, drains := c.drains ++ [⟨x, b⟩] }
    else c

/-- A pass that ends in hold finishes its instruction (R77, R205). -/
def State.passStep (s : State) (p : Nat) : State :=
  if s.gated then s else
  match (s.cell p).passes with
  | [] => s
  | x :: _ =>
    let ready := (s.cell p).passReady x
    let s := s.onCell p Cell.passStep
    if ready && x.ins.hold then s.finish p x.ins.id else s

/-- ARRAY_PASS (R84). -/
def execArrayPass (p : Fin 36) (s : State) : Host.Outcome State Fault Refusal := .next (s.passStep p)

end Sys2Proof.Machine
end

