-- ==== Sys2Proof/Machine/Scale.lean ====
section
/-! DEFINITION. Scales: the scale register file, the fused table, loads, derives, block conversion and the host windows (R154 to
R160, R169, R170, R172, R177). -/

namespace Sys2Proof.Machine

/-- What an unlisted scale-bank entry and fused-table entry read as (R157, R169). -/
def srfReset (_ : Nat) : DWord := 0
def fusedReset (_ : Nat) : BitVec 128 := BitVec.ofNat 128 (14 * 2 ^ 16 + 0x4000)

/-- The stored bits of a scale-bank entry and of the two words of a fused-table entry (R154, R169). -/
def srfMask : DWord := maskBits 47 32 ||| maskBits 21 16 ||| maskBits 15 0
def fusedLoMask : DWord := maskBits 21 16 ||| maskBits 15 0
def fusedHiMask : DWord := maskBits 63 32 ||| maskBits 15 0

/-- A rescale entry: multiplier, shift, offset, and the bias code of a fused entry (R154, R169). -/
structure Entry where
  m : Int
  sh : Nat
  off : Int
  bias : Nat
  deriving DecidableEq, Repr

def Cell.srfWord (c : Cell) (bank e : Nat) : DWord := tabGet srfReset c.srf (bank * 1024 + e)
def Cell.srfSet (c : Cell) (bank e : Nat) (v : DWord) : Cell :=
  { c with srf := tabSet srfReset c.srf (bank * 1024 + e) (v &&& srfMask) }
def Cell.fusedWord (c : Cell) (e : Nat) : BitVec 128 := tabGet fusedReset c.fused e
def Cell.fusedSet (c : Cell) (e : Nat) (lo hi : DWord) : Cell :=
  let w := BitVec.ofNat 128 ((hi &&& fusedHiMask).toNat * 2 ^ 64 + (lo &&& fusedLoMask).toNat)
  { c with fused := tabSet fusedReset c.fused e w }

def fusedLo (w : BitVec 128) : DWord := BitVec.ofNat 64 w.toNat
def fusedHi (w : BitVec 128) : DWord := BitVec.ofNat 64 (w.toNat / 2 ^ 64)

def Cell.srfEntry (c : Cell) (bank e : Nat) : Entry :=
  let w := (c.srfWord bank e).toNat
  ⟨sbitsOf w 15 0, bitsOf w 21 16, sbitsOf w 47 32, 0⟩

def Cell.fusedEntry (c : Cell) (e : Nat) : Entry :=
  let w := (c.fusedWord e).toNat
  ⟨sbitsOf w 15 0, bitsOf w 21 16, sbitsOf w 79 64, bitsOf w 127 96⟩

/-- The exact rescale of the integer class before saturation: x of R159 and y = x + off. -/
def Entry.intX (e : Entry) (a : Int) : Int := rneDiv (a * e.m) (2 ^ e.sh)

/-- The A32 rescale of R160: product and sum each rounded to nearest even; x before the offset, and y. -/
def Entry.fltX (e : Entry) (a : FVal) : FVal × Ev := a32Mul a (.fin ⟨e.m, -(e.sh : Int)⟩)
def Entry.fltY (e : Entry) (x : FVal) : FVal × Ev := a32Add x (.fin ⟨e.off, 0⟩)

/-- A drain of an issued array instruction that is still to come uses the store: scale bank b on the converter route, or for 4 the fused
table (R156). A pass that ends in hold has no drain (R77). -/
def Cell.storeBusy (c : Cell) (store : Nat) : Bool :=
  c.passes.any (fun x => !x.ins.hold && x.ins.dst.store == some store) || c.drains.any fun x => x.pass.ins.dst.store == some store

/-- A load or derive at the head of the vector queue waits while a drain uses the store that it writes; the wait is counted (R156).
Once issued it is marked with its store until it completes. -/
def State.scaleIssue (s : State) (p opcode : Nat) (store : VRec → Nat) (ok : CellCmd → VRec → Bool)
    (eff : State → CellCmd → QIns → VRec → State) : State :=
  match (s.cell p).vectorQ with
  | q :: _ =>
    if q.opcode = opcode ∧ (s.cell p).storeBusy (store q.vrec) then s.ccount .scaleCountBankWaits 1 p
    else s.vecIssue p opcode ok fun s cmd q v =>
      (eff s cmd q v).onCell p fun c =>
        { c with inflight := updFirst (fun f => f.id == q.id) (fun f => { f with scale := some (store v) }) c.inflight }
  | [] => s

/-- The loaded bit of a bank is set (R155, R172, R181). -/
def State.setLoaded (s : State) (p bank : Nat) : State :=
  s.csetFld .srfStatusLoaded (s.cfld .srfStatusLoaded p ||| 2 ^ bank) p

/-- The refusals of SCALE_LOAD (R102, R155). It always loads a scale bank and does not use the target bit, which is not checked (R199). -/
def scaleLoadOk (_ : CellCmd) (v : VRec) : Bool :=
  decide (v.count ≤ 1024) && decide (v.entry + v.count ≤ 1024) && inCell v.a.base (8 * v.count)

/-- Entries from consecutive words of cell memory (R155). -/
def loadEntries (bank : Nat) (a : Nat) : Nat → Nat → Cell → Cell
  | 0, _, c => c
  | n + 1, e, c => loadEntries bank (a + 8) n (e + 1) (c.srfSet bank e (BitVec.ofNat 64 (c.readNat a 8)))

def scaleLoadRun (p : Nat) (s : State) (_ : CellCmd) (_ : QIns) (v : VRec) : State :=
  (s.onCell p (loadEntries v.bank v.a.base.toNat v.count v.entry)).setLoaded p v.bank

/-- SCALE_LOAD (R155, R156). -/
def execScaleLoad (p : Fin 36) (s : State) : Host.Outcome State Fault Refusal :=
  .next (s.scaleIssue p 0x18 (·.bank) scaleLoadOk (scaleLoadRun p))

/-- T of a conversion: the larger distance from the offset to an end of the range, or the largest finite value (R166). -/
def targetInt (f : Fmt) (uns : Bool) (off : Int) : Int :=
  let r := f.range uns
  if r.2 - off < off - r.1 then off - r.1 else r.2 - off

def targetFlt (f : Fmt) : Dy := ⟨f.spec.maxSig, f.spec.maxExp⟩

/-- The largest shift up to `n` with ⌊T × 2^n / A⌋ below 2^15 (R172). -/
def deriveShift (t a : Nat) : Nat → Option Nat
  | 0 => if t / a < 2 ^ 15 then some 0 else none
  | n + 1 => if t * 2 ^ (n + 1) / a < 2 ^ 15 then some (n + 1) else deriveShift t a n

/-- The derived multiplier and shift of one record, with the clamp flag; none leaves the entry unchanged (R172). -/
def deriveEntry (f : Fmt) (uns : Bool) (off : Int) (raw : Nat) : Option (Nat × Nat) × Bool :=
  if f.isInt then
    if raw = 0 then (none, true) else
    let t := (targetInt f uns off).toNat
    match deriveShift t raw 63 with
    | some sh => (some (t * 2 ^ sh / raw, sh), false)
    | none => (some (32767, 0), true)
  else
    match Fmt.a32.spec.decode (raw % 2 ^ 32) with
    | .fin d =>
      if d.m ≤ 0 then (none, true) else
      let t := targetFlt f
      let g0 := ratBinade t.m.natAbs 1 t.e - ratBinade d.m.natAbs 1 d.e
      let g := if (Dy.mk d.m (d.e + g0)).le t then g0 else g0 - 1
      let sh := 14 - g
      if sh < 0 then (some (0x4000, 0), true) else if 63 < sh then (some (0x4000, 63), true) else (some (0x4000, sh.toNat), false)
    | _ => (none, true)

def deriveOk (cmd : CellCmd) (v : VRec) : Bool :=
  match v.dFmt with
  | none => false
  | some df => (df.isInt || (df.isFloat && decide (cmd.mode ≠ .freeze))) && decide (v.count ≤ 1024) &&
      decide (v.entry + v.count ≤ 1024) && inCell v.a.base (32 * v.count)

/-- One derived entry written; offset and bias stay (R172). -/
def Cell.deriveSet (c : Cell) (fused : Bool) (bank e m sh : Nat) : Cell :=
  if fused then
    let w := c.fusedWord e
    c.fusedSet e (BitVec.ofNat 64 (sh * 2 ^ 16 + m)) (fusedHi w)
  else c.srfSet bank e ((c.srfWord bank e &&& maskBits 47 32) ||| BitVec.ofNat 64 (sh * 2 ^ 16 + m))

/-- The records from address `a` on, one entry each (R172). -/
def deriveLoop (p : Nat) (df : Fmt) (v : VRec) : Nat → Nat → Nat → State → State
  | 0, _, _, s => s
  | n + 1, a, e, s =>
    let r := deriveEntry df v.dUns v.offset ((s.cell p).readNat a (if df.isInt then 8 else 4))
    let s := match r.1 with | some (m, sh) => s.onCell p (·.deriveSet v.fusedTarget v.bank e m sh) | none => s
    let s := if r.2 then s.craise .scaleFlagsDeriveClamped p else s
    deriveLoop p df v n (a + 32) (e + 1) s

def deriveRun (p : Nat) (s : State) (_ : CellCmd) (_ : QIns) (v : VRec) : State :=
  match v.dFmt with
  | none => s
  | some df =>
    let s := deriveLoop p df v v.count v.a.base.toNat v.entry s
    if v.fusedTarget then s else s.setLoaded p v.bank

/-- DERIVE (R156, R172). -/
def execDerive (p : Fin 36) (s : State) : Host.Outcome State Fault Refusal :=
  .next (s.scaleIssue p 0x19 (fun v => if v.fusedTarget then 4 else v.bank) deriveOk (deriveRun p))

/-- The refusals of BLOCK_CONVERT (R58, R102, R177): exactly one side a block, no scalar, no S8, no entry into blocks. -/
def blockConvertOk (cmd : CellCmd) (v : VRec) : Bool :=
  match v.a.fmt, v.dFmt with
  | some sf, some df =>
    decide (sf.isBlock ≠ df.isBlock) && !v.a.scalar && decide (sf ≠ .s8) && decide (df ≠ .s8) &&
      !(df.isBlock && v.entryEn) && decide (cmd.mode ≠ .freeze) && v.a.fits v.count &&
      inCell v.dBase (packedBytes df v.count)
  | _, _ => false

/-- One element out of blocks: the named entry's A32 arithmetic, then the conversion (R160, R170, R177). -/
def outOfBlock (e : Option Entry) (df : Fmt) (v : VRec) (x : FVal) : Nat × Ev :=
  match e with
  | none => convElem df v.dUns v.propagate (.flt x)
  | some e =>
    let b := if v.fusedTarget then a32Add x (Fmt.a32.spec.decode e.bias) else (x, .none)
    let y := e.fltX b.1
    let z := e.fltY y.1
    let c := convElem df v.dUns v.propagate (.flt z.1)
    (c.1, Ev.max b.2 (Ev.max y.2 (Ev.max z.2 c.2)))

def blockConvertRun (p : Nat) (s : State) (_ : CellCmd) (q : QIns) (v : VRec) : State :=
  match v.a.fmt, v.dFmt with
  | some sf, some df =>
    let cl := s.cell p
    let xs := (cl.vals sf v.a.uns v.a.base.toNat v.count).map (·.toF)
    if df.isBlock then
      let o := packBlocks df v.propagate xs
      s.vecWrite p q v.dBase o.1 o.2
    else
      let e := if v.entryEn then some (if v.fusedTarget then cl.fusedEntry v.entry else cl.srfEntry v.bank v.entry) else none
      let rs := xs.map (outOfBlock e df v)
      s.vecWrite p q v.dBase (packOut df rs) (rs.map (·.2))
  | _, _ => s

/-- BLOCK_CONVERT (R177). -/
def execBlockConvert (p : Fin 36) (s : State) : Host.Outcome State Fault Refusal :=
  .next (s.vecIssue p 0x1A blockConvertOk (blockConvertRun p))

/-- A host write to a window of the cell: stored while no command runs, else discarded and flagged (R158, R169). -/
def State.windowWrite (s : State) (p : Nat) (f : Cell → Cell) : State :=
  if (s.cell p).idle then s.onCell p f else s.craise .scaleFlagsHostWriteRefused p

/-- SCALE_WINDOW_WRITE (R158). -/
def execScaleWindowWrite (p : Fin 36) (entry : Fin 4096) (val : BitVec 64) (s : State) : Host.Outcome State Fault Refusal :=
  .next (s.hostWriteAt (RegId.addr .srfEntry (cellIx p ++ [(entry : Nat)])) fun s =>
    s.windowWrite p (·.srfSet (entry / 1024) (entry % 1024) val))

/-- FUSED_TABLE_WRITE (R169). -/
def execFusedTableWrite (p : Fin 36) (entry : Fin 1024) (high : Bool) (val : BitVec 64) (s : State) :
    Host.Outcome State Fault Refusal :=
  .next (s.hostWriteAt (RegId.addr (if high then .fusedHi else .fusedLo) (cellIx p ++ [(entry : Nat)])) fun s =>
    s.windowWrite p fun c =>
    let w := c.fusedWord entry
    if high then c.fusedSet entry (fusedLo w) val else c.fusedSet entry val (fusedHi w))

end Sys2Proof.Machine
end

