-- ==== Sys2Proof/Machine/ArrayDrain.lean ====
section
/-! DEFINITION. The drain of a swapped bank: injection (R101), checks (R91 to R95), freeze overflow (R59, R93), conversion and
statistics (R85, R159 to R163, R170, R171), and the verdict (R94, R99, R100). -/

namespace Sys2Proof.Machine

/-- Inversion of bit 0 of an integer sum in two's complement, or of an A32 code (R101). -/
def flip0 (x : Int) : Int := if x % 2 = 0 then x + 1 else x - 1

/-- The bank with bit 0 of the named value inverted; a place outside the used lanes flips nothing (R101). -/
def Bank.inject (k : Bank) (row col : Nat) : Bank :=
  if row < k.m ∧ col < k.n then { k with data := k.data.modify row fun r => r.modify col flip0 }
  else if row < k.m ∧ col = 0x100 then { k with chkCol := k.chkCol.modify row flip0 }
  else if row = 0x100 ∧ col < k.n then { k with chkRow := k.chkRow.modify col flip0 }
  else if row = 0x100 ∧ col = 0x100 then { k with corner := flip0 k.corner }
  else k

/-- The outcome of one comparison (R91, R92). -/
inductive Verdict where
  | pass | fail | skip
  deriving DecidableEq, Repr

/-- One comparison (R91, R92): the values added in ascending order against an entry, with the tolerance of the float and block
classes. -/
def compareSum (cls : OpClass) (steps : Nat) (vals : List Int) (entry mag : Int) : Verdict :=
  if cls = .integer then (if vals.foldl (· + ·) 0 = entry then .pass else .fail) else
  let fs := vals.map accVal
  let sum := fs.foldl (fun a x => (a32Add a x).1) .zero
  match sum, accVal entry, accVal mag with
  | .fin s, .fin e, .fin m =>
    if fs.all isFin then
      let q := vals.length
      let tau := ((Dy.mk (2 * steps + q + 2 : Nat) (-23)).mul m).add ⟨steps, -118⟩
      if (s.add e.neg).abs.le tau then .pass else .fail
    else .skip
  | _, _, _ => .skip
where
  isFin : FVal → Bool
    | .fin _ => true
    | _ => false

/-- The verdicts of a drain: rows, columns, and the corner against the checksum column and the checksum row (R91). -/
structure Verdicts where
  rows : List Verdict
  cols : List Verdict
  cornerCol : Verdict
  cornerRow : Verdict
  deriving DecidableEq, Repr

/-- The lists of the j-th values of every row. -/
def columns : Nat → List (List Int) → List (List Int)
  | 0, _ => []
  | n + 1, rows => rows.map (·.headD 0) :: columns n (rows.map (·.tail))

def Bank.verdicts (k : Bank) : Verdicts :=
  let rows := List.zipWith (fun (r : List Int) (e : Int × Int) => compareSum k.cls k.steps r e.1 e.2) k.data (k.chkCol.zip k.magCol)
  let cols := List.zipWith (fun (r : List Int) (e : Int × Int) => compareSum k.cls k.steps r e.1 e.2) (columns k.n k.data)
    (k.chkRow.zip k.magRow)
  ⟨rows, cols, compareSum k.cls k.steps k.chkCol k.corner k.magCorner, compareSum k.cls k.steps k.chkRow k.corner k.magCorner⟩

def Verdicts.all (v : Verdicts) : List Verdict := v.rows ++ v.cols ++ [v.cornerCol, v.cornerRow]
def Verdicts.rowMismatch (v : Verdicts) : Bool := v.rows.contains .fail || v.cornerCol == .fail
def Verdicts.colMismatch (v : Verdicts) : Bool := v.cols.contains .fail || v.cornerRow == .fail
def Verdicts.failed (v : Verdicts) : Bool := v.rowMismatch || v.colMismatch

/-- The indices a failure records (R95). -/
def Verdicts.firstRow (v : Verdicts) : Nat :=
  if v.rows.contains .fail then v.rows.idxOf .fail else if v.cornerRow == .fail then 0x100 else 0x1FF
def Verdicts.firstCol (v : Verdicts) : Nat :=
  if v.cols.contains .fail then v.cols.idxOf .fail else if v.cornerCol == .fail then 0x100 else 0x1FF

/-- One element on its way through the drain: the accumulator value, its logical row and column, the event of its accumulation
(R68). -/
structure DrainEl where
  a : Int
  row : Nat
  col : Nat
  ev : Ev
  deriving DecidableEq, Repr

/-- A converted element before packing: the value entering rescale and the value before the offset as magnitudes (integers or
A32 codes), NaN, the value to convert, its event, and the entry's offset (R159, R160, R163, R170). -/
structure Rescaled where
  raw : Nat
  out : Nat
  nan : Bool
  y : Val
  ev : Ev
  off : Int
  deriving DecidableEq, Repr

def magCode (v : FVal) : Nat := Fmt.a32.spec.encode v.abs

/-- Rescale of one element on the converter or the fused route (R159, R160, R170). -/
def rescale (cls : OpClass) (fused : Bool) (e : Entry) (a : Int) : Rescaled :=
  if cls = .integer then
    let a := if fused then a + toSigned 32 e.bias else a
    let x := e.intX a
    ⟨a.natAbs, x.natAbs, false, .int (x + e.off), .none, e.off⟩
  else
    let b := if fused then a32Add (accVal a) (Fmt.a32.spec.decode e.bias) else (accVal a, .none)
    let x := e.fltX b.1
    let y := e.fltY x.1
    ⟨magCode b.1, magCode x.1, b.1.isNan || x.1.isNan, .flt y.1, Ev.max b.2 (Ev.max x.2 y.2), e.off⟩

/-- The entry of an element (R161, R170). -/
def DrainSpec.entry (d : DrainSpec) (c : Cell) (e : DrainEl) : Entry :=
  let ix := d.entryBase + (if d.perChannel then (if d.axisCols then e.col else e.row) else 0)
  if d.route = 2 then c.fusedEntry ix else c.srfEntry d.bank ix

/-- The update of a statistics record by one converted element (R163, R164, R171). -/
def StatRec.update (r : StatRec) (i : MmaIns) (x : Rescaled) (ev : Ev) : StatRec :=
  { cls := i.cls, amaxRaw := if x.nan then r.amaxRaw else Nat.max r.amaxRaw x.raw
    amaxOut := if x.nan then r.amaxOut else Nat.max r.amaxOut x.out, elements := satAdd 32 r.elements 1
    clipped := satAdd 32 r.clipped (b2n (ev == .saturated)), flushed := satAdd 32 r.flushed (b2n (ev == .flushed))
    opTag := i.tag, flags := r.flags ||| (if i.dst.route = 2 then 8 else 0) ||| (if x.nan then 16 else 0)
    fmt := i.dst.fmt, uns := i.dst.uns, off := x.off, kLo := i.dst.kLo, kHi := i.dst.kHi, clipShare := i.dst.clipShare }

def statReset (_ : Nat) : StatRec := StatRec.empty

/-- The records updated by the elements of one row (R163). -/
def StatSlot.updates (sl : StatSlot) (i : MmaIns) : List (DrainEl × Rescaled × Ev) → StatSlot
  | [] => sl
  | (e, x, ev) :: t =>
    let ch := if i.dst.perChannel then (if i.dst.axisCols then e.col else e.row) else 0
    StatSlot.updates { sl with records := tabSet statReset sl.records ch ((tabGet statReset sl.records ch).update i x ev) } i t

/-- The bytes of a converted row and the event of each element (R62 to R64, R159, R161). -/
def convRow (i : MmaIns) (xs : List Rescaled) : List Byte × List Ev :=
  if i.dst.fmt.isBlock then
    let o := packBlocks i.dst.fmt i.dst.propagate (xs.map (·.y.toF))
    (o.1, List.zipWith (fun (x : Rescaled) e => Ev.max x.ev e) xs o.2)
  else
    let rs := xs.map fun x => let r := convElem i.dst.fmt i.dst.uns i.dst.propagate x.y; (r.1, Ev.max x.ev r.2)
    (packOut i.dst.fmt rs, rs.map (·.2))

/-- The bytes of a raw row (R59, R85): I32 saturated, or the A32 codes. -/
def rawRow (cls : OpClass) (es : List DrainEl) : List Byte × List Ev :=
  let rs := es.map fun e =>
    if cls = .integer then let r := saturate .i32 false e.a; (ofSigned 32 r.1, Ev.max e.ev r.2) else (e.a.toNat, e.ev)
  (packOut .i32 rs, rs.map (·.2))

/-- One row drained into cell memory, with the events of its accumulation and then those of its conversion (R68, R73, R85, R162,
R196). -/
def Cell.drainRow (c : Cell) (x : Pass) (r : Nat) (es : List DrainEl) : Cell × List Ev :=
  let i := x.ins
  let addr := i.dst.base + (256 * x.mb + r) * i.dst.rowStride + packedBytes i.dst.fmt (256 * x.nb)
  if i.dst.route = 0 then
    let o := rawRow i.cls es
    (c.write addr o.1, o.2)
  else
    let xs := es.map fun e => rescale i.cls (i.dst.route == 2) (i.dst.entry c e) e.a
    let o := convRow i xs
    let c := c.write addr o.1
    let c := if i.dst.statsEn then
        let sl := (c.stats.getD i.dst.slot .empty).updates i (es.zip (xs.zip o.2))
        { c with stats := c.stats.set i.dst.slot { sl with used := true } }
      else c
    (c, es.map (·.ev) ++ o.2)

/-- The elements of row r of a pass. -/
def Pass.els (x : Pass) (r : Nat) (vals : List Int) (evs : List Ev) : List DrainEl :=
  List.zipWith (fun (v : Int × Ev) j => ⟨v.1, 256 * x.mb + r, 256 * x.nb + j, v.2⟩) (vals.zip evs) (List.range vals.length)

/-- All rows drained in order; the events of every element (R83). -/
def Cell.drainRows (x : Pass) : List (List Int × List Ev) → Nat → Cell → List Ev → Cell × List Ev
  | [], _, c, evs => (c, evs)
  | (vals, es) :: t, r, c, evs =>
    let o := c.drainRow x r (x.els r vals es)
    Cell.drainRows x t (r + 1) o.1 (evs ++ o.2)

/-- A start action clears the slot before its first element (R161). -/
def Cell.clearSlot (c : Cell) (x : Pass) : Cell :=
  if x.first ∧ x.ins.dst.statsEn ∧ x.ins.dst.route ≠ 0 ∧ x.ins.dst.statsStart then
    { c with stats := c.stats.set x.ins.dst.slot { (c.stats.getD x.ins.dst.slot .empty) with records := [] } }
  else c

/-- A freeze-mode tile with a sum outside the I32 range (R59, R93). -/
def Bank.overflows (k : Bank) : Bool :=
  k.cls == .integer && k.data.any fun r => r.any fun x => decide (x < -(2 ^ 31)) || decide (2 ^ 31 ≤ x)

/-- The verdict of a drain on the registers (R94, R99, R100). -/
def State.recordVerdict (s : State) (p : Nat) (v : Verdicts) : State :=
  let skipped := (v.all.filter (· == .skip)).length
  let s := if 0 < skipped then (s.craise .chkStatusUnchecked p).ccount .chkCountUnchecked skipped p else s
  if !v.failed then s else
  let fresh := s.cfld .chkStatusRowMismatch p == 0 && s.cfld .chkStatusColMismatch p == 0
  let s := if fresh then (s.csetFld .chkStatusFirstRow v.firstRow p).csetFld .chkStatusFirstCol v.firstCol p else s
  let s := if v.rowMismatch then s.craise .chkStatusRowMismatch p else s
  let s := if v.colMismatch then s.craise .chkStatusColMismatch p else s
  s.ccount .chkCountFailedDrains 1 p

/-- The checksum halt after a failed drain, where the command asked for it (R94, R544). -/
def State.chkHalt (s : State) (p : Nat) : State :=
  match (s.cell p).cmd with
  | some m => if m.chkHalt then
      (s.onCell p fun c => { c with run := { c.run with halting := true } }).craise .dbgStatusByChecksum p else s
  | none => s

/-- The oldest swapped bank drains (R83): checks and conversion of the injected values, the verdict, and what follows from it. A tile
that freeze overflow keeps from being written is not converted: it updates no statistics and counts no events (R93 says only that it
writes nothing; DESIGN CHOICE, log entry 82). -/
def State.drainStep (s : State) (p : Nat) : State :=
  if s.gated then s else
  match (s.cell p).drains with
  | [] => s
  | j :: rest =>
    let c0 := s.cell p
    let bank := c0.bank j.bank
    let x := j.pass
    let tooBig := x.ins.mode == .freeze && bank.overflows
    let k := match c0.inject with | some (r, c) => bank.inject r c | none => bank
    let c1 := { (c0.setBank j.bank { bank with state := .idle }) with drains := rest, inject := none }
    let o := if tooBig then (c1, []) else Cell.drainRows x (k.data.zip k.ev) 0 (c1.clearSlot x) []
    let s := (s.setCell p o.1).countElems p x.ins.id x.ins.tag x.ins.layer (countEvs o.2)
    let v := k.verdicts
    let s := s.recordVerdict p v
    let s := s.finish p x.ins.id
    let s := if tooBig then (s.craise .arithFlagsFreezeOverflow p).endCmd p 3 else s
    if v.failed then
      let d := s.draw
      let s := d.2.traceCell p 6 x.ins.tag x.ins.layer x.ins.bundle 0 0 (d.1.toNat % 2 ^ 32) (s.reg .chkStatus (cellIx p)).toNat 0
      (s.endCmd p 4).chkHalt p
    else s

/-- ARRAY_DRAIN (R83). -/
def execArrayDrain (p : Fin 36) (s : State) : Host.Outcome State Fault Refusal := .next (s.drainStep p)

end Sys2Proof.Machine
end

