-- ==== Sys2Proof/Machine/Ingress.lean ====
section
/-! DEFINITION. House RTP packets into ingress windows (R401, R416, R474, R480; log entry 13). -/

namespace Sys2Proof.Machine

def State.ing (s : State) (c : Nat) : IngressSt := tabGet ingressReset s.ingress c
def State.setIng (s : State) (c : Nat) (v : IngressSt) : State := { s with ingress := tabSet ingressReset s.ingress c v }

/-- A tier-2 address from an offset of `Config`. -/
def tier2At (off : Nat) : Nat := 0x10000000000 + off % 0x14000000000

/-- The first and size of the window of a unit, in tier 2. -/
def ingressBase (c slot unit : Nat) : Nat := tier2At (Config.ingressWindow c slot unit).1
def ingressSize (c slot unit : Nat) : Nat := (Config.ingressWindow c slot unit).2

def IngressSt.slot (v : IngressSt) (f : Nat) : IngressSlot := if f % 2 = 0 then v.slot0 else v.slot1
def IngressSt.setSlot (v : IngressSt) (f : Nat) (x : IngressSlot) : IngressSt :=
  if f % 2 = 0 then { v with slot0 := x } else { v with slot1 := x }

/-- The length of the contiguous bytes from offset 0 (R480), over `n` rounds of the spans received. -/
def fillOf (spans : List (Nat × Nat)) : Nat → Nat → Nat
  | 0, at_ => at_
  | n + 1, at_ => fillOf spans n (spans.foldl (fun a x => if x.1 ≤ a then Nat.max a (x.1 + x.2) else a) at_)

def spansReset (_ : Nat) : List (Nat × Nat) := []

/-- The fill of a unit. -/
def IngressSlot.fill (x : IngressSlot) (unit : Nat) : Nat :=
  let spans := tabGet spansReset x.units unit
  fillOf spans (spans.length + 1) 0

/-- A packet is accepted (R480): its frame is the next or the next but one, its slot is open, and it lies within its window. -/
def State.packetOk (s : State) (c f unit off n : Nat) : Bool :=
  let v := s.ing c
  decide (f = v.next % 2 ^ 32 ∨ f = (v.next + 1) % 2 ^ 32) && (v.slot f).isOpen && decide (unit < Config.ingressUnits c) &&
    decide (off + n ≤ ingressSize c (f % 2) unit)

/-- A packet is written to its slot, at its unit's window and offset (R480). -/
def State.fillWindow (s : State) (c f unit off : Nat) (bs : List Byte) : State :=
  let v := s.ing c
  let x := v.slot f
  let x := { x with units := tabSet spansReset x.units unit (tabGet spansReset x.units unit ++ [(off, bs.length)]) }
  (s.devWrite (ingressBase c (f % 2) unit + off) bs).setIng c ({ v with staged := v.staged ++ bs }.setSlot f x)

/-- The ingress digest that an admission records (R416). -/
def State.ingressDigest (s : State) (c : Nat) : Nat :=
  if s.flag .rrCtrlIngressDigest then digest64 (s.ing c).staged else 0

/-- The admission of the next frame: each unit's fill goes to the length table of its slot, which closes (R401, R480). A context whose
windows the host fills keeps the table that the host writes. -/
def State.closeIngress (s : State) (c : Nat) : State :=
  let v := s.ing c
  let f := v.next
  let x := v.slot f
  let s := if !Config.hostFills c then (List.range (Config.ingressUnits c)).foldl (fun s u =>
      s.devWrite (tier2At (Config.ingressTable c (f % 2)) + 8 * u) (leBytes 8 (x.fill u))) s else s
  s.setIng c ({ v with next := f + 1, staged := [] }.setSlot f { x with isOpen := false })

/-- The slot that frame f has closed opens for frame f + 2 (R480). -/
def State.openIngress (s : State) (c f : Nat) : State :=
  if ((s.ing c).slot f).frame = f then s.setIng c ((s.ing c).setSlot f ⟨true, f + 2, []⟩) else s

end Sys2Proof.Machine
end

