-- ==== Sys2Proof/Machine/CellSeq.lean ====
section
/-! DEFINITION. The cell sequencer: bundles and their dispatch (R186 to R194, R204 to R211), the sync slot, and the halt, resume and
step of a cell (R543 to R546, R551). -/

namespace Sys2Proof.Machine

/-! Slots (R188, R189, R204). -/

/-- One slot word of a bundle: 0 array, 1 vector, 2 address, 3 sync (R188). -/
def slotOf (w : BitVec 128) (slot : Nat) : Nat := bitsOf w.toNat (119 - 30 * slot) (90 - 30 * slot)

def slotOpcode (sl : Nat) : Nat := bitsOf sl 29 25
def slotRecord (sl : Nat) : Nat := bitsOf sl 24 14
def slotLoop (sl : Nat) : Nat := bitsOf sl 13 11

/-- The check byte is the XOR of bytes 0 to 14 (R186). -/
def bundleOk (w : BitVec 128) : Bool := xorBytes (leBytes 15 w.toNat) == bitsOf w.toNat 127 120

/-- The stores of a cell as a command sees them: the half in use (R185). -/
def Cell.bundleAt (c : Cell) (half : Bool) (i : Nat) : BitVec 128 := tabGet (fun _ => 0) c.istore (4096 * b2n half + i)
def Cell.unitAt (c : Cell) (half : Bool) (i : Nat) : BitVec 512 := tabGet (fun _ => 0) c.rstore (2048 * b2n half + i)

/-- The record of a slot: two units for the array, one elsewhere (R190, R195). -/
def Cell.recordAt (c : Cell) (half : Bool) (slot i : Nat) : BitVec 1024 :=
  if slot = 0 then BitVec.ofNat 1024 ((c.unitAt half i).toNat + 2 ^ 512 * (c.unitAt half (i + 1)).toNat)
  else BitVec.ofNat 1024 (c.unitAt half i).toNat

/-- The unit behind a slot (R190, R200). -/
def slotUnit (slot opcode : Nat) : CellUnit :=
  match slot with
  | 0 => .array | 1 => .vector | _ => if opcode = 0x10 then .dma else .ag

/-- The counter that a loop select names, and whether its loop is in its last iteration (R189, R193, R194). -/
def SeqRun.counter (r : SeqRun) (sel : Nat) : Nat × Bool :=
  if sel = 0 then (0, true) else
  match r.loops[sel - 1]? with
  | some f => (f.ctr, f.ctr + 1 == f.count)
  | none => (0, true)

/-- The depth of a unit queue (R190). -/
def queueDepth : Nat := 8

def Cell.onRun (c : Cell) (f : SeqRun → SeqRun) : Cell := { c with run := f c.run }
def State.onRun (s : State) (p : Nat) (f : SeqRun → SeqRun) : State := s.onCell p (·.onRun f)
def State.run (s : State) (p : Nat) : SeqRun := (s.cell p).run

/-- Dispatch goes on: a command runs and no halt is in force (R543). -/
def State.dispatching (s : State) (p : Nat) : Bool :=
  (s.clockedCmd p).isSome && (s.run p).state == .running && !(s.run p).halting && !s.halted p

/-! The sync slot (R193, R204 to R207), shared by BUNDLE_DISPATCH and the rows of the sync instructions. -/

/-- LOOP: the body begins at the next bundle (R193). -/
def SeqRun.loop (r : SeqRun) (count length : Nat) : SeqRun :=
  { r with loops := ⟨r.bundle, r.bundle + length - 1, count, 0⟩ :: r.loops }

/-- The bundle after one has been dispatched: loops whose last bundle it was return or end (R193). -/
def endLoops : List LoopFrame → Nat → List LoopFrame × Nat
  | [], b => ([], b)
  | f :: t, b =>
    if b ≤ f.last then (f :: t, b)
    else if f.ctr + 1 < f.count then ({ f with ctr := f.ctr + 1 } :: t, f.first)
    else endLoops t b

def SeqRun.advance (r : SeqRun) : SeqRun :=
  let x := endLoops r.loops (r.bundle + 1)
  { r with loops := x.1, bundle := x.2 }

/-- The value that a WAIT waits for (R205). -/
def CellCmd.waitValue (m : CellCmd) (k : Nat) : Nat := (m.waitBase + k) % 2 ^ 32

/-- The hold code and its count of one held cycle (R209, R211). -/
def State.holdBundle (s : State) (p : Nat) (h : Hold) (waits full : Bool) : State :=
  let s := s.onRun p fun r => { r with hold := h }
  let s := if waits then s.ccount .cseqCountWaitCycles 1 p else s
  if full then s.ccount .cseqCountQueueFull 1 p else s

/-- The bundle is held by a WAIT; one that was held before keeps that a change of its tally has met it (R205). -/
def SeqRun.waitFor (r : SeqRun) (h : Nat × Nat) : SeqRun :=
  { r with heldWait := some h, met := r.met && r.heldWait == some h, released := false }

/-- WAIT (R205): satisfied, or its bundle is held. -/
def State.syncWait (s : State) (p tally k : Nat) : State :=
  match (s.cell p).cmd with
  | none => s
  | some m =>
    if reaches (s.tally tally) (m.waitValue k) then s.onRun p fun r => { r with hold := .none, heldWait := none, met := false, released := false }
    else (s.onRun p (·.waitFor (tally, m.waitValue k))).holdBundle p .wait true false

/-- An instruction of one of the named queues has not completed (R206). -/
def Cell.fencePending (c : Cell) (array vector ag dma : Bool) : Bool :=
  let busy := fun u => !(c.queueOf u).isEmpty || c.inflight.any fun f => f.unit == u
  (array && busy .array) || (vector && busy .vector) || (ag && busy .ag) || (dma && busy .dma)

/-- FENCE (R206). -/
def State.syncFence (s : State) (p : Nat) (array vector ag dma : Bool) : State :=
  if (s.cell p).fencePending array vector ag dma then s.holdBundle p .fence true false
  else s.onRun p fun r => { r with hold := .none }

/-- SIGNAL_DONE: armed behind every instruction dispatched so far (R205). -/
def State.syncSignalDone (s : State) (p tally inc : Nat) : State :=
  s.onCell p fun c => { c with signals := c.signals ++ [⟨c.run.nextId, tally, inc⟩] }

/-- TAG (R207). -/
def State.syncTag (s : State) (p tag layer : Nat) : State := s.onRun p fun r => { r with tag := tag, layer := layer }

/-- END stops fetch (R206). -/
def State.syncEnd (s : State) (p : Nat) : State := s.onRun p fun r => { r with state := .completing }

/-! Dispatch (R190). -/

/-- The tag in force at a bundle, after its own TAG (R207, R544). -/
def tagAfter (r : SeqRun) (sync : Nat) : Nat × Nat :=
  if slotOpcode sync = 6 then (bitsOf sync 24 9, bitsOf sync 8 0) else (r.tag, r.layer)

/-- The breakpoint matches the next bundle (R544, R559). -/
def State.bpHit (s : State) (p tag : Nat) : Bool :=
  !(s.run p).passedBp &&
    ((s.cflag .dbgBpBundleEn p && s.cfld .dbgBpBundle p == (s.run p).bundle) ||
     (s.cflag .dbgBpTagEn p && s.cfld .dbgBpTag p == tag))

/-- A halt takes effect (R543): nothing is held any more, since the conditions are tested again after the resume. -/
def State.haltFrom (s : State) (p : Nat) (reason : Fld) : State :=
  (s.onRun p fun r => { r with halting := true, stepping := false, hold := .none, heldWait := none, met := false, released := false }).craise
    reason p

/-- The breakpoint halts the cell before the bundle (R544, R559). -/
def State.bpHalt (s : State) (p : Nat) : State :=
  let s := s.haltFrom p .dbgStatusByBreakpoint
  if s.cflag .dbgBpOnce p then (s.csetFld .dbgBpBundleEn 0 p).csetFld .dbgBpTagEn 0 p else s

/-- One slot enters the queue of its unit (R190, R207). -/
def State.sendSlot (s : State) (p : Nat) (half : Bool) (w : BitVec 128) (slot : Nat) : State :=
  let sl := slotOf w slot
  if slotOpcode sl = 0 then s else
  s.onCell p fun c =>
    let k := c.run.counter (slotLoop sl)
    let q : QIns := { id := c.run.nextId, bundle := c.run.bundle, tag := c.run.tag, layer := c.run.layer, opcode := slotOpcode sl
                      extra := sl % 2 ^ 25, record := c.recordAt half slot (slotRecord sl), ctr := k.1, ctrLast := k.2 }
    (c.pushQ q (slotUnit slot (slotOpcode sl))).onRun fun r => { r with nextId := r.nextId + 1 }

/-- A queue that the bundle needs is full (R190). -/
def Cell.queueFull (c : Cell) (w : BitVec 128) : Bool :=
  [0, 1, 2].any fun slot =>
    let op := slotOpcode (slotOf w slot)
    op != 0 && decide (queueDepth ≤ (c.queueOf (slotUnit slot op)).length)

/-- The bundle's WAIT holds it: it is unsatisfied, or satisfied and not yet released (R205). A WAIT that another row has left
held holds the next bundle as well. -/
def State.waitHolds (s : State) (p : Nat) (m : CellCmd) (sync : Nat) : Option (Nat × Nat) :=
  let own := if slotOpcode sync = 2 then some (bitsOf sync 24 13, m.waitValue (bitsOf sync 12 0)) else none
  match (s.run p).heldWait with
  | some h =>
    if (s.run p).released then
      match own with
      | some o => if o = h ∨ reaches (s.tally o.1) o.2 then none else some o
      | none => none
    else some h
  | none => match own with
    | some o => if reaches (s.tally o.1) o.2 then none else some o
    | none => none

/-- The bundle dispatches whole (R190, R204 to R207); END, LOOP, SIGNAL and SIGNAL_DONE act, and a step ends (R546). -/
def State.dispatchBundle (s : State) (p : Nat) (half : Bool) (w : BitVec 128) : State :=
  let sync := slotOf w 3
  let op := slotOpcode sync
  let s := s.onRun p fun r => { r with hold := .none, heldWait := none, met := false, released := false, passedBp := false }
  let s := if op = 6 then s.syncTag p (bitsOf sync 24 9) (bitsOf sync 8 0) else s
  let s := ((s.sendSlot p half w 0).sendSlot p half w 1).sendSlot p half w 2
  let s := if op = 3 then s.signalTally (some p) (bitsOf sync 24 13) (bitsOf sync 12 0 + 1) else s
  let s := if op = 4 then s.syncSignalDone p (bitsOf sync 24 13) (bitsOf sync 12 0 + 1) else s
  let s := if op = 7 then s.syncEnd p
    else if op = 1 then
      s.onRun p fun r => ({ r with bundle := r.bundle + 1 } : SeqRun).loop (bitsOf sync 24 12 + 1) (bitsOf sync 11 0 + 1)
    else s.onRun p SeqRun.advance
  if (s.run p).stepping then s.haltFrom p .dbgStatusByStep else s

/-- One fetch of the cell sequencer (R186, R190, R544, R545). -/
def State.fetchBundle (s : State) (p : Nat) (m : CellCmd) : State :=
  let r := s.run p
  let w := (s.cell p).bundleAt m.half r.bundle
  let sync := slotOf w 3
  let hit := s.bpHit p (tagAfter r sync).1
  if !bundleOk w then
    let s := (s.seqFault p 1 0 0 r.bundle).endCmd p 5
    if hit then s.bpHalt p else s
  else if hit then s.bpHalt p
  else
    let full := (s.cell p).queueFull w
    match s.waitHolds p m sync with
    | some h => (s.onRun p (·.waitFor h)).holdBundle p .wait true full
    | none =>
      if slotOpcode sync = 5 ∧
          (s.cell p).fencePending (bitOf sync 24) (bitOf sync 23) (bitOf sync 22) (bitOf sync 21) then s.holdBundle p .fence true full
      else if full then s.holdBundle p .full false true
      else s.dispatchBundle p m.half w

/-- BUNDLE_DISPATCH (R190). -/
def execBundleDispatch (p : Fin 36) (s : State) : Host.Outcome State Fault Refusal :=
  .next (match (s.cell p).cmd with
    | some m => if s.dispatching p then s.fetchBundle p m else s
    | none => s)

/-- NOP: an empty slot does nothing (R189). -/
def execNop (_ : Fin 36) (s : State) : Host.Outcome State Fault Refusal := .next s

/-- LOOP (R193). -/
def execLoop (p : Fin 36) (countM1 : BitVec 13) (lengthM1 : BitVec 12) (s : State) : Host.Outcome State Fault Refusal :=
  .next (if s.dispatching p then s.onRun p fun r => r.loop (countM1.toNat + 1) (lengthM1.toNat + 1) else s)

/-- WAIT (R205). -/
def execWait (p : Fin 36) (tally : Fin 4096) (k : BitVec 13) (s : State) : Host.Outcome State Fault Refusal :=
  .next (if s.dispatching p then s.syncWait p tally k.toNat else s)

/-- WAIT_RELEASE (R205, R545): a held WAIT that a change of its tally has satisfied is released; a halted cell keeps it. -/
def execWaitRelease (p : Fin 36) (s : State) : Host.Outcome State Fault Refusal :=
  .next (match (s.run p).heldWait with
    | some h =>
      if s.dispatching p ∧ (s.run p).met ∧ !(s.run p).released then
        let r := s.run p
        let s := s.onRun p fun r => { r with released := true }
        let d := s.draw
        let e := d.2.draw
        e.2.traceCell p 5 r.tag r.layer r.bundle 3 0 (d.1.toNat % 2 ^ 32) h.1 (e.1.toNat % 2 ^ 32)
      else s
    | none => s)

/-- SIGNAL (R205). -/
def execSignal (p : Fin 36) (tally : Fin 4096) (incM1 : BitVec 13) (s : State) : Host.Outcome State Fault Refusal :=
  .next (if s.dispatching p then s.signalTally (some p) tally (incM1.toNat + 1) else s)

/-- SIGNAL_DONE (R205). -/
def execSignalDone (p : Fin 36) (tally : Fin 4096) (incM1 : BitVec 13) (s : State) : Host.Outcome State Fault Refusal :=
  .next (if s.dispatching p then s.syncSignalDone p tally (incM1.toNat + 1) else s)

/-- Every instruction numbered below `n` has completed (R205). -/
def Cell.doneBelow (c : Cell) (n : Nat) : Bool :=
  [CellUnit.array, .vector, .ag, .dma].all (fun u => (c.queueOf u).all fun q => decide (n ≤ q.id)) &&
    c.inflight.all fun f => decide (n ≤ f.id)

/-- SIGNAL_DONE_EFFECT (R205): signals of one cell take effect in dispatch order. -/
def execSignalDoneEffect (p : Fin 36) (s : State) : Host.Outcome State Fault Refusal :=
  .next (if s.gated then s else match (s.cell p).signals with
    | a :: t =>
      if (s.cell p).doneBelow a.before then (s.onCell p fun c => { c with signals := t }).signalTally (some p) a.tally a.inc else s
    | [] => s)

/-- FENCE (R206). -/
def execFence (p : Fin 36) (array vector ag dma : Bool) (s : State) : Host.Outcome State Fault Refusal :=
  .next (if s.dispatching p then s.syncFence p array vector ag dma else s)

/-- TAG (R207). -/
def execTag (p : Fin 36) (tag : BitVec 16) (layer : BitVec 9) (s : State) : Host.Outcome State Fault Refusal :=
  .next (if s.dispatching p then s.syncTag p tag.toNat layer.toNat else s)

/-- END (R206). -/
def execEndStream (p : Fin 36) (s : State) : Host.Outcome State Fault Refusal :=
  .next (if s.dispatching p then s.syncEnd p else s)

/-- A count that saturates in 16 bits (R556). -/
def sat16 (n : Nat) : Nat := Nat.min n 65535

/-- The write ports of a cell, where an instruction in flight meets others (R104, R105, R129): with a vector, an address-generator and a
DMA instruction in flight, a free number of cycles in which the DMA's request was refused; with any two writing units, a free number
of cycles in which two ports wrote one byte (log entry 8). -/
def State.portEvents (s : State) (p : Nat) : State :=
  let busy := fun u => (s.cell p).inflight.any (·.unit == u)
  let dma := (List.range 36).any fun c => (s.cell c).inflight.any (·.unit == .dma)
  let s := if busy .vector && busy .ag && dma then let d := s.draw; d.2.ccount .memCountWriteWaits (d.1.toNat % 65536) p else s
  if 2 ≤ ([busy .array, busy .vector, busy .ag, dma].filter id).length then
    let d := s.draw; d.2.ccount .memCountWriteOverlaps (d.1.toNat % 65536) p
  else s

/-- The cells whose write ports an ending instruction can have met others on: its own, and for a DMA any. -/
def Flight.portCells (f : Flight) (p : Nat) : List Nat := if f.unit = .dma then List.range 36 else [p]

/-- INSTRUCTION_COMPLETE (R205, R556): the instruction leaves the cell, with its trace record. -/
def execInstructionComplete (p : Fin 36) (id : Nat) (s : State) : Host.Outcome State Fault Refusal :=
  .next (if s.gated then s else match (s.cell p).inflight.find? fun f => f.id == id && f.left == 0 with
    | some f =>
      let s := (f.portCells p).foldl State.portEvents s
      let s := s.onCell p fun c => { c with inflight := dropFirst (fun f => f.id == id) c.inflight }
      let d := s.draw
      d.2.traceCell p 4 f.tag f.layer f.bundle f.unit.slot 0 (d.1.toNat % 2 ^ 32) (Nat.min f.sat (2 ^ 32 - 1))
        (sat16 f.inv * 2 ^ 16 + sat16 f.flu)
    | none => s)

/-! Halt, resume and step (R543 to R546). -/

/-- Every dispatched instruction has completed (R206, R543). -/
def Cell.drained (c : Cell) : Bool :=
  c.arrayQ.isEmpty && c.vectorQ.isEmpty && c.agQ.isEmpty && c.dmaQ.isEmpty && c.inflight.isEmpty && c.passes.isEmpty &&
    c.drains.isEmpty && c.dmas.isEmpty

/-- CELL_HALT (R544): every step stands at a bundle boundary, so the halt takes effect at once. -/
def execCellHalt (p : Fin 36) (s : State) : Host.Outcome State Fault Refusal := .next (s.hostWriteAt (RegId.addr .dbgCtrl (cellIx p)) fun s =>
    s.haltFrom p .dbgStatusByRequest)

/-- CELL_HALTED (R543, R544): after the ending of a command, the halt waits for its statistics and its status. -/
def execCellHalted (p : Fin 36) (s : State) : Host.Outcome State Fault Refusal :=
  .next (if (s.run p).halting ∧ !s.halted p ∧ (s.cell p).drained ∧
      ((s.run p).state ≠ .completing ∨ (s.cell p).done.isSome) then s.cellHaltAt p else s)

/-- The halt reasons clear (R546, R558), with the trace record of the resume (R556). -/
def State.clearHalt (s : State) (p : Nat) : State :=
  let c := s.cell p
  let reasons := getBits (s.reg .dbgStatus (cellIx p)) 30 27 * 2 ^ 27
  let bp := s.cflag .dbgStatusByBreakpoint p
  let s := s.setReg .dbgStatus 0 (cellIx p)
  let s := s.onRun p fun r => { r with halting := false, passedBp := bp && r.state == .running }
  s.traceCell p 7 c.run.tag c.run.layer c.run.bundle 3 0 1 reasons 0

/-- CLEAR_TAGS (R551). -/
def execClearTags (p : Fin 36) (s : State) : Host.Outcome State Fault Refusal := .next (s.hostWriteAt (RegId.addr .dbgCtrl (cellIx p)) fun s =>
    s.onCell p fun c => { c with tags := [] })

end Sys2Proof.Machine
end

