-- ==== Sys2Proof/Machine/CellEnd.lean ====
section
/-! DEFINITION. The end of a command on a cell: statistics records, their merge and the scale faults (R163 to R167, R171, R174, R184),
the report to the stream sequencer (R206, R224, R527, R546), and the resume and step of a halted cell. -/

namespace Sys2Proof.Machine

/-! Records (R164, R165). -/

/-- One maximum: an unsigned integer saturated at 2^48 − 1, or an A32 code with four zero bytes (R164). -/
def maxBytes (cls : OpClass) (v : Nat) : List Byte :=
  if cls = .integer then leBytes 8 (Nat.min v (2 ^ 48 - 1)) else leBytes 4 v ++ leBytes 4 0

/-- Bytes 0 to 30 of a record (R164). -/
def StatRec.body (r : StatRec) : List Byte :=
  maxBytes r.cls r.amaxRaw ++ maxBytes r.cls r.amaxOut ++ leBytes 4 r.elements ++ leBytes 4 r.clipped ++ leBytes 4 r.flushed ++
    leBytes 2 r.opTag ++ leBytes 1 r.flags

/-- The record in cell memory (R164) and in a sideband, which carries a CRC-8 (R231). -/
def StatRec.bytes (r : StatRec) : List Byte := r.body ++ [0]
def StatRec.sideband (r : StatRec) : List Byte := r.body ++ [BitVec.ofNat 8 (crc8 r.body)]

/-- The merge of two records, the first one of the lower cell or channel (R165). -/
def StatRec.merge (a b : StatRec) : StatRec :=
  let k := if a.elements = 0 then b else a
  { k with
    amaxRaw := Nat.max a.amaxRaw b.amaxRaw, amaxOut := Nat.max a.amaxOut b.amaxOut
    elements := satAdd 32 a.elements b.elements, clipped := satAdd 32 a.clipped b.clipped
    flushed := satAdd 32 a.flushed b.flushed, opTag := if k.elements = 0 then 0 else k.opTag, flags := a.flags ||| b.flags }

/-- The records of a slot by channel (R163, R164). -/
def StatSlot.list (sl : StatSlot) : List StatRec := (List.range sl.count).map (tabGet statReset sl.records)

/-- The slot with every record replaced. -/
def StatSlot.ofList (sl : StatSlot) (rs : List StatRec) : StatSlot :=
  { sl with count := rs.length
            records := ((List.range rs.length).zip rs).foldl (fun t x => tabSet statReset t x.1 x.2) [] }

/-- The merge of one slot across cells (R165). -/
def StatSlot.merge (a b : StatSlot) : StatSlot :=
  if !b.used then a else if !a.used then b else
  let n := Nat.max a.count b.count
  ({ a with count := n }).ofList ((List.range n).map fun c => (tabGet statReset a.records c).merge (tabGet statReset b.records c))

/-- The per-tensor record of a slot: its channel records merged (R165, R231). -/
def StatSlot.tensor (sl : StatSlot) : StatRec := sl.list.foldl StatRec.merge .empty

/-- The reports of a command's cells by rising logical cell, whatever the order in which they came (R165, R168). -/
def byLogical : List CellResult → List CellResult
  | [] => []
  | r :: t => insert r (byLogical t)
where
  insert (r : CellResult) : List CellResult → List CellResult
    | [] => [r]
    | x :: t => if r.logical ≤ x.logical then r :: x :: t else x :: insert r t

/-- The merged slots of a command, as each cell sees them: those of stats_mask merged over the cells, the others its own
(R165, R222). -/
def mergedSlot (mask : Nat) (rs : List CellResult) (own : List StatSlot) (k : Nat) : StatSlot :=
  if bitOf mask k then (byLogical rs).foldl (fun a r => a.merge (r.stats.getD k .empty)) .empty else own.getD k .empty

/-! Scale faults (R166, R167, R171). -/

/-- amax_out as a value. -/
def StatRec.outVal (r : StatRec) : FVal := if r.cls = .integer then .fin ⟨r.amaxOut, 0⟩ else Fmt.a32.spec.decode r.amaxOut

/-- T of a conversion: none for a block destination (R166). -/
def StatRec.target (r : StatRec) : Option Dy :=
  if r.fmt.isBlock then none else if r.fmt.isInt then some ⟨targetInt r.fmt r.uns r.off, 0⟩ else some (targetFlt r.fmt)

/-- The fault bits of a record: 1 overflow, 2 underuse, 4 clip share (R164, R166). -/
def StatRec.faults (r : StatRec) : Nat :=
  if r.amaxRaw = 0 then 0 else
  let tooBig := match r.target, r.outVal with
    | some t, .fin d => decide (r.kHi ≠ 0) && (Dy.mk t.m (t.e + r.kHi)).lt d
    | some _, _ => decide (r.kHi ≠ 0)
    | none, _ => false
  let under := match r.target, r.outVal with
    | some t, .fin d => decide (r.kLo ≠ 0) && (Dy.mk d.m (d.e + r.kLo)).lt t
    | _, _ => false
  let clip := decide (r.clipShare ≠ 0) && decide (r.clipShare * r.elements < r.clipped * 4096)
  b2n tooBig + 2 * b2n under + 4 * b2n clip

/-- A record that a fused-route conversion updated (R171). -/
def StatRec.fused (r : StatRec) : Bool := bitOf r.flags 3

/-- The faults that a record raises, none on the fused route or in a recovery command (R166, R171, R174). -/
def StatRec.raised (r : StatRec) (recovery : Bool) : Nat := if r.fused || recovery then 0 else r.faults

/-- A slot with the fault flags of its records set (R167). -/
def StatSlot.flagged (sl : StatSlot) (recovery : Bool) : StatSlot :=
  sl.ofList (sl.list.map fun r => { r with flags := r.flags ||| r.raised recovery })

/-- The first faulting record of the slots, with slot and channel (R167, R184). -/
def firstFault (recovery : Bool) (slots : List StatSlot) : Option (StatRec × Nat × Nat) :=
  ((List.range slots.length).zip slots).findSome? fun x =>
    if x.2.used then
      ((List.range x.2.count).zip x.2.list).findSome? fun y => if y.2.raised recovery = 0 then none else some (y.2, x.1, y.1)
    else none

/-- The registers of a cell after the evaluation of its command (R167, R171, R182 to R184). -/
def State.scaleVerdict (s : State) (p : Nat) (recovery : Bool) (slots : List StatSlot) : State :=
  let rs := (slots.filter (·.used)).flatMap (·.list)
  let bits := rs.foldl (fun a r => a ||| r.raised recovery) 0
  let s := if rs.any fun r => r.fused && bitOf r.faults 2 then s.craise .scaleFlagsFusedClip p else s
  match firstFault recovery slots with
  | none => s
  | some (r, slot, ch) =>
    let fresh := s.cfld .scaleFlagsOverflowFault p + s.cfld .scaleFlagsUnderuseFault p + s.cfld .scaleFlagsClipShareFault p = 0
    let s := if fresh then ((s.csetFld .scaleLastOpTag r.opTag p).csetFld .scaleLastSlot slot p).csetFld .scaleLastChannel ch p
      else s
    let s := if bitOf bits 0 then s.craise .scaleFlagsOverflowFault p else s
    let s := if bitOf bits 1 then s.craise .scaleFlagsUnderuseFault p else s
    let s := if bitOf bits 2 then s.craise .scaleFlagsClipShareFault p else s
    s.ccount .scaleCountScaleFaults 1 p

/-- Records written to the statistics address of their slot; a record outside cell memory is not written (log entry 19). -/
def Cell.writeRecords (c : Cell) (addrs : List Nat) (slots : List StatSlot) : Cell :=
  ((List.range slots.length).zip slots).foldl (fun c x =>
    if x.2.used then
      ((List.range x.2.count).zip x.2.list).foldl (fun c y =>
        let a := addrs.getD x.1 0 + 32 * y.1
        if inCell a 32 then c.write a y.2.bytes else c) c
    else c) c

/-! The report (R206, R224). -/

def State.onStaged (s : State) (q ix : Nat) (f : Staged → Staged) : State :=
  s.onQueue q fun v => { v with staged := updFirst (fun e => e.index == ix) f v.staged }

def State.stagedAt (s : State) (q ix : Nat) : Option Staged := (s.queue q).staged.find? fun e => e.index == ix

/-- The command has completed on every cell it was loaded into. -/
def Staged.allDone (e : Staged) : Bool := e.loads.all fun l => e.results.any fun r => r.phys == l.1

/-- The end of a command over its cells (R165 to R167): merge, evaluation on every cell, the records written back, and the
highest status (R224). -/
def State.concludeCells (s : State) (q ix : Nat) (m : CellCmd) : State :=
  match s.stagedAt q ix with
  | none => s
  | some e =>
    if !e.allDone then s else
    let rs := e.results.map fun r => { r with stats := (List.range 16).map (mergedSlot m.statsMask e.results r.stats) }
    let s := rs.foldl (fun s r =>
      let s := s.scaleVerdict r.phys m.recovery r.stats
      s.onCell r.phys fun c => c.writeRecords m.statsAddr (r.stats.map (·.flagged m.recovery))) s
    let fault := rs.any fun r => (firstFault m.recovery r.stats).isSome
    let st := rs.foldl (fun a r => Nat.max a r.status) (b2n fault)
    s.onStaged q ix fun e => { e with status := st, results := rs.map fun r => { r with stats := r.stats.map (·.flagged m.recovery) } }

/-- A retirement mark on an active cell (R527, R541). -/
def State.markCell (s : State) (p : Nat) : State :=
  if s.cfld .slbCellState p = slbActive then s.csetFld .slbCellState slbMarked p else s

/-- CEL_CHK_STATUS of a cell records a mismatch (R99, R527). -/
def State.mismatch (s : State) (p : Nat) : Bool := s.cflag .chkStatusRowMismatch p || s.cflag .chkStatusColMismatch p

/-- A command that ended with status 0x04 on a cell with a recorded mismatch is counted, and may mark the cell (R527). -/
def State.countChkFault (s : State) (p status : Nat) : State :=
  if status = 4 ∧ s.mismatch p then
    let s := s.ccount .slbCellChkFaults 1 p
    let th := s.fld .slbRetireCfgThreshold [p / 9]
    if th ≠ 0 ∧ th ≤ s.cfld .slbCellChkFaults p then s.markCell p else s
  else s

/-- The cell reports its command and is free (R206, R214, R546). -/
def State.reportCell (s : State) (p : Nat) : State :=
  match (s.cell p).cmd, (s.cell p).done with
  | some m, some st =>
    let r : CellResult := ⟨p, s.logical p, st, (s.cell p).stats⟩
    let s := s.onCell p fun c =>
      ({ c with cmd := none, ended := none, done := none } : Cell).onRun fun r => { r with state := .idle, hold := .none }
    let s := s.countChkFault p st
    let s := s.onStaged m.queue m.index fun e => { e with results := e.results ++ [r] }
    s.concludeCells m.queue m.index m
  | _, _ => s

/-- CELL_COMMAND_COMPLETE (R164, R206): the records are written and the status stands; a halted cell reports on its resume. -/
def execCellCommandComplete (p : Fin 36) (s : State) : Host.Outcome State Fault Refusal :=
  .next (match s.clockedCmd p with
    | some m =>
      let c := s.cell p
      if c.run.state = .completing ∧ c.drained ∧ c.signals.isEmpty ∧ c.done.isNone then
        let st := c.ended.getD 0
        let s := s.onCell p fun c => { c.writeRecords m.statsAddr c.stats with done := some st }
        let s := s.traceCell p 2 c.run.tag c.run.layer c.run.bundle 3 st (s.cfld .cmdInvalidCount p) (s.cfld .cmdSaturatedCount p)
          (s.cfld .cmdFlushedCount p)
        if c.run.halting then s else s.reportCell p
      else s
    | none => s)

/-- CELL_RESUME (R546): an ended command is reported, else dispatch goes on at the recorded bundle. -/
def execCellResume (p : Fin 36) (s : State) : Host.Outcome State Fault Refusal :=
  .next (s.hostWriteAt (RegId.addr .dbgCtrl (cellIx p)) fun s =>
    if (s.run p).halting || s.halted p then (s.clearHalt p).reportCell p else s)

/-- CELL_STEP (R546): acts on a halted cell. -/
def execCellStep (p : Fin 36) (s : State) : Host.Outcome State Fault Refusal :=
  .next (s.hostWriteAt (RegId.addr .dbgCtrl (cellIx p)) fun s =>
    if s.halted p then
      let s := (s.clearHalt p).onRun p fun r => { r with stepping := true }
      s.reportCell p
    else s)

end Sys2Proof.Machine
end

