-- ==== Sys2Proof/Machine/LoadCheck.lean ====
section
/-! DEFINITION. The checks of a command's stream and records when they are loaded (R187, R193 to R195, R204, R210). -/

namespace Sys2Proof.Machine

/-- A failed load check as CEL_SEQ_FAULT records it (R210). -/
structure LoadFault where
  cause : Nat
  slot : Nat
  record : Nat
  bundle : Nat
  deriving DecidableEq, Repr

/-- The bundles of a stream with their indices. -/
abbrev Stream := List (Nat × BitVec 128)

/-- The first failure that a per-slot test finds, bundles ascending and slots in the order array, vector, address, sync (R187). -/
def firstSlot (bs : Stream) (slots : List Nat) (bad : Nat → Nat → Nat → Bool) (cause : Nat) (record : Nat → Nat) : Option LoadFault :=
  bs.findSome? fun b => slots.findSome? fun sl =>
    let w := slotOf b.2 sl
    if bad b.1 sl w then some ⟨cause, sl, record w, b.1⟩ else none

/-- A reserved opcode (R195, R198, R200, R204). -/
def opReserved (slot op : Nat) : Bool :=
  match slot with
  | 0 => decide (1 < op)
  | 1 => decide (0x1A < op)
  | 2 => decide (9 < op) && decide (op ≠ 0x10)
  | _ => decide (7 < op)

/-- A reserved bit set, a reserved code other than a loop select, or an empty FENCE (R187, R189, R195, R204). -/
def slotReserved (slot w : Nat) : Bool :=
  let op := slotOpcode w
  if op = 0 then decide (w ≠ 0) else
  match slot with
  | 0 => bitsOf w 6 0 != 0 || bitsOf w 10 9 == 3 || bitsOf w 8 7 == 3
  | 1 => bitsOf w 10 0 != 0
  | 2 => bitsOf w 4 0 != 0
  | _ => if op = 5 then bitsOf w 20 0 != 0 || bitsOf w 24 21 == 0 else if op = 7 then bitsOf w 24 0 != 0 else false

/-- The record units that a slot's instruction spans: two for an MMA (R195). -/
def slotUnits (slot : Nat) : Nat := if slot = 0 then 2 else 1

/-- Cause 0x1 (R186). -/
def checkBytes (bs : Stream) : Option LoadFault :=
  (bs.find? fun b => !bundleOk b.2).map fun b => ⟨1, 0, 0, b.1⟩

/-- A record unit passes its CRC (R187). -/
def unitOk (u : BitVec 512) : Bool := crc16 (leBytes 62 u.toNat) == bitsOf u.toNat 511 496

/-- The slot and bundle of the lowest bundle that names unit u; only an MMA names the unit after its own as well (R210). -/
def namer (bs : Stream) (u : Nat) : Option (Nat × Nat) :=
  bs.findSome? fun b => [0, 1, 2].findSome? fun sl =>
    let w := slotOf b.2 sl
    if slotOpcode w ≠ 0 ∧ (slotRecord w = u ∨ (sl = 0 ∧ slotOpcode w = 1 ∧ slotRecord w + 1 = u)) then some (sl, b.1) else none

/-- Of two failing units the one whose naming bundle is lower, unnamed ones last, then the lower unit (R187). -/
def lowerUnit (a b : LoadFault × Bool) : LoadFault × Bool :=
  if a.2 ∧ (!b.2 ∨ a.1.bundle ≤ b.1.bundle) then a else if b.2 then b else a

/-- Cause 0x2. -/
def checkUnits (bs : Stream) (us : List (Nat × BitVec 512)) : Option LoadFault :=
  let bad := (us.filter fun u => !unitOk u.2).map fun u =>
    match namer bs u.1 with
    | some (sl, b) => ((⟨2, sl, u.1, b⟩ : LoadFault), true)
    | none => (⟨2, 0, u.1, 0⟩, false)
  match bad with
  | [] => none
  | x :: t => some (t.foldl lowerUnit x).1

/-- Causes 0x3 and 0x4. -/
def checkOpcodes (bs : Stream) : Option LoadFault := firstSlot bs [0, 1, 2, 3] (fun _ sl w => opReserved sl (slotOpcode w)) 3 fun _ => 0
def checkReserved (bs : Stream) : Option LoadFault :=
  firstSlot bs [0, 1, 2, 3] (fun _ sl w => !opReserved sl (slotOpcode w) && slotReserved sl w) 4 fun _ => 0

/-- The index of the stream's END, or the number of bundles (R187, R193). -/
def endOf (bs : Stream) : Nat := match bs.find? fun b => slotOpcode (slotOf b.2 3) == 7 with | some b => b.1 | none => bs.length

/-- The loops enclosing a bundle, innermost first, as their last bundles, after those that ended before it. -/
def enclosing (b : Nat) (open_ : List Nat) : List Nat := open_.dropWhile fun last => decide (last < b)

/-- The loops of a stream: the bundle of each LOOP and the last bundle of its body (R193). -/
def loopsOf (bs : Stream) : List (Nat × Nat) :=
  bs.filterMap fun b => let sync := slotOf b.2 3; if slotOpcode sync = 1 then some (b.1, b.1 + bitsOf sync 11 0 + 1) else none

/-- A loop is ill formed (R193): its body reaches END, a loop in its body does not lie wholly inside it, or a bundle of its body lies
inside more than four loops. The bundle inside most loops is the first of a body. -/
def illFormed (limit : Nat) (ls : List (Nat × Nat)) (l : Nat × Nat) : Bool :=
  decide (limit ≤ l.2) || ls.any fun k =>
    (decide (l.1 < k.1) && decide (k.1 ≤ l.2) && decide (l.2 < k.2)) ||
      (decide (l.1 ≤ k.1) && decide (k.1 < l.2) && decide (4 < (ls.filter fun x => decide (x.1 ≤ k.1) && decide (k.1 < x.2)).length))

/-- Cause 0x5: the ill-formed loop of the lowest bundle index (R187, R193). -/
def checkLoops (limit : Nat) (bs : Stream) : Option LoadFault :=
  ((loopsOf bs).find? (illFormed limit (loopsOf bs))).map fun l => ⟨5, 3, 0, l.1⟩

/-- A loop select that names no enclosing loop, or a loop-dependent code without one (R187, R195). -/
def selectBad (depth slot w : Nat) : Bool :=
  let sel := slotLoop w
  slotOpcode w != 0 && (decide (4 < sel) || decide (depth < sel) ||
    (slot == 0 && sel == 0 && (bitsOf w 10 9 == 2 || bitsOf w 8 7 == 2)))

/-- Cause 0x6. -/
def checkSelects : Stream → List Nat → Option LoadFault
  | [], _ => none
  | (i, w) :: t, open_ =>
    let o := enclosing i open_
    match [0, 1, 2].find? fun sl => selectBad o.length sl (slotOf w sl) with
    | some sl => some ⟨6, sl, 0, i⟩
    | none =>
      let sync := slotOf w 3
      checkSelects t (if slotOpcode sync = 1 then (i + bitsOf sync 11 0 + 1) :: o else o)

/-- Cause 0x7. -/
def checkRecords (bs : Stream) (units : Nat) : Option LoadFault :=
  firstSlot bs [0, 1, 2] (fun _ sl w => slotOpcode w != 0 &&
    (decide (units < slotRecord w + slotUnits sl) || (sl == 0 && slotRecord w % 2 == 1))) 7 slotRecord

/-- Cause 0x8. -/
def checkEnd (bs : Stream) : Option LoadFault := if endOf bs = bs.length then some ⟨8, 0, 0, bs.length - 1⟩ else none

/-- The first failing load check, the one of the lowest cause (R187). -/
def loadCheck (bundles : List (BitVec 128)) (units : List (BitVec 512)) : Option LoadFault :=
  let bs : Stream := (List.range bundles.length).zip bundles
  let us := (List.range units.length).zip units
  [fun _ => checkBytes bs, fun _ => checkUnits bs us, fun _ => checkOpcodes bs, fun _ => checkReserved bs,
   fun _ => checkLoops (endOf bs) bs, fun _ => checkSelects bs [], fun _ => checkRecords bs units.length,
   fun (_ : Unit) => checkEnd bs].findSome? fun f => f ()

end Sys2Proof.Machine
end

