-- ==== Sys2Proof/Machine/Egress.lean ====
section
/-! DEFINITION. Output to host memory: egress records, spill pages, host pages and records, the held state, and the host link's loss
and return (R464, R470 to R472, R489). -/

namespace Sys2Proof.Machine

def State.egr (s : State) (c : Nat) : EgressSt := tabGet egressReset s.egress c
def State.setEgr (s : State) (c : Nat) (v : EgressSt) : State := { s with egress := tabSet egressReset s.egress c v }

/-- The size of a page, and the number of spill pages (R489). -/
def State.pageSize (s : State) (c : Nat) : Nat := 2 ^ (12 + s.fld .outCfgPageLog2M12 [c])
def State.spillPages (s : State) (c : Nat) : Nat := s.fld .outCfgSpillPagesM1 [c] + 1

/-- The address of spill page i of a context. -/
def State.spillAt (s : State) (c i : Nat) : Nat := s.fld .outSpillBase [c] * 4096 + i * s.pageSize c

/-- The free spill pages (R472, R489). -/
def State.freeSpill (s : State) (c : Nat) : Nat := s.spillPages c - (s.egr c).pages.length

def State.showSpill (s : State) (c : Nat) : State := s.setFld .outStatusFreePages (s.freeSpill c) [c]

/-- The egress starts when its enable is set (R470). -/
def State.startEgress (s : State) (c : Nat) : State := (s.setEgr c EgressSt.empty).showSpill c

/-- The lowest spill page not in use. -/
def EgressSt.freeSlot (v : EgressSt) (n : Nat) : Option Nat := (List.range n).find? fun i => !v.pages.any fun p => p.slot == i

/-- The egress record at a ring index (R470, R489). -/
def State.egressRecord (s : State) (c i : Nat) : BitVec 128 :=
  BitVec.ofNat 128 (s.devNat (s.fld .outEgressBase [c] * 64 + 16 * (i % 2 ^ (s.fld .outEgressLog2M4 [c] + 4))) 16)

/-- The next record is taken, or discarded whole where its frame is held (R470, R472): a frame's records end with the one that carries
end_of_frame, and where none is admitted the context's own state tells (log entry 76). -/
def State.takeRecord (s : State) (c : Nat) : State :=
  let v := s.egr c
  let r := (s.egressRecord c v.index).toNat
  let last := bitOf r 96
  let held := v.frames.headD (s.flag .outStatusHeld [c])
  let v := { v with due := v.due - 1, index := v.index + 1, frames := if last then v.frames.tail else v.frames }
  if held then (s.setEgr c v).count .outStatusHeldFrames (b2n last) [c]
  else s.setEgr c { v with cur := some ⟨bitsOf r 47 0, bitsOf r 95 64, s.fld .sttPositionFrame, last⟩ }

/-- One page of the record under copy goes to a free spill page (R470). -/
def State.spillPage (s : State) (c : Nat) (r : OutRec) : State :=
  let v := s.egr c
  match v.freeSlot (s.spillPages c) with
  | none => s
  | some i =>
    let n := Nat.min r.left (s.pageSize c)
    let done := r.left ≤ s.pageSize c
    let s1 := s.devWrite (s.spillAt c i) (s.devRead r.addr n)
    (s1.setEgr c { v with
      cur := if done then none else some { r with addr := r.addr + n, left := r.left - n }
      pages := v.pages ++ [⟨i, n, r.frame, done && r.last⟩] }).showSpill c

/-- The send stream of house RTP, if any, takes the records of a context in place of the host link (R480). -/
def houseOf (c : Nat) : Bool := (List.range 64).any fun n => Config.houseSend n == some c

/-- The host link copies pages and takes records while it can, at most `n` times (R470). -/
def State.egressPump (s : State) (c : Nat) : Nat → State
  | 0 => s
  | n + 1 =>
    match (s.egr c).cur with
    | some r => if ((s.egr c).freeSlot (s.spillPages c)).isSome && !houseOf c then (s.spillPage c r).egressPump c n else s
    | none => if decide (0 < (s.egr c).due) && !houseOf c then (s.takeRecord c).egressPump c n else s

/-- Every record due and every free page. -/
def State.egressRun (s : State) (c : Nat) : State := s.egressPump c ((s.egr c).due + s.spillPages c)

/-- The contexts whose egress a tally drives (R470, R489). -/
def State.egressOf (s : State) (t : Nat) : List Nat :=
  (List.range 64).filter fun c => s.flag .outCfgEnable [c] && s.fld .outEgressTally [c] == t

/-- A tally has advanced by `n`: the host link takes as many records (R470). -/
def State.egressAdvance (s : State) (t n : Nat) : State :=
  if n = 0 then s else
  (s.egressOf t).foldl (fun s c => (s.setEgr c { s.egr c with due := (s.egr c).due + n }).egressRun c) s

/-- The host link compares the free pages at an admission position (R464, R472). -/
def State.egressAdmit (s : State) (c : Nat) : State :=
  if !s.flag .outCfgEnable [c] then s else
  if s.freeSpill c < s.fld .outCfgFramePages [c] then
    if s.flag .outStatusHeld [c] then s else (s.raise .outStatusHeld [c]).fire c
  else if s.flag .outStatusHeld [c] then (s.setFld .outStatusHeld 0 [c]).setEgr c { s.egr c with gap := true }
  else s

/-- A frame of the context is admitted: a held frame's output is discarded (R472). -/
def State.egressFrame (s : State) (c : Nat) : State :=
  if !s.flag .outCfgEnable [c] then s else
  let v := s.egr c
  let held := s.flag .outStatusHeld [c]
  s.setEgr c { v with frames := v.frames ++ [held], discarded := v.discarded + b2n held }

/-- The host has a free page for the context (R470). -/
def State.hostPageFree (s : State) (c : Nat) : Bool :=
  decide (0 < (s.fld .outTailTail [c] + 2 ^ 32 - (s.egr c).nextPage % 2 ^ 32) % 2 ^ 32)

/-- Bytes of host memory. -/
def State.hostRead (s : State) (a n : Nat) : List Byte := tabRead s.host n a
def State.hostWrite (s : State) (a : Nat) (bs : List Byte) : State := { s with host := tabWrite s.host a bs }

/-- The host record of a page (R470). -/
def hostRecord (c : Nat) (p : OutPage) (gap : Bool) (discarded : Nat) : List Byte :=
  let body := leBytes 4 p.frame ++ leBytes 4 p.len ++ leBytes 1 (b2n p.last + 2 * b2n gap) ++ leBytes 1 c ++ leBytes 2 discarded
  body ++ leBytes 4 (crc32c body)

/-- The oldest spill page goes whole to the next host page, and its record after it (R470 to R472). -/
def State.writePage (s : State) (c : Nat) (p : OutPage) : State :=
  let v := s.egr c
  let i := v.nextPage % 2 ^ s.fld .outCfgLog2Size [c]
  let page := leNat (s.hostRead (s.fld .outRingBase [c] * 4096 + 8 * i) 8)
  let discarded := if v.gap then v.discarded else 0
  let s1 := s.hostWrite page (s.devRead (s.spillAt c p.slot) p.len)
  let s1 := s1.hostWrite (s.fld .outRecBase [c] * 4096 + 16 * i) (hostRecord c p v.gap discarded)
  let s1 := s1.setEgr c { v with
    pages := v.pages.tail, nextPage := v.nextPage + 1, cut := false, gap := false
    discarded := if v.gap then 0 else v.discarded }
  (s1.setFld .outStatusStalled 0 [c]).showSpill c

/-- HOST_PAGE_WRITE (R470, R471): records that waited for room are copied. With no host page, with the link down, or while the host withholds `credits`, the page waits in spill. -/
def execHostPageWrite (c : Fin 64) (credits : Bool) (s : State) : Host.Outcome State Fault Refusal :=
  .next (match (s.egr c).pages with
    | [] => s.egressRun c
    | p :: _ => if s.linkUp && credits && s.hostPageFree c then (s.writePage c p).egressRun c else s.raise .outStatusStalled [c])

/-- The contexts with a page that can be on its way to the host. -/
def State.pagesUnderWay (s : State) : List Nat :=
  (List.range 64).filter fun c => !(s.egr c).pages.isEmpty && s.hostPageFree c

/-- LINK_DOWN (R471): the pages on their way are interrupted. -/
def execLinkDown (s : State) : Host.Outcome State Fault Refusal :=
  .next (if s.linkUp then
      let s := s.pagesUnderWay.foldl (fun s c => (s.setEgr c { s.egr c with cut := true }).raise .outStatusStalled [c]) s
      { s with linkUp := false }
    else s)

/-- HOST_LINK_RETURN (R471): every interrupted page is written again whole, into the same host page. -/
def execHostLinkReturn (s : State) : Host.Outcome State Fault Refusal :=
  .next (if s.linkUp then s else
    (List.range 64).foldl (fun s c => match (s.egr c).pages with
      | p :: _ => if (s.egr c).cut then (s.writePage c p).egressRun c else s
      | [] => s) { s with linkUp := true })

end Sys2Proof.Machine
end

