-- ==== Sys2Proof/Machine/Record.lean ====
section
/-! DEFINITION. Record and replay: log records, their buffer, and the comparison of completions (R414 to R418). -/

namespace Sys2Proof.Machine

/-- STT_RR_STATUS.state reads recording or replaying (R428). -/
def State.recording (s : State) : Bool := s.fld .rrStatusState == 1
def State.replaying (s : State) : Bool := s.fld .rrStatusState == 2

/-- Cycles from the start boundary (R415, R417). -/
def State.rrCycle (s : State) : Nat := s.hclk - s.rr.start

/-- A log record (R415). -/
def State.rrRecord (s : State) (type arg0 arg1 arg2 arg3 : Nat) : BitVec 512 :=
  let body := leBytes 4 (arg0 * 65536 + type) ++ leBytes 4 arg1 ++ leBytes 8 s.rrCycle ++ leBytes 8 arg2 ++ leBytes 8 arg3 ++
    leBytes 8 (s.reg .pwrUptime).toNat ++ leBytes 4 (s.reg .pwrBoot).toNat ++ leBytes 4 (s.fld .sttPositionFrame) ++
    leBytes 2 (s.fld .sttPositionSubline) ++ leBytes 2 (s.fld .sttPositionLine) ++ leBytes 8 0
  BitVec.ofNat 512 (leNat (body ++ leBytes 4 (crc32c body)))

/-- The on-chip buffer of log records (R414). -/
def rrDepth : Nat := 512

/-- A record enters the buffer, after a lost record where events were lost; a full buffer loses it (R414). -/
def State.rrPush (s : State) (rec : BitVec 512) : State :=
  let buf := if 0 < s.rr.lost ∧ s.rr.buffer.length < rrDepth
    then s.rr.buffer ++ [s.rrRecord 0x0E 0 s.rr.lost 0 0] else s.rr.buffer
  let lost := if buf.length = s.rr.buffer.length then s.rr.lost else 0
  if buf.length < rrDepth then { s with rr := { s.rr with buffer := buf ++ [rec], lost := lost } }
  else { s with rr := { s.rr with buffer := buf, lost := lost + 1 } }.raise .rrStatusOverflow

/-- An event is recorded while the module records (R414, R416). -/
def State.rrLog (s : State) (type arg0 arg1 arg2 arg3 : Nat) : State :=
  if s.recording then s.rrPush (s.rrRecord type arg0 arg1 arg2 arg3) else s

/-- The address of log record i in the ring (R414, R427). A base outside tier 2 is followed wherever it points: R427 puts no bound on the
field, and R20's list of writers does not name the log (DESIGN CHOICE, log entry 47). -/
def State.rrAddr (s : State) (i : Nat) : Nat := s.fld .rrBaseBase * 64 + 64 * (i % 2 ^ s.fld .rrCtrlLog2Size)

/-- One record moves from the buffer to the log (R414). -/
def State.rrMove (s : State) : State :=
  match s.rr.buffer with
  | [] => s
  | r :: t =>
    let s1 := s.devWrite (s.rrAddr s.rr.next) (leBytes 64 r.toNat)
    { s1 with rr := { s1.rr with buffer := t, next := s1.rr.next + 1 } }.count .rrStatusRecords 1

/-- A field of log record i: `n` bytes at offset `off`. -/
def State.rrField (s : State) (i off n : Nat) : Nat := s.devNat (s.rrAddr i + off) n

/-- Replay found a difference at log record i (R418). -/
def State.diverge (s : State) (i : Nat) : State :=
  if s.flag .rrStatusDiverged then s else
  let s := (s.raise .rrStatusDiverged).setFld .rrStatusDivergeIndex i
  if s.flag .rrCtrlHaltOnDiverge then (List.range 8).foldl (State.seqHaltAt · .dseqStatusByDiverge) s else s

/-- The end record that a replay has come to, among `n` records from i on (R417): no input stands before it, and its cycle is here. -/
def State.rrEndFrom (s : State) : Nat → Nat → Option Nat
  | 0, _ => none
  | n + 1, i =>
    if s.rrField i 0 1 = 0x0F then (if s.rrField i 8 8 ≤ s.rrCycle then some i else none)
    else if s.rrField i 0 1 = 8 ∨ s.rrField i 0 1 = 0x0E then s.rrEndFrom n (i + 1) else none

def State.rrEnd (s : State) : Option Nat := s.rrEndFrom (2 ^ s.fld .rrCtrlLog2Size) s.rr.next

/-- The first log record from i on, among `n`, that is the completion of a source and ring index (R418). -/
def State.rrFind (s : State) (src ix : Nat) : Nat → Nat → Option Nat
  | 0, _ => none
  | n + 1, i =>
    if s.rrField i 0 1 = 8 ∧ s.rrField i 2 2 = src ∧ s.rrField i 4 4 = ix ∧ !s.rr.matched.contains i then some i
    else if s.rrField i 0 1 = 0x0F then none else s.rrFind src ix n (i + 1)

/-- A completion of a queue or hub-engine ring (R414, R418): recorded, or until the log's end compared with its logged record, which is thereby
consumed (R428). `src` is the source code with the queue or ring index. -/
def State.rrCompletion (s : State) (src ix arg2 arg3 : Nat) : State :=
  if s.recording then s.rrLog 8 src ix arg2 arg3
  else if s.replaying && s.rrEnd.isNone then
    match s.rrFind src ix (2 ^ s.fld .rrCtrlLog2Size) 0 with
    | none => s.diverge s.rr.next
    | some i =>
      let same := s.rrField i 8 8 = s.rrCycle ∧ s.rrField i 0x10 8 = arg2 ∧ s.rrField i 0x18 8 = arg3
      let s := ({ s with rr := { s.rr with matched := s.rr.matched ++ [i] } } : State).count .rrStatusRecords 1
      if same then s else s.diverge i
  else s

end Sys2Proof.Machine
end

