-- ==== Sys2Proof/Machine/Tally.lean ====
section
/-! DEFINITION. Tallies: updates, thresholds, interrupts and egress (R235, R236, R246, R399, R464, R470). -/

namespace Sys2Proof.Machine

/-- A change that may start the interrupt condition of a tally (R236): where it holds now and did not before, reached is set and
the tally's vector fires. -/
def State.tallyChange (s : State) (t : Nat) (f : State → State) : State :=
  let before := s.tallyCond t
  let s := f s
  if s.tallyCond t && !before then (s.raise .talStatusReached [t]).fire (64 + t % 64) else s

/-- How far a tally advances from `a` to `b`: the signed difference where it is positive (R470). -/
def advance (a b : Nat) : Nat := if reaches b a then (b + 2 ^ 32 - a % 2 ^ 32) % 2 ^ 32 else 0

/-- Every held WAIT for the tally that its new value satisfies is released by this change, whatever the tally does afterwards (R205,
R235); WAIT_RELEASE lets its bundle go. -/
def State.meetWaits (s : State) (t : Nat) : State :=
  (List.range 36).foldl (fun s p => match (s.cell p).run.heldWait with
    | some h => if h.1 = t ∧ reaches (s.tally t) h.2 ∧ !(s.cell p).run.met
        then s.onCell p fun c => { c with run := { c.run with met := true } } else s
    | none => s) s

/-- The tally takes a value, modulo 2^32; the WAITs it satisfies are met, and an egress that it drives takes its records (R205, R235, R236,
R470). -/
def State.setTally (s : State) (t v : Nat) : State :=
  ((s.tallyChange t fun s => s.setFld .talValueValue (v % 2 ^ 32) [t]).meetWaits t).egressAdvance t (advance (s.tally t) (v % 2 ^ 32))

/-- An update that takes effect at once (R235). -/
def State.addTally (s : State) (t inc : Nat) : State := s.setTally t (s.tally t + inc)

/-- The increments of the first `n` pending updates of a tally, and what is left pending. A signal waits behind an earlier signal of
its cell that is left pending, whatever its tally (R205); `ahead` lists the cells of those. -/
def takePending (t : Nat) : Nat → List Nat → List TallyPend → Nat × List TallyPend
  | _, _, [] => (0, [])
  | n, ahead, x :: l =>
    let blocked := match x.src with | some p => ahead.contains p | none => false
    if x.tally = t ∧ 0 < n ∧ !blocked then let r := takePending t (n - 1) ahead l; (x.inc + r.1, r.2)
    else let r := takePending t n (match x.src with | some p => p :: ahead | none => ahead) l; (r.1, x :: r.2)

/-- The updates of tally t that fall in one HCLK cycle besides a host write: `count` pending ones, and the Shodo arrivals, which a
replay takes from its log (R235, R417). Their sum, and the state without them. -/
def State.cycleUpdates (s : State) (t count : Nat) (arrivals : List (BitVec 32)) : Nat × State :=
  let arr := if s.replaying then [] else arrivals
  let r := takePending t count [] s.tallyPend
  let s := { s with tallyPend := r.2 }
  (r.1 + (arr.map (·.toNat)).sum, arr.foldl (fun s a => s.rrLog 4 t 0 a.toNat 0) s)

/-- TALLY_UPDATE (R235): all updates of one HCLK cycle change the tally once, by their sum. -/
def execTallyUpdate (t : Fin 4096) (count : Nat) (arrivals : List (BitVec 32)) (s : State) : Host.Outcome State Fault Refusal :=
  .next (let u := s.cycleUpdates t count arrivals; u.2.addTally t u.1)

/-- A host write of a tally register with the updates of its cycle (R14, R235, R417, R471, R474). A write that does not reach the tally, or
that a replay does not take, leaves the updates of its cycle as they are. -/
def State.hostTallyWrite (s : State) (r : RegId) (t : Nat) (w : TallyWrite) (f : Nat → State → State) : State :=
  let u := (s.hostWriteAt (r.addr [t]) id).cycleUpdates t w.count w.arrivals
  if s.hostUp && s.ready && !s.replaying then f u.1 u.2 else if u.1 = 0 then u.2 else u.2.addTally t u.1

/-- TAL_VALUE_WRITE (R235, R417): the tally becomes the written value plus the other updates of the cycle. -/
def execTalValueWrite (t : Fin 4096) (w : TallyWrite) (s : State) : Host.Outcome State Fault Refusal :=
  .next (s.hostTallyWrite .talValue t w fun upd s => (s.rrLog 4 t 2 w.val.toNat 0).setTally t (w.val.toNat + upd))

/-- TAL_ADD_WRITE (R235, R417): the written value is one more update of its cycle. -/
def execTalAddWrite (t : Fin 4096) (w : TallyWrite) (s : State) : Host.Outcome State Fault Refusal :=
  .next (s.hostTallyWrite .talAdd t w fun upd s => (s.rrLog 4 t 1 w.val.toNat 0).addTally t (w.val.toNat + upd))

end Sys2Proof.Machine
end

