-- ==== Sys2Proof/Machine/Queue.lean ====
section
/-! DEFINITION. Queues: doorbells, entry fetch, configuration, flush and resume (R216 to R221, R238 to R244). -/

namespace Sys2Proof.Machine

def State.qEnabled (s : State) (q : Nat) : Bool := s.flag .queCfgEnable [q]
def State.qHalted (s : State) (q : Nat) : Bool := s.flag .queStatusHalted [q]
def State.qSeq (s : State) (q : Nat) : Nat := s.fld .queCfgSequencer [q]
def State.qCtx (s : State) (q : Nat) : Nat := s.fld .queCfgContext [q]

/-- The staged entries of a queue, shown as the outstanding count (R217, R242). -/
def State.setStaged (s : State) (q : Nat) (es : List Staged) : State :=
  (s.onQueue q fun v => { v with staged := es }).setFld .queStatusOutstanding es.length [q]

/-- Interrupt vector 128, with ALERT_OUT# (R464, connector pin S20). -/
def State.alert (s : State) (why : Nat) : State := { s.fire 128 with alerts := s.alerts ++ [why] }

/-- A queue halts (R221, R224, R370). -/
def State.haltQueue (s : State) (q : Nat) : State :=
  if s.qHalted q then s else (s.raise .queStatusHalted [q]).alert 1

/-! Doorbells (R218). -/

/-- A new tail is refused (R218). -/
def State.tailBad (s : State) (q tail : Nat) : Bool :=
  !reaches tail (s.fld .queTailTail [q]) ||
    decide (2 ^ s.fld .queCfgLog2Size [q] < (tail + 2 ^ 32 - s.fld .queHeadHead [q]) % 2 ^ 32) || !s.qEnabled q || !s.ready

/-- A doorbell, from its page or from a mailbox line (R218, R466). Below Flow it is an input of the cycle in which the module is in Flow again
(R499). -/
def State.ringDoorbell (s : State) (q tail : Nat) : State :=
  if s.tailBad q tail then (s.raise .queStatusDoorbellRefused [q]).count .queCountDoorbellsRefused 1 [q]
  else
    let s := s.setFld .queTailTail tail [q]
    if s.flag .queCfgAdmitMode [q] then s
    else if s.inFlow then s.rrLog 3 q 0 tail 0
    else { s with rr := { s.rr with doorbells := s.rr.doorbells ++ [(q, tail)] } }

/-- Doorbells taken below Flow arrive: the module is in Flow again (R416, R499). -/
def State.lateDoorbells (s : State) : State :=
  s.rr.doorbells.foldl (fun s d => s.rrLog 3 d.1 0 d.2 0) { s with rr := { s.rr with doorbells := [] } }

/-- A doorbell that arrives live: a replay takes those of immediate queues from its log (R417). -/
def State.liveDoorbell (s : State) (q tail : Nat) : State :=
  if s.replaying && !s.flag .queCfgAdmitMode [q] then s else s.ringDoorbell q tail

/-- DOORBELL (R218). -/
def execDoorbell (q : Fin 4096) (tail : BitVec 32) (s : State) : Host.Outcome State Fault Refusal :=
  .next (s.hostTail fun s => s.liveDoorbell q tail.toNat)

/-! Entry fetch (R217, R219 to R221). -/

/-- The index up to which entries may be fetched: the tail, or the tail admitted (R217, R219). -/
def State.fetchLimit (s : State) (q : Nat) : Nat :=
  if s.flag .queCfgAdmitMode [q] then (s.queue q).admitted else s.fld .queTailTail [q]

/-- The queue manager may fetch (R217, R499). -/
def State.mayFetch (s : State) (q : Nat) : Bool :=
  s.inFlow && s.qEnabled q && !s.qHalted q && decide (s.fetchLimit q ≠ s.fld .queHeadHead [q]) &&
    decide ((s.queue q).staged.length ≤ s.fld .queCfgCreditM1 [q])

/-- Bits [hi:lo] of the word at offset `off` of a structure of `n` bits. -/
def wordF {n : Nat} (w : BitVec n) (off hi lo : Nat) : Nat := bitsOf w.toNat (8 * off + hi) (8 * off + lo)

/-- An entry passes its check (R220, R221). -/
def State.entryOk (s : State) (index : Nat) (e : BitVec 512) : Bool :=
  let type := wordF e 0 7 0
  crc32c (leBytes 60 e.toNat) == wordF e 0x3C 31 0 && wordF e 0 31 16 == index % 65536 && decide (type ≤ 2) &&
    wordF e 0 15 8 == 0 && wordF e 4 31 0 == 0 && wordF e 0x0E 15 0 == 0 && bitsOf e.toNat (8 * 0x3B + 7) (8 * 0x10) == 0 &&
    (type == 0 || s.spanLoadable (wordF e 8 47 0) 128)

/-- The frame that the entry at an index belongs to, and whether it is dropped (R219, R368, R371). -/
def QueueSt.admitOf (v : QueueSt) (index : Nat) : Nat × Bool :=
  match v.admits.find? fun a => !reaches index a.upTo with
  | some a => (a.frame, a.dropped)
  | none => (0, false)

/-- The entry at the head is fetched (R217, R221). -/
def State.fetchEntry (s : State) (q : Nat) : State :=
  let head := s.fld .queHeadHead [q]
  let base := s.fld .queBaseBase [q] * 64
  let e := BitVec.ofNat 512 (s.devNat (base + 64 * (head % 2 ^ s.fld .queCfgLog2Size [q])) 64)
  if !s.entryOk head e then (s.raise .queStatusEntryFault [q]).haltQueue q
  else
    let s := s.setFld .queHeadHead ((head + 1) % 2 ^ 32) [q]
    let a := (s.queue q).admitOf head
    let s := s.onQueue q fun v => { v with admits := v.admits.filter fun a => !reaches (head + 1) a.upTo }
    if wordF e 0 7 0 = 0 then s
    else s.setStaged q ((s.queue q).staged ++ [Staged.new head (wordF e 0 7 0) (wordF e 8 47 0) a.1 a.2])

/-- QUEUE_ENTRY_FETCH (R217, R221). -/
def execQueueEntryFetch (q : Fin 4096) (s : State) : Host.Outcome State Fault Refusal :=
  .next (if s.mayFetch q then s.fetchEntry q else s)

/-! Staged entries. -/

/-- An entry whose command has started, or that has ended without one (R217). -/
def Staged.past (e : Staged) : Bool := e.phase == .running || e.phase == .done

/-- A status that a retry answers (R524). -/
def retryStatus (st : Nat) : Bool := st == 4 || st == 5 || st == 7

/-- The entry has ended on every cell, or without a command (R206, R224). -/
def Staged.concluded (e : Staged) : Bool := e.phase == .done || (e.phase == .running && e.kind == 1 && e.allDone)

/-- The entry's command will run once more (R524, R525). -/
def State.retries (s : State) (q : Nat) (e : Staged) : Bool :=
  e.concluded && retryStatus e.status && (s.ctx (s.qCtx q)).retryEn && !e.retried && e.kind == 1 && !e.loads.isEmpty && !e.abandoned

/-- The entry's recovery command is still to be issued (R173). -/
def Staged.recovers (e : Staged) : Bool :=
  e.phase == .running && e.kind == 1 && e.allDone && e.status == 1 && bitOf e.word.toNat 3 && !e.recovering && !e.abandoned

/-- The first entry that has neither started nor ended, or that runs again (R214); an entry that `holds` lets none after it
start. -/
def nextStart (holds : Staged → Bool) : List Staged → Option Staged
  | [] => none
  | e :: t =>
    if e.abandoned then nextStart holds t
    else if holds e then none
    else if !e.past then some e
    else nextStart holds t

/-- The entry of a queue that is next to start: a retry or a recovery command comes before the next command of its queue (R173, R524,
R533), and a table load holds its queue until it ends (R225, R229). -/
def State.nextOf (s : State) (q : Nat) : Option Staged :=
  nextStart (fun e => s.retries q e || e.recovers || (e.kind == 2 && e.phase == .running)) (s.queue q).staged

/-- The cost of a command, in pages (R222, R237). -/
def Staged.cost (e : Staged) : Nat := wordF e.run 0x38 31 16

/-- A ready command waits for tokens (R237, R242). -/
def State.tokenWait (s : State) (q : Nat) : Bool :=
  s.flag .queCfgRegulated [q] &&
    match s.nextOf q with
    | some e => e.phase == .ready && !e.retried && decide ((s.queue q).level < e.cost)
    | none => false

def State.showTokens (s : State) (q : Nat) : State := s.setFld .queStatusTokenWait (b2n (s.tokenWait q)) [q]

/-! Configuration (R216, R239, R243). -/

/-- The ring lies wholly in hub store or in tier 2, and its size is in range (R216, R584). -/
def State.ringOk (s : State) (base size : Nat) : Bool :=
  decide (4 ≤ size) && decide (size ≤ 16) && s.spanLoadable base (64 * 2 ^ size)

/-- Queues enabled on a sequencer (R212, R239). -/
def State.enabledOn (s : State) (n : Nat) : Nat :=
  ((List.range 4096).filter fun q => s.qEnabled q && s.qSeq q == n).length

/-- The fields of QUE_CFG other than enable, credit_m1 and regulated (R239). -/
def queCfgFixed (v : Nat) : Nat × Nat × Nat := (bitsOf v 30 21, bitsOf v 19 15, 0)

/-- What an enable finds admitted (R219, R368): the entries that earlier admissions took and that are not fetched, else none at or after
`head`. -/
def QueueSt.opened (v : QueueSt) (head : Nat) : QueueSt := if v.admits.isEmpty then { v with admitted := head } else v

/-- A write to QUE_CFG (R216, R237, R239). -/
def State.writeQueCfg (s : State) (q v : Nat) : State :=
  let old := (s.reg .queCfg [q]).toNat
  let on := bitOf v 31
  if s.qEnabled q then
    if queCfgFixed v ≠ queCfgFixed old then s.raise .queStatusCfgRefused [q]
    else s.setReg .queCfg (BitVec.ofNat 64 (v % 2 ^ 32 / 4096 * 4096)) [q] |>.showTokens q
  else if on && (!s.ringOk (s.fld .queBaseBase [q] * 64) (bitsOf v 19 15) || decide (512 ≤ s.enabledOn (bitsOf v 30 28))) then
    s.raise .queStatusCfgRefused [q]
  else
    let s := s.setReg .queCfg (BitVec.ofNat 64 (v % 2 ^ 32 / 4096 * 4096)) [q]
    (if on then s.onQueue q fun v => { v.opened (s.fld .queHeadHead [q]) with level := 0, acc := 0 } else s).showTokens q

/-- QUE_CFG_WRITE (R239). -/
def execQueCfgWrite (q : Fin 4096) (val : BitVec 32) (s : State) : Host.Outcome State Fault Refusal :=
  .next (s.hostWriteAt (RegId.addr .queCfg [q]) fun s =>
    s.writeQueCfg q val.toNat)

/-- A loaded command that has not started leaves the store halves of its cells (R226, R243). -/
def State.unload (s : State) (q : Nat) (e : Staged) : State :=
  e.loads.foldl (fun s l => s.onCell l.1 fun c =>
    match c.loaded with
    | some m => if m.queue = q ∧ m.index = e.index then { c with loaded := none } else c
    | none => c) s

/-- QUEUE_FLUSH (R243, R530): entries that have not started are discarded, abandoned ones give back their credit, and head
takes the tail. -/
def State.flushQueue (s : State) (q : Nat) : State :=
  let gone := (s.queue q).staged.filter fun e => e.phase != .running || e.abandoned
  let s := gone.foldl (fun s e => s.unload q e) s
  let s := s.setStaged q ((s.queue q).staged.filter fun e => e.phase == .running && !e.abandoned)
  let tail := s.fld .queTailTail [q]
  let s := s.onQueue q fun v => { v with admits := [], admitted := tail }
  (s.setFld .queHeadHead tail [q]).showTokens q

def execQueueFlush (q : Fin 4096) (s : State) : Host.Outcome State Fault Refusal :=
  .next (s.hostWriteAt (RegId.addr .queCtrl [q]) fun s =>
    if s.qHalted q then s.flushQueue q else s)

/-- QUEUE_RESUME (R243). -/
def execQueueResume (q : Fin 4096) (s : State) : Host.Outcome State Fault Refusal :=
  .next (s.hostWriteAt (RegId.addr .queCtrl [q]) fun s =>
    if s.qHalted q then s.setFld .queStatusHalted 0 [q] else s)

end Sys2Proof.Machine
end

