-- ==== Sys2Proof/Machine/Load.lean ====
section
/-! DEFINITION. Command descriptors, image tables and the load engines (R222, R223, R226, R363, R364, R584), and the ownership of cells
(R212, R213, R245). -/

namespace Sys2Proof.Machine

/-! Ownership (R213, R245). -/

/-- The owner field of logical cell c: valid in bit 3, the sequencer in bits [2:0]. -/
def State.owner (s : State) (c : Nat) : Nat := getBits (s.reg .cellOwner [c / 8]) (4 * (c % 8) + 3) (4 * (c % 8))

/-- Logical cell c belongs to sequencer n. -/
def State.owns (s : State) (n c : Nat) : Bool := s.owner c == 8 + n

def ownerReset (_ : Nat) : OwnerSt := OwnerSt.empty

/-- No command runs on logical cell c and none is loaded in its other store half (R213). -/
def State.ownerFree (s : State) (c : Nat) : Bool :=
  match s.cellOf c with
  | some p => (s.cell p).cmd.isNone && (s.cell p).loaded.isNone
  | none => true

/-- A frame boundary of R217, at the completion of a command with last_of_frame: the owner changes whose cells are free there are due
(R213). -/
def State.ownerBoundary (s : State) : State :=
  { s with owners := s.owners.map fun e => (e.1, { e.2 with due := s.ownerFree e.1 }) }

/-- CELL_OWNER_CHANGE (R213): the owner changes at a frame boundary that found the cell free. -/
def execCellOwnerChange (c : Fin 32) (s : State) : Host.Outcome State Fault Refusal :=
  .next (
    let v := tabGet ownerReset s.owners c
    match v.next with
    | some f =>
      if v.due && s.ownerFree c then
        let r := putBits (s.reg .cellOwner [c / 8]) (4 * (c % 8) + 3) (4 * (c % 8)) f
        { (s.setReg .cellOwner r [c / 8]) with owners := tabSet ownerReset s.owners c .empty }
      else s
    | none => s)

/-! The descriptor (R222). -/

/-- The logical cells of a mask, ascending. -/
def maskCells (m : Nat) : List Nat := (List.range 32).filter (bitOf m)

def descMask (w : BitVec 1024) : Nat := wordF w 4 31 0
def descStatsMask (w : BitVec 1024) : Nat := wordF w 0x38 15 0
def descHasRecovery (w : BitVec 1024) : Bool := bitOf w.toNat 3
def descLast (w : BitVec 1024) : Bool := bitOf w.toNat 2

/-- The CRC of a command descriptor (R222). -/
def descCrcOk (w : BitVec 1024) : Bool :=
  let b := leBytes 128 w.toNat
  crc32c (b.take 0x3C ++ b.drop 0x40) == wordF w 0x3C 31 0

/-- Every reserved bit is 0, and so is every address field that the command does not use (R222). -/
def descReservedOk (w : BitVec 1024) : Bool :=
  wordF w 0 31 14 == 0 && wordF w 0 7 4 == 0 && [0x08, 0x10, 0x18, 0x20].all (fun o => wordF w o 63 48 == 0) &&
    wordF w 0x34 31 25 == 0 && (List.range 16).all (fun k => wordF w (0x40 + 4 * k) 31 25 == 0) &&
    (descHasRecovery w || wordF w 0x18 47 0 == 0) && (descStatsMask w != 0 || wordF w 0x20 47 0 == 0)

/-- What an address costs: 0x08 for a hole, 0x09 for a level that the load path does not reach (R584). -/
def State.reachStatus (s : State) (a n : Nat) : Nat :=
  if (s.spanPlaces a n).contains .hole then 8 else if s.spanLoadable a n then 0 else 9

/-- The addresses of the tensor descriptors that the command names, 0 for none (R231). -/
def State.sidebandAddr (s : State) (w : BitVec 1024) (k : Nat) : Nat := s.devNat (wordF w 0x20 47 0 + 8 * k) 8 % 2 ^ 48

/-- The slots that are merged and written to a sideband (R222, R231). -/
def descSlots (w : BitVec 1024) : List Nat := (List.range 16).filter (bitOf (descStatsMask w))

/-- One entry of the image table (R223). -/
structure ImageEntry where
  addr : Nat
  bundles : Nat
  records : Nat
  digest : Nat
  ok : Bool
  deriving DecidableEq, Repr

def ImageEntry.size (e : ImageEntry) : Nat := 16 * e.bundles + 64 * e.records

/-- Entry j of the image table of a descriptor. -/
def State.imageEntry (s : State) (w : BitVec 1024) (j : Nat) : ImageEntry :=
  let e := BitVec.ofNat 256 (s.devNat (wordF w 8 47 0 + 32 * j) 32)
  let a := wordF e 0 47 0
  { addr := a, bundles := wordF e 8 15 0, records := wordF e 0x0A 15 0, digest := wordF e 0x10 63 0
    ok := wordF e 0 63 48 == 0 && a % 64 == 0 && decide (1 ≤ wordF e 8 15 0) && decide (wordF e 8 15 0 ≤ 4096) &&
      decide (wordF e 0x0A 15 0 ≤ 2048) && wordF e 0x0C 31 0 == 0 && wordF e 0x18 63 0 == 0 }

def State.imageEntries (s : State) (w : BitVec 1024) : List ImageEntry :=
  (List.range (maskCells (descMask w)).length).map (s.imageEntry w)

/-- Of several statuses, a descriptor fault comes before a refusal, and 0 is none. -/
def descWorst (l : List Nat) : Nat := if l.contains 8 then 8 else if l.contains 9 then 9 else 0

/-- What a tensor descriptor that the sideband table names costs, where it is reachable (R37, R230, R262): 0x08 for a wrong CRC-16 or a
reserved bit, 0x09 for format code 0xF (DEDUCED, log entry 22). -/
def State.tensorStatus (s : State) (a : Nat) : Nat :=
  let w := BitVec.ofNat 512 (s.devNat a 64)
  let b := leBytes 32 w.toNat
  if crc16 (b.take 6 ++ b.drop 8) ≠ wordF w 4 31 16 ∨ wordF w 8 13 0 ≠ 0 then 8 else if wordF w 8 19 16 = 15 then 9 else 0

/-- The addresses of a descriptor other than status_addr, in the order of its fields (R584); the images and tensor descriptors only
where their tables are reachable. -/
def State.addrStatus (s : State) (w : BitVec 1024) (recovery : Bool) : Nat :=
  let n := (maskCells (descMask w)).length
  let table := if n = 0 then 0 else s.reachStatus (wordF w 8 47 0) (32 * n)
  let images := if table = 0 then
      (s.imageEntries w).map (fun e => if e.ok then s.reachStatus e.addr e.size else 8) else []
  let rec' := if descHasRecovery w ∧ !recovery then s.reachStatus (wordF w 0x18 47 0) 128 else 0
  let sb := if descStatsMask w ≠ 0 then s.reachStatus (wordF w 0x20 47 0) 128 else 0
  let tensors := if descStatsMask w ≠ 0 ∧ sb = 0 then (descSlots w).map fun k =>
      let a := s.sidebandAddr w k
      if a = 0 then 0 else let r := s.reachStatus a 64; if r = 0 then s.tensorStatus a else r else []
  descWorst ([table, rec', sb] ++ images ++ tensors)

/-- A refusal of R224, R363 and R364. -/
def State.descRefused (s : State) (q : Nat) (w : BitVec 1024) : Bool :=
  let c := s.qCtx q
  let cells := maskCells (descMask w)
  wordF w 0 13 8 != c || cells.isEmpty || (Mode.ofCode (wordF w 0 1 0)).isNone ||
    decide (s.ctxState c = ctxIdle) || decide (s.ctxState c = ctxPending) ||
    cells.any fun l => !s.owns (s.qSeq q) l || (s.cellOf l).isNone || !s.ctxHas c l

/-- What a descriptor check finds: the status, and that no record can be written (R224, R584). -/
structure DescVerdict where
  status : Nat
  noRecord : Bool
  deriving DecidableEq, Repr

/-- The check of a command descriptor (R222, R224, R584). -/
def State.checkDesc (s : State) (q : Nat) (desc : Nat) (w : BitVec 1024) : DescVerdict :=
  let sa := wordF w 0x10 47 0
  let reach := s.reachStatus sa 32 == 0
  if desc % 64 ≠ 0 ∨ !descCrcOk w ∨ !descReservedOk w then ⟨8, !reach || sa % 32 != 0⟩
  else if !reach then ⟨9, true⟩
  else if sa % 32 ≠ 0 then ⟨8, true⟩
  else if wordF w 8 47 0 % 32 ≠ 0 then ⟨8, false⟩
  else
    let a := s.addrStatus w false
    if a ≠ 0 then ⟨a, false⟩ else if s.descRefused q w then ⟨9, false⟩ else ⟨0, false⟩

/-- The check of a recovery descriptor (R173): its own record and recovery command do not exist, and it runs on the same cells. -/
def State.checkRecovery (s : State) (q : Nat) (w parent : BitVec 1024) : Nat :=
  if !descCrcOk w ∨ !descReservedOk w ∨ wordF w 8 47 0 % 32 ≠ 0 then 8
  else
    let a := s.addrStatus w true
    if a ≠ 0 then a else if s.descRefused q w ∨ descMask w ≠ descMask parent then 9 else 0

/-! The load (R226). -/

/-- The queues of a sequencer, ascending (R212). -/
def State.queuesOf (s : State) (n : Nat) : List Nat := (List.range 4096).filter fun q => s.qSeq q == n

/-- A command of a sequencer whose store half may be needed again holds that half (R173, R524). -/
def Staged.keeps (e : Staged) (retry : Bool) (p : Nat) (half : Bool) : Bool :=
  ((e.phase == .running && (retry || descHasRecovery e.word)) || e.reload || e.recovering) && !e.abandoned &&
    e.loads.any fun l => l.1 == p && l.2.half == half

def State.halfKept (s : State) (p : Nat) (half : Bool) : Bool :=
  s.queues.any fun e => e.2.staged.any fun x => x.keeps (s.ctx (s.qCtx e.1)).retryEn p half

/-- The store half that the next command of a cell takes (R185, R226). -/
def Cell.nextHalf (c : Cell) : Bool := match c.cmd with | some m => !m.half | none => !c.run.half

/-- A cell takes part in a remap (R528). -/
def State.remapping (s : State) (p : Nat) : Bool := s.remaps.any fun r => r.old == p || r.spare == p

/-- Every cell can take the images: its previous command has started, and the half is free (R226). -/
def State.loadRoom (s : State) (ps : List Nat) : Bool :=
  ps.all fun p => (s.cell p).loaded.isNone && !s.halfKept p (s.cell p).nextHalf

/-- An image in the store halves of a cell (R185, R223). -/
def Cell.storeImage (c : Cell) (half : Bool) (bundles : List (BitVec 128)) (units : List (BitVec 512)) : Cell :=
  { c with
    istore := ((List.range bundles.length).zip bundles).foldl (fun t x => tabSet (fun _ => 0) t (4096 * b2n half + x.1) x.2) c.istore
    rstore := ((List.range units.length).zip units).foldl (fun t x => tabSet (fun _ => 0) t (2048 * b2n half + x.1) x.2) c.rstore }

/-- The bundles and record units of an image (R223). -/
def State.imageBundles (s : State) (e : ImageEntry) : List (BitVec 128) :=
  (List.range e.bundles).map fun i => BitVec.ofNat 128 (s.devNat (e.addr + 16 * i) 16)
def State.imageUnits (s : State) (e : ImageEntry) : List (BitVec 512) :=
  (List.range e.records).map fun i => BitVec.ofNat 512 (s.devNat (e.addr + 16 * e.bundles + 64 * i) 64)

/-- The command that a descriptor gives a cell (R205, R222). -/
def cellCmdOf (q index : Nat) (w : BitVec 1024) (mode : Mode) (half recovery : Bool) (e : ImageEntry) : CellCmd :=
  { queue := q, index := index, context := wordF w 0 13 8, mode := mode, waitBase := wordF w 0x30 31 0, tables := none, half := half
    bundles := e.bundles, records := e.records, statsAddr := (List.range 16).map fun k => wordF w (0x40 + 4 * k) 24 0
    statsMask := descStatsMask w, recovery := recovery, digest := e.digest, swapMode := false, chkHalt := false }

/-- The half that a load writes on cell p: that of the entry's earlier load for a reload or a recovery command, else the free one. -/
def Staged.halfFor (e : Staged) (p : Nat) (c : Cell) : Bool :=
  match e.loads.find? fun l => l.1 == p with
  | some l => l.2.half
  | none => c.nextHalf

/-- The images of a command are read into the stores of its cells, ascending (R226). -/
def State.loadImages (s : State) (q : Nat) (e : Staged) : State :=
  let w := e.run
  let mode := (Mode.ofCode (wordF w 0 1 0)).getD .fast
  let cells := (maskCells (descMask w)).filterMap s.cellOf
  let work := cells.zip (s.imageEntries w)
  let loads := work.map fun x => (x.1, cellCmdOf q e.index w mode (e.halfFor x.1 (s.cell x.1)) e.recovering x.2)
  let s := (work.zip loads).foldl (fun s x =>
    let bs := s.imageBundles x.1.2
    let us := s.imageUnits x.1.2
    s.onCell x.1.1 fun c =>
      let c := c.storeImage x.2.2.half bs us
      if e.reload ∨ e.recovering then c else { c with loaded := some x.2.2 }) s
  s.onStaged q e.index fun e => { e with loads := loads, phase := .loading }

/-- The entry that the load engine takes from a queue: the first that is fetched and no table load (R226). -/
def State.loadNext (s : State) (q : Nat) : Option Staged :=
  (s.queue q).staged.find? fun e => e.phase == .fetched && e.kind == 1 && !e.abandoned

/-- A load engine is busy with another command (R226). -/
def State.loadBusy (s : State) (n : Nat) : Bool :=
  s.queues.any fun e => s.qSeq e.1 == n && e.2.staged.any fun x => x.phase == .loading && x.kind == 1

/-- The entry ends without a command. -/
def State.endStaged (s : State) (q ix status : Nat) (noRecord : Bool) : State :=
  (s.onStaged q ix fun e => { e with phase := .done, status := status, noRecord := e.noRecord || noRecord }).showTokens q

/-- COMMAND_LOAD (R222, R226, R371, R584): the descriptor and image table are checked, and the images read. A halted sequencer
begins no load (R547). -/
def State.commandLoad (s : State) (q : Nat) (e : Staged) : State :=
  if e.recovering ∧ !e.reload then
    let st := s.checkRecovery q e.run e.word
    if st ≠ 0 then s.endStaged q e.index (Nat.max 1 st) false else s.loadImages q e
  else if e.reload then s.loadImages q e
  else
    let w := BitVec.ofNat 1024 (s.devNat e.desc 128)
    let v := s.checkDesc q e.desc w
    let e := { e with word := w, run := w }
    let held := s.onStaged q e.index fun x => { x with word := w, run := w }
    if v.status ≠ 0 then held.endStaged q e.index v.status v.noRecord
    else if e.dropped then held.endStaged q e.index 10 false
    else if s.loadRoom ((maskCells (descMask w)).filterMap s.cellOf) then held.loadImages q e
    else s

def execCommandLoad (q : Fin 4096) (s : State) : Host.Outcome State Fault Refusal :=
  .next (match s.loadNext q with
    | some e => if s.gated || s.seqHalted (s.qSeq q) || s.loadBusy (s.qSeq q) then s else s.commandLoad q e
    | none => s)

/-! Ready (R187, R223, R226). -/

/-- The bytes of an image as it lies in a cell's stores, its bundles and its record units. -/
def Cell.image (c : Cell) (m : CellCmd) : List (BitVec 128) × List (BitVec 512) :=
  ((List.range m.bundles).map (c.bundleAt m.half), (List.range m.records).map (c.unitAt m.half))

def imageBytes (im : List (BitVec 128) × List (BitVec 512)) : List Byte :=
  im.1.flatMap (fun b => leBytes 16 b.toNat) ++ im.2.flatMap fun u => leBytes 64 u.toNat

/-- The checks of one cell's image: a load fault ends the command with 0x06, a wrong digest with 0x07 (R187, R224). -/
def State.checkImage (s : State) (p : Nat) (m : CellCmd) : State × Nat :=
  let im := (s.cell p).image m
  let dig := if digest64 (imageBytes im) = m.digest then 0 else 7
  match loadCheck im.1 im.2 with
  | some f => (s.seqFault p f.cause f.slot f.record f.bundle, Nat.max 6 dig)
  | none => (s, dig)

/-- COMMAND_READY (R226): the command is ready, or ends with the highest code of its cells; one that has to wait for a maintenance frame
costs its frame the flag (R404). -/
def State.commandReady (s : State) (q : Nat) (e : Staged) : State :=
  let r := e.loads.foldl (fun a l => let x := a.1.checkImage l.1 l.2; (x.1, Nat.max a.2 x.2)) (s, 0)
  let s := r.1
  if r.2 = 0 then
    let s := if s.maintained q e.frame then s.clearEntryTiming q e.index else s
    (s.onStaged q e.index fun e => { e with phase := .ready, reload := false }).showTokens q
  else
    let e' := { e with status := r.2, phase := .done }
    let s := s.endStaged q e.index r.2 false
    let s := s.onStaged q e.index fun e => { e with reload := false, results := [] }
    if s.retries q e' then s else s.unload q e

def execCommandReady (q : Fin 4096) (s : State) : Host.Outcome State Fault Refusal :=
  .next (match (s.queue q).staged.find? fun e => e.phase == .loading && e.kind == 1 with
    | some e => if s.gated then s else s.commandReady q e
    | none => s)

end Sys2Proof.Machine
end

