-- ==== Sys2Proof/Machine/Start.lean ====
section
/-! DEFINITION. The stream sequencers: the scan and the start of commands (R214, R228, R364), the bandwidth regulator (R237),
their halt and resume (R547, R561, R562). -/

namespace Sys2Proof.Machine

/-! Breakpoints (R547, R562). -/

/-- Entry k of a sequencer's breakpoints matches a command before its start, or its completion with a status. -/
def State.bpMatches (s : State) (n k q ix : Nat) (after : Option Nat) : Bool :=
  s.flag .dseqBpEnable [n, k] && (s.flag .dseqBpPoint [n, k] == after.isSome) &&
    (!s.flag .dseqBpFaultOnly [n, k] || match after with | some st => st != 0 && st != 10 | none => false) &&
    (!s.flag .dseqBpQueueEn [n, k] || s.fld .dseqBpQueue [n, k] == q) &&
    (!s.flag .dseqBpIndexEn [n, k] || s.fld .dseqBpIndex [n, k] == ix)

/-- The first entry that matches. -/
def State.bpEntry (s : State) (n q ix : Nat) (after : Option Nat) : Option Nat :=
  [0, 1, 2, 3].find? fun k => s.bpMatches n k q ix after

/-- The sequencer halts on breakpoint entry k (R561). -/
def State.seqBreak (s : State) (n k : Nat) : State := (s.setFld .dseqStatusHit k [n]).seqHaltAt .dseqStatusByBreakpoint n

/-- SEQ_HALT (R547). -/
def execSeqHalt (n : Fin 8) (cause : SeqHaltCause) (s : State) : Host.Outcome State Fault Refusal :=
  .next (match cause with
    | .request => s.hostWriteAt (RegId.addr .dseqCtrl [n]) fun s => s.seqHaltAt .dseqStatusByRequest n
    | .breakpoint k => if s.flag .dseqBpEnable [n, k] then s.seqBreak n k else s
    | .diverge => s.seqHaltAt .dseqStatusByDiverge n)

/-- SEQ_RESUME (R547, R556, R561): the reason bits clear, with a trace record of them. -/
def execSeqResume (n : Fin 8) (s : State) : Host.Outcome State Fault Refusal :=
  .next (s.hostWriteAt (RegId.addr .dseqCtrl [n]) fun s =>
    if s.seqHalted n then
      let reasons := getBits (s.reg .dseqStatus [n]) 30 28 * 2 ^ 28
      let s := s.setReg .dseqStatus (putBits (s.reg .dseqStatus [n]) 31 28 0) [n]
      s.traceSeq n 7 0 1 reasons 0
    else s)

/-! The start of a command. -/

/-- A cell can take a command: it runs none, its memory is not being cleared, and it is not being remapped (R107, R206, R528). -/
def State.cellFree (s : State) (p : Nat) : Bool := (s.cell p).idle && !s.cflag .memStatusClearBusy p && !s.remapping p

/-- No other context's frame holds a cell of the set of context c (R364). -/
def State.ctxUnheld (s : State) (c : Nat) : Bool := allCtxs.all fun d => d == c || (s.ctx d).hold.isNone || !s.ctxMeet c d

/-- Every cell of the set of context c is free (R364). -/
def State.setFree (s : State) (c : Nat) : Bool :=
  (List.range 32).all fun l => !s.ctxHas c l || match s.cellOf l with | some p => s.cellFree p | none => true

/-- The set of R364 lets a command start: every cell of it is free or held by the context's current frame, which is the command's own. The
command of an immediate queue belongs to no frame (R368), and takes none. -/
def State.setReady (s : State) (c frame : Nat) : Bool :=
  s.ctxUnheld c && match (s.ctx c).hold with | some f => frame == 0 || f == frame | none => s.setFree c

/-- The regulator has tokens for the command (R237); a command that runs again costs nothing more. -/
def State.hasTokens (s : State) (q : Nat) (e : Staged) : Bool :=
  !s.flag .queCfgRegulated [q] || e.retried || decide (e.cost ≤ (s.queue q).level)

/-- Nothing but tokens keeps an entry from its start (R214, R364, R404, R499, R503). -/
def State.mayStart (s : State) (q : Nat) (e : Staged) : Bool :=
  !s.qHalted q && s.inFlow && e.phase == .ready && e.kind == 1 && e.loads.all (fun l => s.cellFree l.1) &&
    s.setReady (s.qCtx q) e.frame && !s.maintained q e.frame && (e.frame != 0 || !s.power.descent)

/-- Commands that `held` kept from their start in the state before, and that nothing keeps in this one, waited for it (a remap or the frame
of a maintenance window): their frames lose the flag (R404, R405, R528). -/
def State.clearFreed (s before : State) (held : Nat → Staged → Bool) : State :=
  s.queues.foldl (fun s v => match s.nextOf v.1 with
    | some e => if held v.1 e && s.mayStart v.1 e && !before.mayStart v.1 e then s.clearEntryTiming v.1 e.index else s
    | none => s) s

/-- The command of a queue that may start now (R214, R237). -/
def State.startable (s : State) (q : Nat) : Option Staged :=
  match s.nextOf q with
  | some e => if s.mayStart q e ∧ s.hasTokens q e then some e else none
  | none => none

/-- A ready command waits only for tokens (R237). -/
def State.onlyTokens (s : State) (q : Nat) : Bool :=
  s.tokenWait q && !s.seqHalted (s.qSeq q) && match s.nextOf q with | some e => s.mayStart q e | none => false

/-- REGULATOR_TICK (R237). -/
def execRegulatorTick (q : Fin 4096) (s : State) : Host.Outcome State Fault Refusal :=
  .next (if !s.gated && s.flag .queCfgRegulated [q] && s.qEnabled q then
      let a := (s.queue q).acc + s.fld .queRateRate [q]
      let s := s.onQueue q fun v =>
        { v with level := Nat.min (v.level + a / 65536) (s.fld .queBurstBurst [q]), acc := a % 65536 }
      let s := if s.onlyTokens q then s.count .queCountRegulatorWaits 1 [q] else s
      s.showTokens q
    else s)

/-- A cell takes a command (R87, R97, R206, R228, R550), with its trace record (R556). -/
def State.startCell (s : State) (p : Nat) (m : CellCmd) : State :=
  let m := { m with swapMode := s.cflag .accCtrlSwapMode p, chkHalt := s.cflag .accCtrlChkHalt p }
  let s := s.onCell p fun c =>
    { c with
      cmd := some m
      loaded := match c.loaded with
        | some l => if l.queue = m.queue ∧ l.index = m.index then none else some l
        | none => none
      stats := List.replicate 16 StatSlot.empty
      active := if m.swapMode && (c.bank c.active).state != .held then 0 else c.active
      ended := none, done := none
      run := { SeqRun.reset with
        state := .running, half := m.half, nextId := c.run.nextId, stepping := c.run.stepping, halting := c.run.halting } }
  let s := ((s.csetFld .cmdInvalidCount 0 p).csetFld .cmdSaturatedCount 0 p).csetFld .cmdFlushedCount 0 p
  s.traceCell p 1 0 0 0 3 0 m.queue m.index m.context

/-- The first command of a frame takes the whole set (R364). -/
def State.takeSet (s : State) (c frame : Nat) : State :=
  if frame = 0 then s else s.setCtx c { s.ctx c with hold := some frame }

/-- A command starts on its cells (R214, R228, R237). -/
def State.startEntry (s : State) (n q : Nat) (e : Staged) : State :=
  let c := s.qCtx q
  let s := if s.flag .queCfgRegulated [q] && !e.retried then s.onQueue q fun v => { v with level := v.level - e.cost } else s
  let s := s.onStaged q e.index fun e => { e with phase := .running, status := 0, results := [] }
  let s := e.loads.foldl (fun s l => s.startCell l.1 l.2) s
  let s := (s.takeSet c e.frame).setSeq n ⟨q, none⟩
  (s.traceSeq n 8 q q e.index (descMask e.run)).showTokens q

/-- A regulated command whose cost exceeds the burst never starts (R237). -/
def State.costRefused (s : State) (q : Nat) : Option Staged :=
  if s.flag .queCfgRegulated [q] ∧ !s.qHalted q then
    match s.nextOf q with
    | some e => if e.phase = .ready ∧ !e.retried ∧ s.fld .queBurstBurst [q] < e.cost then some e else none
    | none => none
  else none

/-- The queues of a sequencer in the order of its scan (R214). -/
def State.scanOrder (s : State) (n : Nat) : List Nat :=
  let qs := s.queues.filterMap fun e => if s.qSeq e.1 = n then some e.1 else none
  qs.filter (fun q => decide ((s.seq n).last < q)) ++ qs.filter fun q => decide (q ≤ (s.seq n).last)

/-- The first command in scan order that may start. -/
def State.scan (s : State) : List Nat → Option (Nat × Staged)
  | [] => none
  | q :: t => match s.startable q with | some e => some (q, e) | none => s.scan t

/-- COMMAND_START (R214, R237, R547): the command starts, or a breakpoint halts the sequencer before it. -/
def State.commandStart (s : State) (n : Nat) : State :=
  let order := s.scanOrder n
  let s := order.foldl (fun s q => match s.costRefused q with
    | some e => (s.endStaged q e.index 9 false).unload q e
    | none => s) s
  match s.scan order with
  | none => s
  | some (q, e) =>
    match s.bpEntry n q e.index none with
    | some k =>
      if (s.seq n).passed = some (q, e.index) then s.startEntry n q e
      else (s.setSeq n ⟨(q + 4095) % 4096, some (q, e.index)⟩).seqBreak n k
    | none => s.startEntry n q e

def execCommandStart (n : Fin 8) (s : State) : Host.Outcome State Fault Refusal :=
  .next (if s.gated || s.seqHalted n then s else s.commandStart n)

end Sys2Proof.Machine
end

