-- ==== Sys2Proof/Machine/Complete.lean ====
section
/-! DEFINITION. The completion of staged entries (R224, R225, R231), recovery commands and retries (R173 to R175, R524 to R527), and table loads
(R148, R229, R408). -/

namespace Sys2Proof.Machine

/-! Completion (R225). -/

/-- What the completion of an entry takes from its descriptor. -/
structure Closing where
  hostTag : Nat
  statusAddr : Nat
  tally : Nat
  inc : Nat
  last : Bool
  recovered : Bool
  deriving DecidableEq, Repr

/-- The closing of a command descriptor (R222) and of a table-load descriptor (R229). -/
def commandClosing (e : Staged) : Closing :=
  let w := e.word
  ⟨wordF w 0x28 63 0, wordF w 0x10 47 0, wordF w 0x34 11 0, wordF w 0x34 24 12 + 1, descLast w, e.recovering⟩

def tableClosing (w : BitVec 1024) : Closing :=
  ⟨wordF w 0x20 63 0, wordF w 0x28 47 0, wordF w 0x30 11 0, wordF w 0x30 24 12 + 1, false, false⟩

/-- The freeze-timing flag of the frame of an entry, or its own (R225, R381). -/
def State.timingOf (s : State) (q : Nat) (e : Staged) : Bool :=
  if e.frame = 0 then e.timing else
  match (s.ctx (s.qCtx q)).frames.find? fun f => f.id == e.frame with
  | some f => f.timing
  | none => e.timing

/-- Bytes 0x08 to 0x0B of a completion record (R225). -/
def recordWord (q status : Nat) (k : Closing) (timing : Bool) : Nat :=
  q * 2 ^ 16 + b2n k.last * 2 ^ 10 + b2n timing * 2 ^ 9 + b2n k.recovered * 2 ^ 8 + status

/-- The 32-byte completion record (R225). Its run_cycles is a free value, of an entry that started nothing too (log entry 2). -/
def State.completionRecord (s : State) (q index status cycles : Nat) (k : Closing) (timing : Bool) : List Byte :=
  leBytes 8 k.hostTag ++ leBytes 4 (recordWord q status k timing) ++ leBytes 4 index ++
    leBytes 4 (s.fld .sttPositionFrame) ++ leBytes 2 (s.fld .sttPositionLine) ++ leBytes 2 (s.fld .sttPositionSubline) ++
    leBytes 4 cycles ++ leBytes 4 0

/-- A status that leaves the queue running (R224). -/
def statusRuns (st : Nat) : Bool := st == 0 || st == 1 || st == 10

/-- A frame ends with its last command (R217, R364, R368, R392, R480). -/
def State.endFrame (s : State) (c frame : Nat) : State :=
  match (s.ctx c).frames.find? fun f => f.id == frame with
  | none => s
  | some f =>
    let s := s.setFrames c ((s.ctx c).frames.filter fun f => f.id != frame)
    let s := if (s.ctx c).hold = some frame then s.setCtx c { s.ctx c with hold := none } else s
    (s.setFld .ctxStatusFreezeTiming (b2n f.timing) [c]).openIngress c f.num

/-- The entry leaves its queue with its record, its tally, its credit and its status (R224, R225, R584). A command with last_of_frame ends its
frame and is a frame boundary, in an immediate queue too (R217). -/
def State.closeEntry (s : State) (q : Nat) (e : Staged) (status : Nat) (k : Closing) : State :=
  let timing := s.timingOf q e
  let d := (s.draw.1.toNat % 2 ^ 32, s.draw.2)
  let s := d.2
  let s := if e.noRecord then s
    else (s.devWrite k.statusAddr (s.completionRecord q e.index status d.1 k timing)).signalTally none k.tally k.inc
  let s := s.setStaged q (dropFirst (fun x => x.index == e.index) (s.queue q).staged)
  let s := s.setFld .queStatusLastStatus status [q]
  let s := if statusRuns status then s else s.haltQueue q
  let s := s.rrCompletion q e.index (recordWord q status k timing + e.index * 2 ^ 32) d.1
  let s := if k.last then ((if e.frame != 0 then s.endFrame (s.qCtx q) e.frame else s).clearFreed s fun q e => s.maintained q e.frame).ownerBoundary else s
  let s := match s.bpEntry (s.qSeq q) q e.index (some status) with
    | some b => s.seqBreak (s.qSeq q) b
    | none => s
  s.showTokens q

/-- The merged per-tensor records go to the sidebands of the tensor descriptors that the table names (R165, R231). -/
def State.writeSidebands (s : State) (e : Staged) : State :=
  match e.results with
  | [] => s
  | r :: _ => (descSlots e.run).foldl (fun s k =>
      let a := s.sidebandAddr e.run k
      if a = 0 then s else s.devWrite (a + 0x20) ((r.stats.getD k StatSlot.empty).tensor.sideband)) s

/-- A retry has failed (R525, R527). -/
def State.retryFailed (s : State) (q : Nat) (e : Staged) : State :=
  let s := s.raise .rcvStatusRetryFailed [s.qCtx q]
  e.results.foldl (fun s r => if s.mismatch r.phys then s.markCell r.phys else s) s

/-- The entry at the head that has not been abandoned (R225, R530). -/
def State.headEntry (s : State) (q : Nat) : Option Staged := (s.queue q).staged.find? fun e => !e.abandoned

/-- COMMAND_COMPLETE (R225). -/
def State.commandComplete (s : State) (q : Nat) (e : Staged) : State :=
  let st := if e.recovering then Nat.max 1 e.status else e.status
  let s := if e.phase = .running then s.writeSidebands e else s.unload q e
  let s := if e.retried && retryStatus e.status then s.retryFailed q e else s
  s.closeEntry q e st (commandClosing e)

def execCommandComplete (q : Fin 4096) (s : State) : Host.Outcome State Fault Refusal :=
  .next (match s.headEntry q with
    | some e => if !s.gated ∧ e.kind = 1 ∧ e.concluded ∧ !s.retries q e ∧ !e.recovers then s.commandComplete q e else s
    | none => s)

/-! Recovery and retry. -/

/-- RECOVERY_COMMAND (R173, R175, R231): the entry's statistics go to their sidebands, and its recovery descriptor is read next. -/
def execRecoveryCommand (q : Fin 4096) (s : State) : Host.Outcome State Fault Refusal :=
  .next (match (s.queue q).staged.find? (·.recovers) with
    | some e =>
      if s.gated then s else
      let s := (s.writeSidebands e).clearEntryTiming q e.index
      let w := BitVec.ofNat 1024 (s.devNat (wordF e.word 0x18 47 0) 128)
      (s.onStaged q e.index fun e =>
        { e with phase := .fetched, recovering := true, retried := false, reload := false, run := w, status := 0, results := [] }).showTokens q
    | none => s)

/-- COMMAND_RETRY (R524, R526): with the images again where the fault may lie in them, else at once. -/
def State.commandRetry (s : State) (q : Nat) (e : Staged) : State :=
  let again := e.status = 5 ∨ e.phase = .done
  if !again ∧ (s.seqHalted (s.qSeq q) ∨ !e.loads.all fun l => s.cellFree l.1) then s else
  let s := (s.count .rcvCountRetries 1 [s.qCtx q]).clearEntryTiming q e.index
  if again then
    (s.onStaged q e.index fun e =>
      { e with phase := .fetched, retried := true, reload := true, status := 0, results := [] }).showTokens q
  else
    let s := s.onStaged q e.index fun e => { e with retried := true }
    s.startEntry (s.qSeq q) q { e with retried := true }

def execCommandRetry (q : Fin 4096) (s : State) : Host.Outcome State Fault Refusal :=
  .next (match (s.queue q).staged.find? (s.retries q) with
    | some e => if s.gated then s else s.commandRetry q e
    | none => s)

/-! Table loads (R148, R229, R408). -/

def State.ftb (s : State) (b : Nat) : FtbBank := if b = 0 then s.ftb0 else s.ftb1
def State.setFtb (s : State) (b : Nat) (v : FtbBank) : State := if b = 0 then { s with ftb0 := v } else { s with ftb1 := v }

def tableBank (w : BitVec 1024) : Nat := wordF w 0 0 0
def tableLength (w : BitVec 1024) : Nat := wordF w 0x10 31 0

/-- The CRC and the reserved bits of a table-load descriptor (R229). -/
def tableDescOk (w : BitVec 1024) : Bool :=
  crc32c (leBytes 60 w.toNat) == wordF w 0x3C 31 0 && wordF w 0 31 1 == 0 && wordF w 4 31 0 == 0 && wordF w 8 63 48 == 0 &&
    wordF w 0x14 31 0 == 0 && wordF w 0x28 63 48 == 0 && wordF w 0x30 31 25 == 0 && wordF w 0x34 63 0 == 0 &&
    bitsOf w.toNat 1023 512 == 0

/-- The identifier that the bytes of an image hold (R408). -/
def tableProfile (im : List Byte) : Nat := leNat (im.take 2)

/-- The check of a table load (R148, R149, R229, R408, R584). -/
def State.checkTable (s : State) (desc : Nat) (w : BitVec 1024) : DescVerdict :=
  let sa := wordF w 0x28 47 0
  let reach := s.reachStatus sa 32 == 0
  let im := wordF w 8 47 0
  if desc % 64 ≠ 0 ∨ !tableDescOk w then ⟨8, !reach || sa % 32 != 0⟩
  else if !reach then ⟨9, true⟩
  else if sa % 32 ≠ 0 then ⟨8, true⟩
  else if im % 64 ≠ 0 then ⟨8, false⟩
  else
    let n := Nat.min (Nat.max (tableLength w) 1) 786432
    let a := s.reachStatus im n
    if a ≠ 0 then ⟨a, false⟩
    else if tableLength w = 0 ∨ 786432 < tableLength w then ⟨9, false⟩
    else
      let b := tableBank w
      let id := tableProfile (s.devRead im (Nat.min 2 n))
      let other := s.ftb (1 - b)
      if 0 < (s.ftb b).pins ∨ id = 0 ∨ id = 0xFFFF ∨
        (other.state = .ready ∧ other.profile = id ∧ digest64 other.image ≠ wordF w 0x18 63 0) then ⟨9, false⟩
      else ⟨0, false⟩

/-- TABLE_LOAD (R148, R229, R371): the entry at the head of its queue starts, or ends without writing. -/
def State.tableStart (s : State) (q : Nat) (e : Staged) : State :=
  let w := BitVec.ofNat 1024 (s.devNat e.desc 128)
  let v := s.checkTable e.desc w
  if v.status ≠ 0 then s.closeEntry q { e with noRecord := v.noRecord } v.status (tableClosing w)
  else if e.dropped then s.closeEntry q e 10 (tableClosing w)
  else
    let im := s.devRead (wordF w 8 47 0) (tableLength w)
    let s := s.setFtb (tableBank w) { s.ftb (tableBank w) with state := .loading, profile := tableProfile im, image := im }
    { (s.onStaged q e.index fun e => { e with word := w, run := w, phase := .running }) with tableLoad := some q }

def execTableLoad (q : Fin 4096) (s : State) : Host.Outcome State Fault Refusal :=
  .next (match s.headEntry q with
    | some e => if !s.gated ∧ e.kind = 2 ∧ e.phase = .fetched ∧ s.tableLoad.isNone ∧ !s.qHalted q then s.tableStart q e else s
    | none => s)

/-- TABLE_LOAD_DONE (R148, R229). -/
def execTableLoadDone (s : State) : Host.Outcome State Fault Refusal :=
  .next (if s.gated then s else match s.tableLoad with
    | none => s
    | some q =>
      match (s.queue q).staged.find? fun e => e.kind == 2 && e.phase == .running with
      | none => { s with tableLoad := none }
      | some e =>
        let b := tableBank e.word
        let ok := digest64 (s.ftb b).image = wordF e.word 0x18 63 0
        let s := s.setFtb b { s.ftb b with state := if ok then .ready else .digestFault }
        ({ s with tableLoad := none } : State).closeEntry q e (if ok then 0 else 7) (tableClosing e.word))

end Sys2Proof.Machine
end

