-- ==== Sys2Proof/Machine/RegField.lean ====
section
/-! DEFINITION. What a write does to a register by the access codes of its fields (R11, R12). -/

namespace Sys2Proof.Machine

/-- The bits of a register with an access code. -/
def RegId.mask (r : RegId) (a : Access) : DWord :=
  r.row.fields.foldl (fun m f => if f.acc = a then m ||| maskBits f.hi f.lo else m) 0

/-- The RW fields of a register take a value; every other bit keeps its own (R11). -/
def State.writeRw (s : State) (r : RegId) (ix : List Nat) (v : DWord) : State :=
  s.setReg r ((s.reg r ix &&& ~~~ r.mask .rw) ||| (v &&& r.mask .rw)) ix

/-- The fields after a write with hardware events in the same cycle: RW stored, W1C cleared where 1 is written, W1S set, and the
events applied after the write, so that an event keeps its flag (R11, R12). -/
def RegId.written (r : RegId) (old v hwSet : DWord) : DWord :=
  (((old &&& ~~~ r.mask .rw) ||| (v &&& r.mask .rw)) &&& ~~~ (v &&& r.mask .w1c)) ||| (v &&& r.mask .w1s) |||
    (hwSet &&& (r.mask .w1c ||| r.mask .w1s))

end Sys2Proof.Machine
end

