-- ==== Sys2Proof/Machine/Contexts.lean ====
section
/-! DEFINITION. Stream contexts: creation and release, admission, deferral and drops, the frame watchdog and the halo guards (R149, R362
to R372, R380, R381, R386 to R395, R472, R499, R503, R530, R538, R548). -/

namespace Sys2Proof.Machine

def State.setCtxState (s : State) (c st : Nat) : State := s.setFld .ctxStatusState st [c]

/-! Creation and release. -/

/-- The loads of a sequencer's contexts that are not idle (R366, R386). -/
def State.loadSum (s : State) (n : Nat) : Nat :=
  ((allCtxs.filter fun c => s.ctxState c != ctxIdle && s.fld .ctxLoadSequencer [c] == n).map fun c => s.fld .ctxLoadLoad [c]).sum

/-- SEQ_LOAD.sum shows the sum, in its 15 bits. -/
def State.showLoad (s : State) (n : Nat) : State := s.setFld .seqLoadSum (s.loadSum n) [n]

/-- The ready bank that holds a profile, the lower one first (R149). -/
def State.profileBank (s : State) (profile : Nat) : Option Nat :=
  [0, 1].find? fun b => decide ((s.ftb b).state = .ready) && (s.ftb b).profile == profile

/-- a less b, taken as a signed 32-bit difference (R362, R367). -/
def sdiff32 (a b : Nat) : Int := toSigned 32 ((a + 2 ^ 32 - b % 2 ^ 32) % 2 ^ 32)

/-- An enabled guard with a step or a deadline of 0 (R395). -/
def State.guardBad (s : State) (c i : Nat) : Bool :=
  s.flag .ctxGuardEnable [c, i] && (s.fld .ctxGuardStep [c, i] == 0 || s.fld .ctxGuardDeadline [c, i] == 0)

/-- A create is refused (R149, R362, R366, R395). -/
def State.createRefused (s : State) (c : Nat) : Bool :=
  let n := s.fld .ctxLoadSequencer [c]
  (s.profileBank (s.fld .ctxCfgProfile [c])).isNone || s.fld .ctxPeriodPeriod [c] == 0 || s.fld .ctxCellsCells [c] == 0 ||
    ((List.range 32).any fun l => s.ctxHas c l && !s.owns n l) ||
    (s.flag .ctxScopeEnable [c] && (s.flag .ctxCfgDepthM1 [c] ||
      decide (4095 < s.fld .ctxScopeBase [c] + s.fld .ctxScopeCountM1 [c]))) ||
    (s.flag .seqLoadCheckEn [n] && decide (s.fld .seqLoadLimit [n] < s.loadSum n + s.fld .ctxLoadLoad [c])) ||
    decide (sdiff32 (s.fld .ctxFirstFrame [c]) (s.fld .sttPositionFrame) < 1) || [0, 1, 2].any (s.guardBad c)

/-- A bank gains or loses a pin (R149). -/
def State.pinBank (s : State) (b : Nat) (up : Bool) : State :=
  s.setFtb b { s.ftb b with pins := if up then (s.ftb b).pins + 1 else (s.ftb b).pins - 1 }

/-- A slot of a reference pool takes a mark, a frame number and a form. -/
def State.setSlot (s : State) (c k mark frame compressed : Nat) : State :=
  ((s.setFld .motPoolMark mark [c, k]).setFld .motPoolFrame frame [c, k]).setFld .motPoolCompressed compressed [c, k]

/-- A context's pool is cleared (R345). -/
def State.clearPool (s : State) (c : Nat) : State := (List.range 8).foldl (fun s k => s.setSlot c k 0 0 0) s

/-- CTX_CREATE (R149, R345, R362). -/
def execCtxCreate (c : Fin 64) (s : State) : Host.Outcome State Fault Refusal :=
  .next (s.hostWriteAt (RegId.addr .ctxCtrl [c]) fun s =>
    if s.ctxState c ≠ ctxIdle then s
    else if s.createRefused c then s.raise .ctxStatusCreateRefused [c]
    else match s.profileBank (s.fld .ctxCfgProfile [c]) with
      | none => s
      | some b =>
        let s := (s.pinBank b true).setCtxState c ctxPending
        let s := s.setCtx c { CtxSt.empty with bank := some b, nextFrame := (s.ctx c).nextFrame }
        ((s.setIng c IngressSt.empty).clearPool c).showLoad (s.fld .ctxLoadSequencer [c]))

/-- CTX_RELEASE (R363). -/
def execCtxRelease (c : Fin 64) (s : State) : Host.Outcome State Fault Refusal :=
  .next (s.hostWriteAt (RegId.addr .ctxCtrl [c]) fun s =>
    if s.ctxState c = ctxActive ∨ s.ctxState c = ctxStalled then s.setCtxState c ctxReleasing else s)

/-- CTX_IDLE (R363). -/
def execCtxIdle (c : Fin 64) (s : State) : Host.Outcome State Fault Refusal :=
  .next (if s.ctxState c = ctxReleasing ∧ (s.ctx c).frames.isEmpty then
      let s := match (s.ctx c).bank with | some b => s.pinBank b false | none => s
      let s := s.setCtx c { CtxSt.empty with nextFrame := (s.ctx c).nextFrame }
      ((s.setFld .ctxStatusDeferred 0 [c]).setCtxState c ctxIdle).showLoad (s.fld .ctxLoadSequencer [c])
    else s)

/-- CTX_RESUME (R370). -/
def execCtxResume (c : Fin 64) (s : State) : Host.Outcome State Fault Refusal :=
  .next (s.hostWriteAt (RegId.addr .ctxCtrl [c]) fun s =>
    if s.ctxState c = ctxStalled then s.setCtxState c ctxActive else s)

/-- The register and copy that a CTX_CFG_WRITE names (R363). -/
def ctxRegOf (c : Nat) : CtxReg → RegId × List Nat
  | .cfg => (.ctxCfg, [c]) | .admitAt => (.ctxAdmit, [c]) | .period => (.ctxPeriod, [c]) | .load => (.ctxLoad, [c])
  | .cells => (.ctxCells, [c]) | .scope => (.ctxScope, [c]) | .first => (.ctxFirst, [c])
  | .guard0 => (.ctxGuard, [c, 0]) | .guard1 => (.ctxGuard, [c, 1]) | .guard2 => (.ctxGuard, [c, 2])

/-- CTX_CFG_WRITE (R363). -/
def execCtxCfgWrite (c : Fin 64) (reg : CtxReg) (val : BitVec 64) (s : State) : Host.Outcome State Fault Refusal :=
  .next (s.hostWriteAt ((ctxRegOf c reg).1.addr (ctxRegOf c reg).2) fun s =>
    if s.ctxState c = ctxIdle then s.writeRw (ctxRegOf c reg).1 (ctxRegOf c reg).2 val else s.raise .ctxStatusCfgRefused [c])

/-! Stall and abandonment (R370, R530). -/

/-- The queues of a context, enabled or not, and the enabled ones in scheduled admission (R215, R219). -/
def State.ctxQueues (s : State) (c : Nat) : List Nat := (List.range 4096).filter fun q => s.qCtx q == c
def State.scheduledQueues (s : State) (c : Nat) : List Nat :=
  (s.ctxQueues c).filter fun q => s.qEnabled q && s.flag .queCfgAdmitMode [q]

/-- The context stalls (R370, R464). -/
def State.stall (s : State) (c : Nat) : State :=
  let s := (s.setCtx c { s.ctx c with deferred := none }).setFld .ctxStatusDeferred 0 [c]
  let s := (s.setCtxState c ctxStalled).fire c
  (s.ctxQueues c).foldl State.haltQueue s

/-- The entries of queue q that meet `p` are abandoned (R530): every cell that runs one ends it as R208 directs, also where it has passed its
END, and commands that wait in a store half leave it. -/
def State.abandonEntries (s : State) (q : Nat) (p : Staged → Bool) : State :=
  let es := (s.queue q).staged.filter fun e => p e && e.kind == 1 && !e.abandoned
  let s := es.foldl (fun s e =>
    let s := s.unload q e
    e.loads.foldl (fun s l => match (s.cell l.1).cmd with
      | some m => if m.queue = q ∧ m.index = e.index then s.endCmd l.1 0 else s
      | none => s) s) s
  (s.onQueue q fun v =>
    { v with staged := v.staged.map fun e => if p e && e.kind == 1 then { e with abandoned := true } else e }).showTokens q

/-- A frame is abandoned (R530). -/
def State.abandonFrame (s : State) (c frame : Nat) : State :=
  let s := (s.ctxQueues c).foldl (fun s q => s.abandonEntries q fun e => e.frame == frame) s
  let s := s.setFrames c ((s.ctx c).frames.filter fun f => f.id != frame)
  let s := if (s.ctx c).hold = some frame then s.setCtx c { s.ctx c with hold := none } else s
  (s.stall c).raise .rcvStatusAbandoned [c] |>.count .rcvCountAbandoned 1 [c]

/-- The oldest frame in flight has not completed after w admission positions (R530). -/
def State.overdue (s : State) (c : Nat) : Option Nat :=
  let v := s.ctx c
  if v.watchdog = 0 then none else
  match v.frames with
  | f :: _ => if v.watchdog ≤ v.positions - f.pos then some f.id else none
  | [] => none

/-- FRAME_WATCHDOG (R530). -/
def execFrameWatchdog (c : Fin 64) (s : State) : Host.Outcome State Fault Refusal :=
  .next (match s.overdue c with
    | some f => s.abandonFrame c f
    | none => s)

/-! Admission (R219, R367 to R372, R401). -/

/-- The tails that an admission takes, of the scheduled queues with entries that no admission has taken (R219, R368). -/
def State.newTails (s : State) (c : Nat) : List (Nat × Nat) :=
  (s.scheduledQueues c).filterMap fun q =>
    if s.fld .queTailTail [q] = (s.queue q).admitted then none else some (q, s.fld .queTailTail [q])

/-- The queues take their tails for a frame (R219, R368, R371). -/
def State.admitTails (s : State) (tails : List (Nat × Nat)) (frame : Nat) (dropped : Bool) : State :=
  tails.foldl (fun s t => s.onQueue t.1 fun v => { v with admits := v.admits ++ [⟨t.2, frame, dropped⟩], admitted := t.2 }) s

/-- The scoped tallies of a context take 0 (R372). -/
def State.resetScope (s : State) (c : Nat) : State :=
  if s.flag .ctxScopeEnable [c] then
    (List.range (s.fld .ctxScopeCountM1 [c] + 1)).foldl (fun s i => s.setTally (s.fld .ctxScopeBase [c] + i) 0) s
  else s

/-- A frame is taken (R368, R372). -/
def State.takeFrame (s : State) (c : Nat) (tails : List (Nat × Nat)) (timing : Bool) (num : Nat) : State :=
  let v := s.ctx c
  let id := v.nextFrame
  let s := s.admitTails tails id false
  let s := s.setCtx c { v with nextFrame := id + 1, taken := v.taken + 1 }
  let s := s.setFrames c ((s.ctx c).frames ++ [⟨id, v.positions, timing, num⟩])
  (s.egressFrame c).resetScope c

/-- The frames that may be in flight (R368). -/
def State.depth (s : State) (c : Nat) : Nat := s.fld .ctxCfgDepthM1 [c] + 1

/-- A command of the context uses a degraded port (R444). -/
def State.degradedUse (s : State) (c : Nat) : Bool :=
  (List.range 24).any fun a => (tabGet portReset s.ports a).degraded && Config.usesPort a c

/-- An admission position with entries takes its frame, defers it, or drops it (R368, R369, R371). -/
def State.admitFrame (s : State) (c : Nat) (tails : List (Nat × Nat)) : State :=
  let num := (s.ing c).next
  let s := s.closeIngress c
  if (s.ctx c).frames.length < s.depth c then
    let late := s.degradedUse c
    (s.takeFrame c tails (!late) num).count .ctxLateTimingLost (b2n late) [c]
  else if s.flag .ctxCfgDropNewest [c] then
    ((s.admitTails tails 0 true).count .ctxCountDropped 1 [c]).openIngress c num
  else
    let s := s.setCtx c { s.ctx c with deferred := some tails }
    ((s.raise .ctxStatusDeferred [c]).count .ctxCountDeferred 1 [c]).count .ctxLateTimingLost 1 [c]

/-- The context becomes active: the base of each guard is recorded (R362, R380). -/
def State.activate (s : State) (c : Nat) : State :=
  let base := [0, 1, 2].map fun i => s.tally (s.fld .ctxGuardTally [c, i])
  (s.setCtx c { s.ctx c with guardBase := base, guardDone := [0, 0, 0], taken := 0 }).setCtxState c ctxActive

/-- What an admission position does once it is not skipped, with the tails it finds (R370, R472, R530, R538). -/
def State.admissionAt (s : State) (c : Nat) (tails : List (Nat × Nat)) : State :=
  let v := s.ctx c
  let s := s.setCtx c { v with
    positions := v.positions + 1, retryEn := s.flag .rcvCfgRetryEn [c], watchdog := s.fld .rcvCfgWatchdog [c] }
  let s := s.egressAdmit c
  match s.overdue c with
  | some f => s.abandonFrame c f
  | none =>
    if s.ctxState c ≠ ctxActive then s
    else if (s.ctx c).deferred.isSome then s.stall c
    else if tails.isEmpty then s
    else s.admitFrame c tails

/-- A cell of the context's set is halted (R548). -/
def State.setHalted (s : State) (c : Nat) : Bool :=
  (List.range 32).any fun l => s.ctxHas c l && match s.cellOf l with | some p => s.halted p | none => false

/-- The station position reads a line and a subline tick: the TCLK cycle that a schedule names (R367, R402, R412). -/
def State.atPosition (s : State) (line subline : Nat) : Bool :=
  s.fld .sttPositionLine == line && s.fld .sttPositionSubline == subline

/-- The station position is at or past a line and subline tick of a station frame (R367). -/
def State.pastPosition (s : State) (frame line subline : Nat) : Bool :=
  let d := sdiff32 (s.fld .sttPositionFrame) frame
  decide (0 < d) || (decide (d = 0) && (decide (line < s.fld .sttPositionLine) ||
    (s.fld .sttPositionLine == line && decide (subline ≤ s.fld .sttPositionSubline))))

/-- This TCLK cycle is an admission position of the context that has not come yet (R362, R367, R384). For video and exposures it is the position
of ADMIT in a station frame, once in each: SEQ_CTX_FIRST's for a pending context, later one whose number is congruent. For audio it is
the first TCLK cycle at or after that position, and from it every PERIOD cycles. Kind 0b11 has none (log entry 38). -/
def State.positionDue (s : State) (c : Nat) : Bool :=
  let f := s.fld .sttPositionFrame
  let first := s.fld .ctxFirstFrame [c]
  let period := s.fld .ctxPeriodPeriod [c]
  let line := s.fld .ctxAdmitLine [c]
  let sub := s.fld .ctxAdmitSubline [c]
  let kind := s.fld .ctxCfgKind [c]
  if s.ctxState c = ctxIdle ∨ kind = 3 then false
  else if kind = 1 then match (s.ctx c).firstAt with
    | none => s.pastPosition first line sub
    | some t => (s.station.tclk - t) % period == 0 && (s.ctx c).posAt != some s.station.tclk
  else s.atPosition line sub && (s.ctx c).posAt != some f &&
    (if s.ctxState c = ctxPending then f == first else f % period == first % period)

/-- The position has come (R362, R367). -/
def State.markPosition (s : State) (c : Nat) : State :=
  let v := s.ctx c
  let now := if s.fld .ctxCfgKind [c] = 1 then s.station.tclk else s.fld .sttPositionFrame
  s.setCtx c { v with posAt := some now, firstAt := match v.firstAt with | some t => some t | none => some now }

/-- The admission is recorded for each scheduled queue (R414, R416). -/
def State.logAdmission (s : State) (c : Nat) (tails : List (Nat × Nat)) : State :=
  let digest := s.ingressDigest c
  tails.foldl (fun s t => s.rrLog 2 t.1 c t.2 digest) s

/-- An admission position comes: a pending context becomes active at it, also where its frame is not taken (R362, R499, R548). -/
def State.reachPosition (s : State) (c : Nat) : State :=
  let s := s.markPosition c
  if s.ctxState c = ctxPending then s.activate c else s

/-- What an admission position that has come takes, or why it takes nothing (R367, R499, R503, R548): a replay takes admissions from its log
(R417). -/
def State.takePosition (s : State) (c : Nat) : State :=
  if s.replaying || s.power.descent then s
  else if !s.inFlow then s.count .pwrCountAdmissionsSkipped 1
  else
    let n := s.fld .ctxLoadSequencer [c]
    if s.seqHalted n || s.setHalted c then s.count .dseqStatusAdmissionsSkipped 1 [n]
    else
      let tails := s.newTails c
      let s := if s.ctxState c = ctxActive then s.logAdmission c tails else s
      s.admissionAt c tails

/-- ADMISSION_POSITION (R362, R367). -/
def execAdmissionPosition (c : Fin 64) (s : State) : Host.Outcome State Fault Refusal :=
  .next (if s.positionDue c then (s.reachPosition c).takePosition c else s)

/-- DEFERRED_FRAME_TAKEN (R369). -/
def execDeferredFrameTaken (c : Fin 64) (s : State) : Host.Outcome State Fault Refusal :=
  .next (match (s.ctx c).deferred with
    | some tails =>
      if s.ctxState c = ctxActive ∧ (s.ctx c).frames.length < s.depth c then
        let s := (s.setCtx c { s.ctx c with deferred := none }).setFld .ctxStatusDeferred 0 [c]
        s.takeFrame c tails false ((s.ing c).next - 1)
      else s
    | none => s)

/-! Guards (R380, R381). -/

/-- The frame taken as number j since activation, where it is still in flight. -/
def CtxSt.frameAt (v : CtxSt) (j : Nat) : Nat := v.nextFrame - v.taken + j

/-- GUARD_CHECK (R380, R381): the guard compares for the next frame that it has not checked. -/
def execGuardCheck (c : Fin 64) (i : Fin 3) (s : State) : Host.Outcome State Fault Refusal :=
  .next (
    let v := s.ctx c
    let j := v.guardDone.getD i 0
    if s.flag .ctxGuardEnable [c, i] ∧ j < v.taken then
      let e := (v.guardBase.getD i 0 + (j + 1) * s.fld .ctxGuardStep [c, i]) % 2 ^ 32
      let s := s.setCtx c { v with guardDone := v.guardDone.set i (j + 1) }
      if reaches (s.tally (s.fld .ctxGuardTally [c, i])) e then s
      else ((s.count .ctxLateLateGuards 1 [c]).raise .ctxStatusGuardLate [c]).clearTimingIf c fun f => f.id == v.frameAt j
    else s)

end Sys2Proof.Machine
end

