-- ==== Sys2Proof/Machine/Rings.lean ====
section
/-! DEFINITION. The job rings of the hub engines: tails, configuration, flush and resume, job start, and completion (R290 to R296, R298,
R321, R324, R334 to R336). -/

namespace Sys2Proof.Machine

/-- The fields of a ring of each engine (R294, R295). -/
structure RingFlds where
  base : Fld
  enable : Fld
  log2 : Fld
  fault : Fld
  tail : Fld
  head : Fld
  halted : Fld
  cfgRefused : Fld
  tailRefused : Fld
  last : Fld
  deriving DecidableEq, Repr

def ringFlds : RingEngine → RingFlds
  | .bce => ⟨.bceRingBaseBase, .bceRingCfgEnable, .bceRingCfgLog2Size, .bceRingCfgFaultTally, .bceRingTailTail, .bceRingHeadHead,
      .bceRingStatusHalted, .bceRingStatusCfgRefused, .bceRingStatusTailRefused, .bceRingStatusLastStatus⟩
  | .kcx => ⟨.kcxRingBaseBase, .kcxRingCfgEnable, .kcxRingCfgLog2Size, .kcxRingCfgFaultTally, .kcxRingTailTail, .kcxRingHeadHead,
      .kcxRingStatusHalted, .kcxRingStatusCfgRefused, .kcxRingStatusTailRefused, .kcxRingStatusLastStatus⟩
  | .mot => ⟨.motRingBaseBase, .motRingCfgEnable, .motRingCfgLog2Size, .motRingCfgFaultTally, .motRingTailTail, .motRingHeadHead,
      .motRingStatusHalted, .motRingStatusCfgRefused, .motRingStatusTailRefused, .motRingStatusLastStatus⟩

/-- The number of rings of an engine (R290, R298, R334). -/
def ringCount : RingEngine → Nat
  | .kcx => 16
  | _ => 8

/-- The source code of a completion and of a ring tail in the log (R416). -/
def ringSource : RingEngine → Nat
  | .bce => 1 | .kcx => 2 | .mot => 3

/-- The unit that runs the jobs of a ring: the BCE, the complex, or motion engine n mod 4 (R290, R298, R334). -/
def ringUnit (e : RingEngine) (n : Nat) : Nat :=
  match e with
  | .bce => 0 | .kcx => 1 | .mot => 2 + n % 4

/-- An offset in the block of a ring. -/
def ringAt (e : RingEngine) (n off : Nat) : Nat := (ringFlds e).base.reg.addr [n] + off

/-- The size of a descriptor ring fits (R290, R584). -/
def State.jobRingOk (s : State) (base log2 : Nat) : Bool :=
  decide (4 ≤ log2) && decide (log2 ≤ 12) && s.spanLoadable base (128 * 2 ^ log2)

/-- A new tail of a job ring (R218, R290). -/
def State.writeRingTail (s : State) (e : RingEngine) (n tail : Nat) : State :=
  let f := ringFlds e
  if !reaches tail (s.fld f.tail [n]) || decide (2 ^ s.fld f.log2 [n] < (tail + 2 ^ 32 - s.fld f.head [n]) % 2 ^ 32) ||
      !s.flag f.enable [n] || !s.ready then s.raise f.tailRefused [n]
  else (s.setFld f.tail tail [n]).rrLog 9 (ringSource e * 4096 + n) 0 tail 0

/-- A tail write that arrives live; a replay takes those of its log (R417). -/
def State.liveRingTail (s : State) (e : RingEngine) (n tail : Nat) : State :=
  if s.replaying then s else s.writeRingTail e n tail

/-- BCE_RING_TAIL (R290). -/
def execBceRingTail (n : Fin 8) (tail : BitVec 32) (s : State) : Host.Outcome State Fault Refusal :=
  .next (s.hostTail fun s => s.liveRingTail .bce n tail.toNat)

/-- KCX_RING_TAIL (R298). -/
def execKcxRingTail (n : Fin 16) (tail : BitVec 32) (s : State) : Host.Outcome State Fault Refusal :=
  .next (s.hostTail fun s => s.liveRingTail .kcx n tail.toNat)

/-- MOT_RING_TAIL (R334). -/
def execMotRingTail (n : Fin 8) (tail : BitVec 32) (s : State) : Host.Outcome State Fault Refusal :=
  .next (s.hostTail fun s => s.liveRingTail .mot n tail.toNat)

/-- A write of a ring's configuration (R290, R294): while enabled only enable may change; an enable whose ring or size is out of
bounds is refused as R216 gives. -/
def State.writeRingCfg (s : State) (e : RingEngine) (n v : Nat) : State :=
  let f := ringFlds e
  let on := bitOf v 31
  if s.flag f.enable [n] then
    if bitsOf v 30 27 ≠ s.fld f.log2 [n] ∨ bitsOf v 11 0 ≠ s.fld f.fault [n] then s.raise f.cfgRefused [n]
    else s.setFld f.enable (b2n on) [n]
  else if on && !s.jobRingOk (s.fld f.base [n] * 64) (bitsOf v 30 27) then s.raise f.cfgRefused [n]
  else ((s.setFld f.enable (b2n on) [n]).setFld f.log2 (bitsOf v 30 27) [n]).setFld f.fault (bitsOf v 11 0) [n]

/-- RING_CFG_WRITE (R294): only the complex has rings 8 to 15. -/
def execRingCfgWrite (e : RingEngine) (n : Fin 16) (val : BitVec 32) (s : State) : Host.Outcome State Fault Refusal :=
  .next (s.hostWriteAt (ringAt e n 0x8) fun s =>
    if (n : Nat) < ringCount e then s.writeRingCfg e n val.toNat else s)

/-- RING_FLUSH (R243). -/
def execRingFlush (e : RingEngine) (n : Fin 16) (s : State) : Host.Outcome State Fault Refusal :=
  .next (s.hostWriteAt (ringAt e n 0x18) fun s =>
    let f := ringFlds e
    if (n : Nat) < ringCount e ∧ s.flag f.halted [n] then s.setFld f.head (s.fld f.tail [n]) [n] else s)

/-- RING_RESUME (R243). -/
def execRingResume (e : RingEngine) (n : Fin 16) (s : State) : Host.Outcome State Fault Refusal :=
  .next (s.hostWriteAt (ringAt e n 0x18) fun s =>
    let f := ringFlds e
    if (n : Nat) < ringCount e ∧ s.flag f.halted [n] then s.setFld f.halted 0 [n] else s)

/-! Jobs. -/

/-- The running job of an engine unit. -/
def State.job (s : State) (u : Nat) : Option JobSt := tabGet jobReset s.jobs u
def State.setJob (s : State) (u : Nat) (j : Option JobSt) : State := { s with jobs := tabSet jobReset s.jobs u j }

/-- The descriptor at the head of a ring. -/
def State.headDesc (s : State) (e : RingEngine) (n : Nat) : BitVec 1024 :=
  let f := ringFlds e
  BitVec.ofNat 1024 (s.devNat (s.fld f.base [n] * 64 + 128 * (s.fld f.head [n] % 2 ^ s.fld f.log2 [n])) 128)

/-- The wait condition of a descriptor (R205): the BCE holds its words at 0x28, the others at 0x50. -/
def State.jobWaits (s : State) (e : RingEngine) (w : BitVec 1024) : Bool :=
  let o := match e with | .bce => 0x28 | _ => 0x50
  !reaches (s.tally (wordF w o 11 0)) (wordF w (o + 4) 31 0)

/-- A job descriptor passes its CRC (R291, R321, R335). -/
def jobCrcOk (w : BitVec 1024) : Bool :=
  let bs := leBytes 128 w.toNat
  crc32c (bs.take 60 ++ bs.drop 64) == wordF w 0x3C 31 0

/-- A ring holds a head job that may be looked at: enabled, not halted, not empty, in Flow, its engine idle (R290, R499). -/
def State.ringLive (s : State) (e : RingEngine) (n : Nat) : Bool :=
  let f := ringFlds e
  s.inFlow && s.flag f.enable [n] && !s.flag f.halted [n] && decide (s.fld f.head [n] ≠ s.fld f.tail [n]) &&
    (s.job (ringUnit e n)).isNone

/-- The head job of a ring is ready (R290): its descriptor fails its CRC, so that it can hold no wait, or its wait is met. -/
def State.ringReady (s : State) (e : RingEngine) (n : Nat) : Bool :=
  s.ringLive e n && (!jobCrcOk (s.headDesc e n) || !s.jobWaits e (s.headDesc e n))

/-- The lowest ready ring of the unit that serves ring n is n itself (R290, R298, R334). -/
def State.ringFirst (s : State) (e : RingEngine) (n : Nat) : Bool :=
  s.ringReady e n && (List.range n).all fun m => ringUnit e m != ringUnit e n || !s.ringReady e m

/-- An address of a job lies in hub store, tier 1 or tier 2 (R291, R334). -/
def Place.engineSide : Place → Bool
  | .tier1 _ | .tier2 | .hub => true
  | _ => false

/-- A span of device memory lies in one range without a hole: both ends lie in one place, or in tier-1 regions that follow one
another without a hole (R247). -/
def State.spanWhole (s : State) (a n : Nat) : Bool :=
  match s.place a, s.place (a + n - 1) with
  | .hole, _ => false
  | .tier1 x, .tier1 y => x == y || decide (s.part.grade = .evs9410)
  | .tier3 x _, .tier3 y _ => x == y
  | .window x _, .window y _ => x == y
  | x, y => x == y

/-- What a span of a job finds, for the memory that `ok` admits: 0x08 for a hole, 0x09 for another level, else 0. -/
def State.spanStatus (s : State) (ok : Place → Bool) (a n : Nat) : Nat :=
  if n = 0 then 0 else if !s.spanWhole a n then 8 else if ok (s.place a) then 0 else 9

/-- The bits of a descriptor that must be 0, as (offset, high bit, low bit). -/
def bitsClear (w : BitVec 1024) (l : List (Nat × Nat × Nat)) : Bool := l.all fun f => wordF w f.1 f.2.1 f.2.2 == 0

/-- Two spans share a byte. -/
def spansMeet (a b : Nat × Nat) : Bool := decide (a.1 < b.1 + b.2) && decide (b.1 < a.1 + a.2)

/-- The worst of several verdicts: a hole before a refusal. -/
def worstOf (l : List Nat) : Nat := if l.contains 8 then 8 else if l.contains 9 then 9 else 0

/-- The record address of a descriptor (R291, R293): where the record can go, and the verdict on it. -/
def State.recordStatus (s : State) (w : BitVec 1024) : Nat :=
  let a := wordF w 0x40 47 0
  if a % 32 ≠ 0 then 9 else s.spanStatus Place.engineSide a 32

/-- A job leaves its ring and runs (R290): `status`, `body` and `cycles` are what its completion will report. -/
def State.takeJob (s : State) (e : RingEngine) (n status : Nat) (body : List Byte) (cycles : Nat) (w : BitVec 1024) : State :=
  let f := ringFlds e
  let i := s.fld f.head [n]
  (s.setFld f.head ((i + 1) % 2 ^ 32) [n]).setJob (ringUnit e n)
    (some ⟨n, i, w, status, body, cycles, s.recordStatus w != 0⟩)

/-- Whether a status halts the ring (R293, R324, R336). -/
def jobHalts (e : RingEngine) (status : Nat) : Bool :=
  match e with
  | .bce => status != 0
  | .kcx => [0x08, 0x09, 0x11, 0x16, 0x18].contains status
  | .mot => [0x08, 0x09].contains status

/-- The 32-byte record of a job (R293, R324, R336). -/
def JobSt.record (j : JobSt) : List Byte :=
  ((leBytes 128 j.desc.toNat).drop 0x48).take 8 ++ leBytes 4 (j.ring * 256 + j.status) ++ leBytes 4 j.index ++ j.body

/-- The done tally of a descriptor and its increment. -/
def jobDone (e : RingEngine) (w : BitVec 1024) : Nat × Nat :=
  let o := match e with | .bce => 0x30 | _ => 0x58
  (wordF w o 11 0, wordF w o 24 12 + 1)

/-- The end of a job (R293, R324, R336, R414, R418): the record, last_status, the done tally, or the fault tally and the halt. -/
def State.completeJob (s : State) (e : RingEngine) (j : JobSt) : State :=
  let f := ringFlds e
  let s := if j.noRecord then s else s.devWrite (wordF j.desc 0x40 47 0) j.record
  let s := (s.setFld f.last j.status [j.ring]).setJob (ringUnit e j.ring) none
  let s := s.rrCompletion (ringSource e * 4096 + j.ring) j.index (leNat ((j.record.drop 8).take 8)) j.cycles
  if jobHalts e j.status then
    ((s.raise f.halted [j.ring]).signalTally none (s.fld f.fault [j.ring]) 1).alert 2
  else s.signalTally none (jobDone e j.desc).1 (jobDone e j.desc).2

/-- The completion step of ring n: the job that runs on its engine ends; where none runs and the head descriptor is faulty, that
descriptor is taken and completes with its status. The manual gives no position and no run_cycles of such a job: free
values, which `body` takes in that order. -/
def State.jobComplete (s : State) (e : RingEngine) (n : Nat) (verdict : State → BitVec 1024 → Nat) (body : Nat → Nat → List Byte)
    (count : State → Nat → State) : State :=
  match s.job (ringUnit e n) with
  | some j => if j.ring = n then count (s.completeJob e j) j.status else s
  | none =>
    let w := s.headDesc e n
    let v := verdict s w
    if s.ringFirst e n ∧ v ≠ 0 then
      let d := s.draw
      let t := d.2.draw
      let s := t.2.takeJob e n v (body (d.1.toNat % 2 ^ 32) (t.1.toNat % 2 ^ 32)) (t.1.toNat % 2 ^ 32) w
      match s.job (ringUnit e n) with
      | some j => count (s.completeJob e j) j.status
      | none => s
    else s

end Sys2Proof.Machine
end

