-- ==== Sys2Proof/Machine/Tree.lean ====
section
/-! DEFINITION. Shodo ports as word carriers, and the barrier tree over them: control words, combined arrivals and releases
(R35, R412, R413, R437, R439, R442, R458). -/

namespace Sys2Proof.Machine

def State.port (s : State) (a : Nat) : PortSt := tabGet portReset s.ports a
def State.setPort (s : State) (a : Nat) (v : PortSt) : State := { s with ports := tabSet portReset s.ports a v }

/-- The states of a port (R457). -/
def portDark : Nat := 0
def portTraining : Nat := 1
def portReadySt : Nat := 2
def portPeerNot : Nat := 3
def portDegraded : Nat := 4
def portDown : Nat := 5

def State.portState (s : State) (a : Nat) : Nat := s.fld .portStatusState [a]
def State.setPortState (s : State) (a v : Nat) : State := s.setFld .portStatusState v [a]

/-- A port that carries words: trained, whatever its peer reports. -/
def State.portUp (s : State) (a : Nat) : Bool :=
  s.portState a == portReadySt || s.portState a == portPeerNot || s.portState a == portDegraded

/-- A port on which the module may send flits and barrier arrivals (R442). -/
def State.portSends (s : State) (a : Nat) : Bool := s.portUp a && (s.port a).peerReady

/-- A word leaves on a port, numbered in sequence (R437), in a control slot of its own (log entry 69). -/
def State.sendWord (s : State) (a type chan args : Nat) (data : List Byte) : State :=
  let n := (s.port a).seq
  let s := s.setPort a { s.port a with seq := n + 1 }
  { s with portOut := s.portOut ++ [⟨a, n % 65536, type, chan, args, data⟩] }

/-- The 16 bytes of a control word (R437). -/
def PortWord.bytes (w : PortWord) : List Byte :=
  let l := leBytes 2 w.seq ++ leBytes 1 w.type ++ leBytes 1 w.chan ++ leBytes 10 w.args
  l ++ leBytes 2 (crc16 l)

/-! The tree in force (R439, R458). -/

def BarrierSt.position (b : BarrierSt) : Nat := bitsOf b.node 15 12
def BarrierSt.floe (b : BarrierSt) : Nat := bitsOf b.node 31 16
def BarrierSt.horizon (b : BarrierSt) : Nat := bitsOf b.node 10 0
def BarrierSt.parent (b : BarrierSt) : Nat := bitsOf b.tree 31 27
def BarrierSt.isRoot (b : BarrierSt) : Bool := b.parent == 31

/-- The child ports: a port whose peer carries another floe_id takes no part (R439). -/
def State.childPorts (s : State) : List Nat :=
  (List.range 24).filter fun a => bitOf s.barrier.tree a && (s.port a).floe == s.barrier.floe

/-- The module's listed settings other than stepping (R2, R413). -/
def State.settings (s : State) : Settings :=
  ⟨BitVec.ofNat 16 (s.part.identity / 65536), BitVec.ofNat 16 (s.fld .hubProfileActiveId), BitVec.ofNat 16 (s.fld .pwrClockPlanPlanId),
    BitVec.ofNat 16 (s.fld .pwrPowerPlanPlanId)⟩

/-- A port of the barrier tree in force (R439). -/
def State.inTree (s : State) (a : Nat) : Bool := bitOf s.barrier.tree a || bitsOf s.barrier.tree 31 27 == a

/-! Words (R437). -/

/-- The arguments of an arrival: positions, then the settings that an arrival of fabric start carries, else zeros (R413, log entry 49). -/
def arrivalArgs (members : Nat) : Option Settings → Nat
  | some v =>
    members % 65536 + 2 ^ 16 * v.device.toNat + 2 ^ 32 * v.profile.toNat + 2 ^ 48 * v.clockPlan.toNat + 2 ^ 64 * v.powerPlan.toNat
  | none => members % 65536

/-- The arguments of a release: frame number, refused positions, and the path delay from the root to its sender. -/
def releaseArgs (frame refused above : Nat) : Nat := frame % 2 ^ 32 + 2 ^ 32 * (refused % 65536) + 2 ^ 48 * (above % 2048)

def State.sendArrival (s : State) (members : Nat) (v : Option Settings) : State := s.sendWord s.barrier.parent 2 0 (arrivalArgs members v) []

/-- The release travels down every child port (R439). -/
def State.sendRelease (s : State) (frame refused above : Nat) : State :=
  (s.childPorts.filter s.portUp).foldl (fun s a => s.sendWord a 3 0 (releaseArgs frame refused above) []) s

/-! Combining (R412, R413, R439, R442). -/

/-- The positions of a list of arrivals. -/
def membersOf (l : List Arrival) : Nat := l.foldl (fun n a => n ||| a.members) 0

/-- The settings that the module's own arrival carries: at its fabric start, the first barrier after training, they are listed (R413). -/
def State.ownSettings (s : State) : Option Settings := if s.barrier.fresh then some s.settings else none

/-- The parent port takes part in the tree, and arrivals may go up on it (R439, R442). -/
def State.parentSends (s : State) : Bool :=
  let a := s.barrier.parent
  !s.barrier.isRoot && s.portSends a && (s.port a).floe == s.barrier.floe

/-- A fabric start waits until every port that FAB_TREE names is ready (R442). -/
def State.startReady (s : State) : Bool :=
  !s.barrier.fresh || ((List.range 24).filter s.inTree).all s.portSends

/-- A module other than the root sends one combined arrival once it holds its own and those of every child port that leads to a module in
service, which is one whose port is ready (R439). Arrivals that carry other settings than its own go up beside it, so that the root sees
every module's. -/
def State.combineUp (s : State) : State :=
  let b := s.barrier
  if b.own && !b.up && (s.childPorts.filter s.portSends).all (fun a => b.arrivals.any (·.port == a)) && s.parentSends && s.startReady then
    let same := b.arrivals.filter (·.settings == s.ownSettings)
    let others := b.arrivals.filter (·.settings != s.ownSettings)
    let s1 := { s with barrier := { b with up := true, arrivals := [] } }
    let s1 := s1.sendArrival (2 ^ b.position ||| membersOf same) s.ownSettings
    others.foldl (fun s a => s.sendArrival a.members a.settings) s1
  else s

/-- The root holds the arrivals of every module in service (R412, R439). -/
def State.mayRelease (s : State) : Bool :=
  let b := s.barrier
  let here := 2 ^ b.position ||| membersOf b.arrivals
  b.own && b.release.isNone && b.members &&& here == b.members && s.startReady

/-- The positions refused from this release on: a module at its fabric start whose settings differ from the root's; one refused before stays
refused until its next fabric start, and at the root's own fabric start none is refused before (R35, R413). -/
def State.refusedNow (s : State) : Nat :=
  let b := s.barrier
  let before := if b.fresh then 0 else b.refused
  let starting := membersOf (b.arrivals.filter (·.settings.isSome))
  let differ := membersOf (b.arrivals.filter fun a => match a.settings with | some v => v != s.settings | none => false)
  (before ^^^ (before &&& starting)) ||| differ

/-- The root releases (R412, R413, R439). -/
def State.releaseAll (s : State) : State :=
  let refused := s.refusedNow
  let frame := s.fld .sttPositionFrame
  let s := { s with barrier := { s.barrier with arrivals := [], refused := refused, release := some frame } }
  let s := (s.setFld .fabTreeStatusRootDelay 0).setFld .fabTreeStatusHorizonShort 0
  s.sendRelease frame refused 0

/-- The barrier goes on as far as it can. -/
def State.barrierGo (s : State) : State :=
  if s.barrier.isRoot then (if s.mayRelease then s.releaseAll else s) else s.combineUp

end Sys2Proof.Machine
end

