-- ==== Sys2Proof/Machine/Ports.lean ====
section
/-! DEFINITION. Shodo ports and channels: light, training, lanes, segments and control words (R429 to R445, R456 to R459, R532). -/

namespace Sys2Proof.Machine

def State.chan (s : State) (c : Nat) : ChanSt := tabGet chanReset s.chans c
def State.setChan (s : State) (c : Nat) (v : ChanSt) : State := { s with chans := tabSet chanReset s.chans c v }

/-! Light (R429, R440, R452, R453). -/

/-- The states of a laser module (R460). -/
def lasAbsent : Nat := 0
def lasIdentity : Nat := 1
def lasService : Nat := 2
def lasCross : Nat := 3
def lasHanding : Nat := 4
def lasReleased : Nat := 5
def lasFailed : Nat := 6

def State.lasState (s : State) (m : Nat) : Nat := s.fld .lasStatusState [m]

/-- A laser module's primary output is lit by its state (R447, R450). -/
def State.lasLit (s : State) (m : Nat) : Bool := s.lasState m == lasService || s.lasState m == lasCross || s.lasState m == lasHanding

/-- The partner of a laser module, and the module that is primary for an engine (R429). -/
def partner (m : Nat) : Nat := if m % 2 = 0 then m + 1 else m - 1
def primaryOf (e : Nat) : Nat := 2 * (e / 4) + e % 4 / 2

/-- Optical and laser domains are on at full bias: in Flow and Slush, once bring-up has lit them (R473, R496). -/
def State.opticsOn (s : State) : Bool := decide (s.fld .pwrStateCurrent ≤ 1) && s.flag .hubReadyOptics

/-- Light reaches an engine (R429, R452, R453). -/
def State.engineLit (s : State) (e : Nat) : Bool :=
  s.opticsOn && !s.shutters.contains e && (s.lasLit (primaryOf e) || s.lasState (partner (primaryOf e)) == lasCross)

/-- A port's engine may run: lit, and not parked (R456). -/
def State.portLit (s : State) (a : Nat) : Bool := s.engineLit a && s.flag .portCtrlEnable [a]

/-- The lanes that carry their role (R444, R457): all but the failed ones. -/
def PortSt.lanes (v : PortSt) : Nat := 255 - (v.failed.map fun l => 2 ^ l).sum

/-- A port trains or relocks (R440, R441): nothing more is sent or received until it is ready again. The first barrier after training
is a fabric start (R413). -/
def State.trainPort (s : State) (a : Nat) (full : Bool) : State :=
  let v := s.port a
  let s := s.setPort a { v with
    peerReady := false, spare := none, got := none
    failed := if full then [] else v.failed
    due := !full && v.due
    degraded := !full && v.degraded }
  let s := (s.setPortState a portTraining).setFld .portStatusLanesUp 0 [a]
  if !full then s else
  let s := s.setFld .portStatusSpareUsed 0 [a]
  if s.inTree a then ({ s with barrier := { s.barrier with fresh := true } } : State).setFld .barrierStatusFabricStarted 0 else s

/-- A port goes dark (R440, R456). -/
def State.darkenPort (s : State) (a : Nat) : State :=
  let s := s.setPort a { s.port a with peerReady := false, spare := none }
  (s.setPortState a portDark).setFld .portStatusLanesUp 0 [a]

/-- A port follows its light (R440): a dark one that is lit trains, with stored settings unless it is `full`, and one that has no light goes
dark. -/
def State.followLight (s : State) (full : Bool) (a : Nat) : State :=
  if s.portLit a then (if s.portState a = portDark then s.trainPort a full else s)
  else if s.portState a = portDark then s else s.darkenPort a

/-- Every port follows its light, and a barrier that waited for one that is gone goes on (R439). -/
def State.lightPorts (s : State) (full : Bool) : State := ((List.range 24).foldl (State.followLight · full) s).barrierGo

/-- A port relocks from stored settings, where it is up (R441): one that is down needs a full training. -/
def State.relockPort (s : State) (a : Nat) : State := if s.portUp a then s.trainPort a false else s

/-- A received word takes effect where the port is up (R437, R441): a sequence already acted on is discarded, and one that skips is a fault. The
first word after training or a relock sets the sequence (log entry 69). -/
def State.takeWord (s : State) (a : Nat) (seq : BitVec 16) (act : State → State) : State :=
  if !s.portUp a then s else
  let ahead := match (s.port a).got with
    | some l => (seq.toNat + 65536 - l) % 65536
    | none => 1
  if ahead = 1 then act (s.setPort a { s.port a with got := some seq.toNat })
  else if ahead = 0 ∨ 32768 ≤ ahead then s
  else ((s.count .portCountCtrlFaults 1 [a]).relockPort a).barrierGo

/-! Training and lanes (R441 to R444). -/

/-- FAB_PORT_ENABLE (R456): 0 parks the port; 1 lets it train. -/
def execFabPortEnable (a : Fin 24) (enable : Bool) (s : State) : Host.Outcome State Fault Refusal :=
  .next (s.hostWriteAt (RegId.addr .portCtrl [a]) fun s =>
    ((s.setFld .portCtrlEnable (b2n enable) [a]).followLight true a).barrierGo)

/-- PORT_RETRAIN (R441). -/
def execPortRetrain (a : Fin 24) (s : State) : Host.Outcome State Fault Refusal :=
  .next (s.hostWriteAt (RegId.addr .portCtrl [a]) fun s =>
    if s.portState a = portDark then s else (s.trainPort a true).barrierGo)

/-- The receive channels of a port with the segments that each has completed, as its ready-state words carry them (R532). -/
def State.recvCounts (s : State) (a : Nat) : List Byte :=
  ((List.range 256).filter fun c => s.flag .chanCfgEnable [c] && s.flag .chanCfgRole [c] && s.fld .chanCfgPort [c] == a).flatMap fun c =>
    leBytes 1 c ++ leBytes 2 (s.chan c).done

/-- A ready-state word goes out (R442, R532). -/
def State.sendReady (s : State) (a : Nat) : State := s.sendWord a 4 0 (b2n s.ready) (s.recvCounts a)

/-- The state of a trained port by its lanes and by what its peer reports (R442, R444, R457). -/
def State.showPort (s : State) (a : Nat) : State :=
  let v := s.port a
  s.setPortState a (if 3 ≤ v.failed.length then portDown else if !v.peerReady then portPeerNot else if v.degraded then portDegraded else portReadySt)

/-- The two ends agree on the port frame at which lane 7 takes over a lane, at least 64 frames ahead (R444). -/
def State.askSpare (s : State) (a lane : Nat) : State := s.sendWord a 6 lane 64 []

/-- A data lane that waits for the spare is asked for again after a relock (R441, R444). -/
def State.askAgain (s : State) (a : Nat) : State :=
  match (s.port a).failed with
  | [l] => if l < 7 ∧ !s.flag .portStatusSpareUsed [a] then s.askSpare a l else s
  | _ => s

/-- PORT_READY (R440): training or relock completes; a barrier arrival that waited for the port goes before the ready-state word (R437). -/
def execPortReady (a : Fin 24) (peerFloe : BitVec 16) (peerPos : BitVec 4) (peerPort : BitVec 5) (latency : BitVec 11) (peerReady : Bool)
    (s : State) : Host.Outcome State Fault Refusal :=
  .next (if s.portState a = portTraining ∧ s.portLit a then
      let s := s.setPort a { s.port a with peerReady := peerReady, floe := peerFloe.toNat }
      let s := ((s.setFld .portStatusPeerPosition peerPos.toNat [a]).setFld .portStatusPeerPort peerPort.toNat [a]).setFld
        .portStatusLatency latency.toNat [a]
      let s := (s.setFld .portStatusLanesUp (s.port a).lanes [a]).showPort a
      if s.portUp a then ((s.barrierGo).askAgain a).sendReady a else s
    else s)

/-- The send channels that are enabled on a port, by rising channel (R432). -/
def State.sendChans (s : State) (a : Nat) : List Nat :=
  (List.range 256).filter fun c => s.flag .chanCfgEnable [c] && !s.flag .chanCfgRole [c] && s.fld .chanCfgPort [c] == a

/-- A channel resumes at the first segment that its peer has not completed (R532). -/
def State.resumeChan (s : State) (c completed : Nat) : State :=
  let v := s.chan c
  let back := (v.done + 65536 - completed) % 65536
  if back ≤ v.done then (s.setChan c { v with done := v.done - back }).setFld .chanStatusSegments ((v.done - back) % 65536) [c] else s

/-- READY_STATE (R442, R532): `completed` gives the segments that the peer has completed for each send channel of the port, in channel order;
a channel resumes at the first that it has not. -/
def execReadyState (src : WordFrom) (ready : Bool) (completed : List (BitVec 16)) (s : State) : Host.Outcome State Fault Refusal :=
  .next (s.takeWord src.port src.seq fun s =>
    let s := (s.setPort src.port { s.port src.port with peerReady := ready }).showPort src.port
    (((s.sendChans src.port).zip completed).foldl (fun s e => s.resumeChan e.1 e.2.toNat) s).barrierGo)

/-- CALIBRATION_REPORT (R443): the report of a lane is kept for the engine's task-3 window. -/
def execCalibrationReport (src : WordFrom) (lane : Fin 8) (report : BitVec 80) (s : State) : Host.Outcome State Fault Refusal :=
  .next (s.takeWord src.port src.seq fun s =>
    let v := s.port src.port
    s.setPort src.port { v with reports := tabSet (fun _ => 0) v.reports lane report })

/-- SPARE_SWITCH (R444): the agreed port frame. -/
def execSpareSwitch (src : WordFrom) (lane : Fin 8) (frame : Nat) (s : State) : Host.Outcome State Fault Refusal :=
  .next (s.takeWord src.port src.seq fun s =>
    if (lane : Nat) < 7 ∧ !s.flag .portStatusSpareUsed [(src.port : Nat)] then
      s.setPort src.port { s.port src.port with spare := some (lane, frame) }
    else s)

/-- SPARE_SWITCH_TAKE (R444): lane 7 takes the lane's role, and the spare stands in from here on. -/
def execSpareSwitchTake (a : Fin 24) (s : State) : Host.Outcome State Fault Refusal :=
  .next (match (s.port a).spare with
    | none => s
    | some (lane, _) =>
      let v := s.port a
      let v := { v with spare := none, failed := if v.failed.contains lane then v.failed else v.failed ++ [lane] }
      ((s.setPort a v).raise .portStatusSpareUsed [a]).setFld .portStatusLanesUp v.lanes [a])

/-- A lane fails (R441, R444): the first data lane is spared, the second degrades the port, the third takes it down. A lane that keeps its lock
keeps its role until the spare or the degraded port takes it over (R457). -/
def State.failLane (s : State) (a lane : Nat) (lost : Bool) : State :=
  let v := s.port a
  if v.failed.contains lane then s
  else
    let v := { v with failed := v.failed ++ [lane] }
    let up := s.fld .portStatusLanesUp [a]
    let s := s.setPort a v
    let s := if lost then s.setFld .portStatusLanesUp (up ^^^ (up &&& 2 ^ lane)) [a] else s
    if 3 ≤ v.failed.length then (s.setFld .portStatusLanesUp v.lanes [a]).setPortState a portDown
    else if v.failed.length = 1 then
      if lane = 7 then s else s.askSpare a lane
    else
      let s := s.setPort a { v with due := true }
      if lost then s.relockPort a else s

/-- LANE_FAILURE (R444, R458): `symbols` failed alignment symbols in the frame, 0 for a lost lock; 16 or fewer are counted only. -/
def execLaneFailure (a : Fin 24) (lane : Fin 8) (symbols : BitVec 16) (s : State) : Host.Outcome State Fault Refusal :=
  .next (
    let n := symbols.toNat
    let s := s.count .portCountSymbolErrors n [a]
    if !s.portUp a ∨ (0 < n ∧ n ≤ 16) then s else (s.failLane a lane (n == 0)).barrierGo)

/-- PORT_DEGRADE (R444): from the frame boundary; the flags of frames of the contexts that use the port. -/
def execPortDegrade (a : Fin 24) (s : State) : Host.Outcome State Fault Refusal :=
  .next (
    let v := s.port a
    if v.due ∧ s.station.boundary then
      let s := (s.setPort a { v with due := false, degraded := true }).setFld .portStatusLanesUp v.lanes [a]
      let s := if s.portUp a then s.showPort a else s
      (allCtxs.filter (Config.usesPort a)).foldl State.clearCtxTiming s
    else s)

/-- CONTROL_WORD_FAULT (R437, R441): a port that is not up receives no word. -/
def execControlWordFault (a : Fin 24) (s : State) : Host.Outcome State Fault Refusal :=
  .next (if s.portUp a then ((s.count .portCountCtrlFaults 1 [a]).relockPort a).barrierGo else s)

/-! Channels (R432 to R436, R459). -/

/-- The slots of a port (R432, R444). -/
def State.slotsOf (s : State) (a : Nat) : Nat := if (s.port a).degraded then 46 else 54

/-- The share of a channel, less when its port is degraded (R444). -/
def State.shareOf (s : State) (c : Nat) : Nat :=
  let n := s.fld .chanCfgShare [c]
  if (s.port (s.fld .chanCfgPort [c])).degraded then n * 46 / 54 else n

/-- The bytes of a segment, and the address of segment j (R433). -/
def State.segBytes (s : State) (c : Nat) : Nat := (s.fld .chanSegFlitsM1 [c] + 1) * 64
def State.segAt (s : State) (c j : Nat) : Nat :=
  s.fld .chanBufBase [c] * 64 + j % (s.fld .chanSegCountM1 [c] + 1) * s.segBytes c

/-- The buffer lies wholly in hub store or tier 1 (R432). -/
def State.chanBufOk (s : State) (c : Nat) : Bool :=
  let a := s.fld .chanBufBase [c] * 64
  let n := (s.fld .chanSegCountM1 [c] + 1) * s.segBytes c
  s.spanWhole a n && match s.place a with | .hub => true | .tier1 _ => true | _ => false

/-- A port whose other end is itself (R432). -/
def State.looped (s : State) (a : Nat) : Bool :=
  s.portUp a && (s.port a).floe == s.barrier.floe && s.fld .portStatusPeerPosition [a] == s.barrier.position &&
    s.fld .portStatusPeerPort [a] == a

/-- An enable is refused (R432); a port above 23 does not exist. -/
def State.enableRefused (s : State) (c v : Nat) : Bool :=
  let a := bitsOf v 29 25
  let shares := ((s.sendChans a).filter (· != c)).map fun k => s.fld .chanCfgShare [k]
  decide (23 < a) || (!bitOf v 30 && decide (s.slotsOf a < shares.sum + bitsOf v 24 19)) || !s.chanBufOk c ||
    (bitsOf v 18 11 == c && s.looped a)

/-- CHANNEL_ENABLE (R432, R433, R459): `val` is the value written to FAB_CHAN_CFG. -/
def execChannelEnable (c : Fin 256) (val : BitVec 32) (s : State) : Host.Outcome State Fault Refusal :=
  .next (s.hostWriteAt (RegId.addr .chanCfg [c]) fun s =>
    let v := val.toNat
    if s.flag .chanCfgEnable [c] then
      if bitsOf v 30 11 ≠ getBits (s.reg .chanCfg [c]) 30 11 then s.raise .chanStatusCfgRefused [c]
      else s.setFld .chanCfgEnable (bitsOf v 31 31) [c]
    else if bitOf v 31 then
      if s.enableRefused c v then s.raise .chanStatusCfgRefused [c]
      else
        let s := s.setReg .chanCfg (BitVec.ofNat 64 (bitsOf v 31 11 * 2048)) [c]
        let s := (s.setFld .chanStatusSegments 0 [c]).setFld .chanStatusWaiting 0 [c]
        s.setChan c ⟨s.tally (s.fld .chanTallyTally [c]), 0⟩
    else s.setReg .chanCfg (BitVec.ofNat 64 (bitsOf v 31 11 * 2048)) [c])

/-- Segment j of a send channel is ready (R433). -/
def State.segReady (s : State) (c : Nat) : Bool :=
  reaches (s.tally (s.fld .chanTallyTally [c])) (((s.chan c).base + (s.chan c).done + 1) % 2 ^ 32)

/-- SEGMENT_SEND (R405, R433, R434, R442, R444): a segment that cannot leave waits; one that a forced window holds costs the frames of the
port's contexts their flags. -/
def execSegmentSend (c : Fin 256) (s : State) : Host.Outcome State Fault Refusal :=
  .next (
    let a := s.fld .chanCfgPort [c]
    let v := s.chan c
    if s.flag .chanCfgEnable [c] ∧ !s.flag .chanCfgRole [c] ∧ s.segReady c then
      if s.forcedOn 3 a then
        (allCtxs.filter (Config.usesPort a)).foldl State.clearCtxTiming (s.raise .chanStatusWaiting [c])
      else if s.portSends a ∧ s.opticsOn ∧ s.fld .pwrStateCurrent = 0 ∧ 0 < s.shareOf c then
        let s := s.sendWord a 1 (s.fld .chanCfgPeer [c]) (s.fld .chanSegFlitsM1 [c]) (s.devRead (s.segAt c v.done) (s.segBytes c))
        ((s.setChan c { v with done := v.done + 1 }).setFld .chanStatusSegments ((v.done + 1) % 65536) [c]).setFld
          .chanStatusWaiting 0 [c]
      else s.raise .chanStatusWaiting [c]
    else s)

/-- A Shodo arrival or a release changes a tally (R235, R399, R434): recorded; a replay takes it from its log (R417). -/
def State.arriveTally (s : State) (t kind inc : Nat) : State :=
  if s.replaying then s else (s.rrLog 4 t kind inc 0).addTally t inc

/-- SEGMENT_COMPLETE (R434, R436). A port that is not up loses what was on it (R441). -/
def execSegmentComplete (c : Fin 256) (seq : BitVec 16) (g : Segment) (s : State) : Host.Outcome State Fault Refusal :=
  .next (s.takeWord (s.fld .chanCfgPort [c]) seq fun s =>
    let v := s.chan c
    if s.flag .chanCfgEnable [c] ∧ s.flag .chanCfgRole [c] then
      if g.flits.toNat ≠ s.fld .chanSegFlitsM1 [c] then s.raise .chanStatusSizeFault [c]
      else
        let s := s.devWrite (s.segAt c v.done) (g.data.take (s.segBytes c))
        let s := (s.setChan c { v with done := v.done + 1 }).setFld .chanStatusSegments ((v.done + 1) % 65536) [c]
        s.arriveTally (s.fld .chanTallyTally [c]) 0 (s.fld .chanTallyIncM1 [c] + 1)
    else s)

end Sys2Proof.Machine
end

