-- ==== Sys2Proof/Machine/Station.lean ====
section
/-! DEFINITION. Station time: position, frames, steps, the reference, exposure pulses and PTP (R464, R474, R481 to R484, R490, R499). -/

namespace Sys2Proof.Machine

/-! Position (R482, R484, R490). -/

/-- TCLK cycles per second (R493). -/
def tclkHz : Nat := 400000000

/-- STT_CFG and STT_RATE in force. -/
def StationSt.lines (v : StationSt) : Nat := getBits v.cfg 15 0 + 1
def StationSt.num (v : StationSt) : Nat := getBits v.rate 31 12
def StationSt.den (v : StationSt) : Nat := getBits v.rate 11 0
def StationSt.source (v : StationSt) : Nat := getBits v.cfg 31 30
def StationSt.exposure (v : StationSt) : Bool := bitOf v.cfg.toNat 29

/-- A frame period in fifths of a TCLK cycle over num (R482). -/
def StationSt.period (v : StationSt) : Nat := 5 * v.den * tclkHz

/-- The first TCLK cycle of line n of a raster, counted from the first one of the frame, which came `early` after the frame's exact start
(R482). -/
def StationSt.lineStart (v : StationSt) (n : Nat) : Nat := ceilDiv (n * v.period - v.early * v.lines) (5 * v.num * v.lines)

/-- The line that runs `t` TCLK cycles after the first one of the frame (R482). With no rate no line but line 0 has a start. -/
def StationSt.lineAt (v : StationSt) (t : Nat) : Nat :=
  if v.num = 0 then 0
  else if v.den = 0 then v.lines - 1
  else Nat.min (v.lines - 1) ((5 * v.num * t + v.early) * v.lines / v.period)

/-- By how much the first TCLK cycle of the next frame comes after its exact start, where the frame begins now and has the length of the
rate (R482); else it begins in that cycle. -/
def StationSt.nextEarly (v : StationSt) : Nat :=
  let e := v.early + 5 * v.num * v.ticks
  if v.period ≤ e ∧ e < v.period + 5 * v.num then e - v.period else 0

/-- The virtual line at `t` (R484). -/
def virtualLine (vline t : Nat) : Nat := if vline = 0 then 65535 else Nat.min 65535 (t / vline)

/-- Line and subline tick of the station position. -/
def State.positionAt (s : State) : Nat × Nat :=
  let v := s.station
  if v.exposure then
    let n := virtualLine (s.fld .sttVlineVline) v.ticks
    (n, Nat.min 65535 (v.ticks - n * s.fld .sttVlineVline))
  else
    let n := v.lineAt v.ticks
    (n, Nat.min 65535 (v.ticks - if n = 0 then 0 else v.lineStart n))

/-- STT_POSITION shows the position (R490). -/
def State.showPosition (s : State) : State :=
  let p := s.positionAt
  (s.setFld .sttPositionLine p.1).setFld .sttPositionSubline p.2

/-- Station time runs (R496, R499): its registers keep power down to Frost, and PERST# holds it. -/
def State.stationOn (s : State) : Bool := decide (s.fld .pwrStateCurrent ≤ 2) && !s.boot.perst

/-! Lock (R483, R490). -/

def lockFree : Nat := 0
def lockAcquiring : Nat := 1
def lockLocked : Nat := 2
def lockHoldover : Nat := 3

/-- The lock state changes, with HUB_READY.time_locked and vector 128 (R464, R487, R490). -/
def State.setLock (s : State) (v : Nat) : State :=
  if s.fld .sttStatusLock = v then s
  else ((s.setFld .sttStatusLock v).setFld .hubReadyTimeLocked (b2n (v == lockLocked))).alert 3

/-- The lock state in which a source begins. -/
def firstLock (source : Nat) : Nat := if source = 0 then lockFree else lockAcquiring

/-! Frames (R482, R483, R484, R485, R490). -/

/-- A reference (R482): the station frame that it gives, where it numbers frames, and how far into it the module is, in fifths of a TCLK cycle
over num. -/
structure RefTime where
  frame : Option Nat
  into : Nat
  deriving DecidableEq, Repr

/-- The reference under PTP (R482): the PTP time is the local clock less its offset. -/
def State.reference (s : State) : Option RefTime :=
  let v := s.station
  match v.offset with
  | some d =>
    let half := (5 * (v.tclk : Int) - 2 * d).toNat
    if v.source = 1 ∧ 0 < v.num ∧ 0 < v.den then
      let p := 2 * 1000000000 * v.den
      let k := half * v.num / p
      some ⟨some (k % 2 ^ 32), half * v.num - k * p⟩
    else none
  | none => none

/-- The reference that a frame boundary finds: under tri-level sync and PPS it is what the module measures there
(Config.seenReference), and tri-level sync numbers no frames (R482, R483). -/
def State.refNow (s : State) : Option RefTime :=
  match s.station.source, Config.seenReference s.hclk with
  | 2, some (_, t) => some ⟨none, 5 * s.station.num * t⟩
  | 3, some (k, t) => some ⟨some k.toNat, 5 * s.station.num * t⟩
  | _, _ => s.reference

/-- The position steps to the reference (R483). -/
def State.stepTo (s : State) (r : Option RefTime) : State :=
  match r with
  | some r =>
    let s := { s with station := { s.station with ticks := r.into / (5 * s.station.num), early := r.into % (5 * s.station.num) } }
    (match r.frame with | some k => s.setFld .sttPositionFrame k | none => s).showPosition
  | none => s

/-- The address in use of every media stream is the one last latched (R485). -/
def State.takeLatches (s : State) : State :=
  { s with media := s.media.map fun e => (e.1, { e.2 with cur := match e.2.latched with | some a => some a | none => e.2.cur }) }

/-- The tree registers take effect where no barrier is outstanding (R458). -/
def State.takeTree (s : State) : State :=
  if s.barrier.outstanding then s
  else { s with barrier := { s.barrier with
      node := (s.reg .fabNode).toNat, tree := (s.reg .fabTree).toNat, members := s.fld .fabMembersMembers } }

/-- STT_CFG and STT_RATE take effect; a new source is acquired (R483, R490). -/
def State.takeConfig (s : State) : State :=
  let old := s.station.source
  let s := { s with station := { s.station with cfg := s.reg .sttCfg, rate := s.reg .sttRate } }
  if s.station.source = old then s
  else ({ s with station := { s.station with
      master := none, twoStep := none, sync := none, request := none, offset := none, counted := false } } : State).setLock
    (firstLock s.station.source)

/-- The pending step; before ready the position steps at every boundary that measures its reference (R483). -/
def State.takeStep (s : State) (r : Option RefTime) : State :=
  if s.station.step then
    let s := { s with station := { s.station with step := false } }
    allCtxs.foldl State.clearCtxTiming ((s.stepTo r).raise .sttStatusStepped)
  else if s.ready then s else s.stepTo r

/-- The tag message of a frame boundary (R511): the tag, the station frame's low byte, and the CRC-8. -/
def State.tagMessage (s : State) : BitVec 32 :=
  let body := leBytes 2 (s.fld .pwrMeterTagTag) ++ leBytes 1 (s.fld .sttPositionFrame)
  BitVec.ofNat 32 (leNat (body ++ leBytes 1 (crc8 body)))

/-- A station frame begins (R482, R484): what waits for the boundary takes effect (R458, R483, R485, R490, R503, R511). -/
def State.beginFrame (s : State) : State :=
  let s := { s with station := { s.station with ticks := 0, boundary := true, edge := none, early := s.station.nextEarly } }
  let s := s.setFld .sttPositionFrame ((s.fld .sttPositionFrame + 1) % 2 ^ 32)
  let s := s.takeConfig
  let s := ((s.takeStep s.refNow).takeTree.takeLatches).showPosition
  let s := { s with island := { s.island with message := some s.tagMessage } }
  if s.flag .pwrStateProtective then { s with power := { s.power with descent := true } } else s

/-- STATION_FRAME_BOUNDARY (R482): while exposure is set, only a pulse starts a frame (R484). -/
def execStationFrameBoundary (s : State) : Host.Outcome State Fault Refusal :=
  .next (if s.stationOn ∧ !s.station.exposure then s.beginFrame else s)

/-- A TCLK cycle passes (R482, R484): the frame of an exposure pulse starts 8 cycles after its edge, and STT_EXPOSURE latches that cycle. -/
def State.passTclk (s : State) : State :=
  let v := s.station
  let s := { s with station := { v with tclk := v.tclk + 1 } }
  if !s.stationOn then s
  else match v.edge with
    | some 1 => (s.setReg .sttExposure (BitVec.ofNat 64 (v.tclk + 1))).beginFrame
    | _ => ({ s with station := { s.station with
        ticks := v.ticks + 1, boundary := false, edge := v.edge.map (· - 1) } } : State).showPosition

/-- STATION_STEP (R483, R490): bit 0 of STT_CTRL. -/
def execStationStep (val : BitVec 32) (s : State) : Host.Outcome State Fault Refusal :=
  .next (s.hostWriteAt (RegId.addr .sttCtrl []) fun s =>
    if bitOf val.toNat 0 then { s with station := { s.station with step := true } } else s)

/-- The reference is lost (R483, R499), and with it the master that PTP followed. -/
def State.loseReference (s : State) : State :=
  let s := { s with station := { s.station with master := none } }
  if s.fld .sttStatusLock = lockAcquiring ∨ s.fld .sttStatusLock = lockLocked then (s.setFld .sttStatusSlewing 0).setLock lockHoldover else s

/-- REFERENCE_LOSS (R483). -/
def execReferenceLoss (s : State) : Host.Outcome State Fault Refusal := .next s.loseReference

/-- REFERENCE_RESTORED (R483). -/
def execReferenceRestored (s : State) : Host.Outcome State Fault Refusal :=
  .next (if s.fld .sttStatusLock = lockHoldover then s.setLock lockAcquiring else s)

/-- Under tri-level sync frame numbers count from the first lock (R482). -/
def State.countFrames (s : State) : State :=
  if s.station.source = 2 ∧ !s.station.counted then
    ({ s with station := { s.station with counted := true } } : State).setFld .sttPositionFrame 0
  else s

/-- TIME_LOCK (R482, R483). -/
def execTimeLock (s : State) : Host.Outcome State Fault Refusal :=
  .next (if s.fld .sttStatusLock = lockAcquiring then s.countFrames.setLock lockLocked else s)

/-- EXPOSURE_PULSE (R484): `widthNs` is the width of the pulse that the edge follows. The frame starts 8 TCLK cycles after the edge; an edge
that comes before the frame of the last one has started is not after that start. -/
def execExposurePulse (widthNs : Nat) (s : State) : Host.Outcome State Fault Refusal :=
  .next (if s.stationOn ∧ s.station.exposure then
      if 100 ≤ widthNs ∧ s.station.edge = none ∧ s.fld .sttVlineMinGap * 400 ≤ s.station.ticks then
        { s with station := { s.station with edge := some 8 } }
      else s.count .sttStatusPulsesIgnored 1
    else s)

/-! PTP (R481, R483). -/

/-- A new offset from the master (R483): before ready the position steps, after it TCLK slews. -/
def State.steer (s : State) (d : Int) : State :=
  let s := { s with station := { s.station with offset := some d } }
  if s.ready then s.setFld .sttStatusSlewing (b2n (d != 0)) else s.stepTo s.reference

/-- The media port and the domain that carry PTP, by the STT_CFG in force (R490). -/
def StationSt.ptpPort (v : StationSt) : Nat := getBits v.cfg 28 27
def StationSt.domain (v : StationSt) : Nat := getBits v.cfg 26 20

/-- Light reaches the engine of a media port (R452, R476). -/
def State.mediaLink (s : State) (port : Nat) : Bool := s.engineLit (30 + port / 2)

/-- An Announce (R481): the best master, of the lowest rank, is followed; another one than before begins a new exchange. -/
def StationSt.announce (v : StationSt) (rank id : Nat) : StationSt :=
  match v.master with
  | some (r, m) =>
    if m = id then { v with master := some (rank, id) }
    else if rank < r then { v with master := some (rank, id), twoStep := none, sync := none, request := none }
    else v
  | none => { v with master := some (rank, id) }

/-- A message of the master that is followed (R481): the origin or receipt time of the master and the local time stamp. Half of the difference of
the two delays is the offset. -/
def State.ptpExchange (s : State) (seq : Nat) (kind : PtpKind) (masterNs stampNs : Int) : State :=
  let v := s.station
  match kind with
  | .announce _ => s
  | .sync true => { s with station := { v with twoStep := some (seq, stampNs) } }
  | .sync false => { s with station := { v with sync := some (masterNs, stampNs) } }
  | .followUp => match v.twoStep with
    | some (n, t) =>
      if n = seq then { s with station := { v with twoStep := none, sync := some (masterNs, t) } } else s
    | none => s
  | .delayReq => { s with station := { v with request := some (seq, stampNs) } }
  | .delayResp => match v.sync, v.request with
    | some (t1, t2), some (n, t3) =>
      if n = seq then
        ({ s with station := { v with request := none } } : State).steer (((t2 - t1) - (masterNs - t3)) / 2)
      else s
    | _, _ => s

/-- PTP_MESSAGE (R474, R476, R481, R490), on the port and in the domain of STT_CFG, from the master that is followed; a delay request is the
module's own. -/
def execPtpMessage (port : Fin 4) (head : PtpHeader) (kind : PtpKind) (masterNs stampNs : Int) (s : State) :
    Host.Outcome State Fault Refusal :=
  .next (
    let v := s.station
    if v.source ≠ 1 ∨ !s.mediaLink port ∨ (port : Nat) ≠ v.ptpPort ∨ head.domain.toNat ≠ v.domain then s
    else match kind with
      | .announce rank => { s with station := v.announce rank head.sender.toNat }
      | k =>
        if k = .delayReq ∨ v.master.map (·.2) = some head.sender.toNat then s.ptpExchange head.seq.toNat k masterNs stampNs else s)

end Sys2Proof.Machine
end

