-- ==== Sys2Proof/Machine/Barrier.lean ====
section
/-! DEFINITION. Inter-module barriers and fabric start (R35, R412, R413, R417, R426, R439, R442, R458). -/

namespace Sys2Proof.Machine

/-! Arrivals (R412, R413, R439, R442). -/

/-- The module's own arrival (R412, R414). -/
def State.barrierArrive (s : State) : State :=
  let s := s.rrLog 6 0 0 0 0
  ({ s with barrier := { s.barrier with
      own := true, up := false, frame := some (s.fld .sttPositionFrame), outstanding := true, release := none } } : State).barrierGo

/-- This is the barrier's position, which a station frame has once (R412, R426). -/
def State.barrierHere (s : State) : Bool :=
  s.atPosition (s.fld .barrierCfgLine) (s.fld .barrierCfgSubline) && s.barrier.frame != some (s.fld .sttPositionFrame)

/-- BARRIER_POSITION (R412): a replay takes it from its log (R417), and a module that is not ready sends none (R442). -/
def execBarrierPosition (s : State) : Host.Outcome State Fault Refusal :=
  .next (if s.flag .barrierCfgEnable ∧ s.barrierHere ∧ !s.replaying ∧ s.ready then s.barrierArrive else s)

/-- BARRIER_ARRIVAL (R413, R439): one that comes after the combined arrival goes up on its own. `settings` are those of a module at its fabric
start. -/
def execBarrierArrival (src : WordFrom) (members : BitVec 16) (settings : Option Settings) (s : State) : Host.Outcome State Fault Refusal :=
  .next (s.takeWord src.port src.seq fun s =>
    if s.childPorts.contains (src.port : Nat) then
      if s.barrier.up ∧ s.parentSends then s.sendArrival members.toNat settings
      else ({ s with barrier := { s.barrier with
        arrivals := s.barrier.arrivals ++ [⟨src.port, members.toNat, settings⟩] } } : State).barrierGo
    else s)

/-! Releases (R412, R413, R439). -/

/-- A release from above (R413, R439): `above` is the path delay from the root to the sender. -/
def State.passRelease (s : State) (frame refused above : Nat) : State :=
  let b := s.barrier
  let delay := above + s.fld .portStatusLatency [b.parent]
  let s := s.setFld .fabTreeStatusRootDelay (Nat.min 2047 delay)
  let s := s.setFld .fabTreeStatusHorizonShort (b2n (decide (b.horizon < delay)))
  let s := s.sendRelease frame refused (Nat.min 2047 delay)
  if bitOf refused b.position then
    ({ s with barrier := { s.barrier with fresh := false } } : State).raise .barrierStatusExcluded
  else if b.outstanding then { s with barrier := { s.barrier with release := some frame } } else s

/-- BARRIER_RELEASE (R439), on the parent port of a module of its floe. A refused module passes the release on and acts on none (R413). -/
def execBarrierRelease (seq : BitVec 16) (r : Release) (above : BitVec 11) (s : State) : Host.Outcome State Fault Refusal :=
  .next (if s.barrier.isRoot then s
    else s.takeWord s.barrier.parent seq fun s =>
      if (s.port s.barrier.parent).floe = s.barrier.floe then s.passRelease r.frame.toNat r.refused.toNat above.toNat else s)

/-- The scheduled position of the barrier in TCLK cycles from the frame start (R412). -/
def State.barrierTick (s : State) : Nat :=
  let n := s.fld .barrierCfgLine
  (if s.station.exposure then n * s.fld .sttVlineVline else if n = 0 then 0 else s.station.lineStart n) + s.fld .barrierCfgSubline

/-- The TCLK cycles of a station frame by STT_RATE. -/
def StationSt.frameTicks (v : StationSt) : Nat := ceilDiv (v.den * tclkHz) v.num

/-- The position now less the scheduled one, within 16 signed bits (R412, R426). -/
def State.skewNow (s : State) : Int :=
  let now := s.fld .sttPositionFrame
  let frames := (now + 2 ^ 32 - s.barrier.frame.getD now % 2 ^ 32) % 2 ^ 32
  let d := ((frames * s.station.frameTicks + s.station.ticks : Nat) : Int) - s.barrierTick
  if d < -32768 then -32768 else if 32767 < d then 32767 else d

/-- BARRIER_RELEASE_ACT (R412, R413, R435). -/
def execBarrierReleaseAct (s : State) : Host.Outcome State Fault Refusal :=
  .next (match s.barrier.release with
    | none => s
    | some f =>
      let s := s.setFld .barrierStatusSkew (ofSigned 16 s.skewNow)
      let s := if s.barrier.fresh then
          ((s.setFld .sttPositionFrame f).raise .barrierStatusFabricStarted).setFld .barrierStatusExcluded 0
        else s
      let s := { s with barrier := { s.barrier with own := false, up := false, outstanding := false, release := none, fresh := false } }
      s.arriveTally (s.fld .barrierCfgTally) 3 (s.fld .barrierCfgIncM1 + 1))

/-- BARRIER_TIMEOUT (R412). -/
def execBarrierTimeout (s : State) : Host.Outcome State Fault Refusal :=
  .next (if s.barrier.outstanding ∧ s.barrier.release.isNone then
      ({ s with barrier := { s.barrier with own := false, up := false, arrivals := [], outstanding := false } } : State).raise
        .barrierStatusTimeout
    else s)

end Sys2Proof.Machine
end

