-- ==== Sys2Proof/Machine/Bce.lean ====
section
/-! DEFINITION. The block compression engine: the block format, candidate search, compression and decompression jobs, and their
completion (R274 to R296). -/

namespace Sys2Proof.Machine

/-! Blocks (R274 to R276). -/

/-- A coded block: its bits, least significant first, its length in bits, whether it is a match, and the samples it decodes to. -/
structure BceCode where
  bits : Nat
  len : Nat
  isMatch : Bool
  y : List Nat
  deriving DecidableEq, Repr

/-- Fields of (value, width) as one bit string, the first field lowest (R275). -/
def packBits : List (Nat × Nat) → Nat
  | [] => 0
  | (v, n) :: t => v % 2 ^ n + 2 ^ n * packBits t

/-- The h of R276. -/
def bceHalf (q : Nat) : Nat := if q = 0 then 0 else 2 ^ (q - 1)

def bceMax (d : Nat) : Nat := 2 ^ d - 1

/-- A flat block's samples (R276). -/
def flatSamples (d base q : Nat) (v : List Nat) : List Nat :=
  v.map fun x => Nat.min (base + x * 2 ^ q + bceHalf q) (bceMax d)

/-- The signed step of a zigzag code (R276). -/
def unzig (z : Nat) : Int := if z % 2 = 0 then (z / 2 : Nat) else -((z + 1) / 2 : Nat)
def zig (r : Int) : Nat := if 0 ≤ r then (2 * r).toNat else (-2 * r - 1).toNat

def clampTo (hi : Nat) (x : Int) : Nat := if x < 0 then 0 else Nat.min x.toNat hi

/-- The predictor of sample i from the samples decoded before it, newest first (R276). -/
def deltaPred (i : Nat) (done : List Nat) : Nat := if i % 8 ≠ 0 then done.headD 0 else done.getD 7 0

/-- The samples of a delta block from z_i on, after those in `done`, newest first (R276). -/
def deltaSamples (d q : Nat) : Nat → List Nat → List Nat → List Nat
  | _, [], done => done.reverse
  | i, z :: zs, done => deltaSamples d q (i + 1) zs (clampTo (bceMax d) ((deltaPred i done : Nat) + unzig z * 2 ^ q) :: done)

/-- `n` fields of `w` bits from bit `at_` of a bit string. -/
def bitFields (b at_ w : Nat) : Nat → List Nat
  | 0 => []
  | n + 1 => (b / 2 ^ at_) % 2 ^ w :: bitFields b (at_ + w) w n

/-- A block other than a match decodes (R275, R276): none for a syntax fault, else its length and samples. -/
def decodePlain (d b : Nat) : Option (Nat × List Nat) :=
  let base := (b / 4) % 2 ^ d
  let w := (b / 2 ^ (2 + d)) % 32
  let q := (b / 2 ^ (7 + d)) % 16
  match b % 4 with
  | 0 => some (2 + 64 * d, bitFields b 2 d 64)
  | 1 => if 17 < w ∨ d < q then none else some (11 + d + 64 * w, flatSamples d base q (bitFields b (11 + d) w 64))
  | 2 => if 17 < w ∨ d < q then none else some (11 + d + 63 * w, deltaSamples d q 1 (bitFields b (11 + d) w 63) [base])
  | _ => none

/-- Block n decodes (R276); `other` reads the bit string of an earlier block of the same job. -/
def decodeBlock (d n b : Nat) (other : Nat → Option Nat) : Option (Nat × List Nat) :=
  if b % 4 = 3 then
    let δ := (b / 4) % 2 ^ 14
    if δ = 0 ∨ n < δ then none
    else match other (n - δ) with
      | none => none
      | some b' => (decodePlain d b').map fun r => (16, r.2)
  else decodePlain d b

/-! Candidates (R280 to R282). -/

def bitLength (v : Nat) : Nat := if v = 0 then 0 else Nat.log2 v + 1

/-- A flat candidate with quantiser q and the w field `w`, or the bit length of the largest value where it is none (R281). -/
def flatCand (d q : Nat) (w : Option Nat) (x : List Nat) : BceCode :=
  let base := x.foldl Nat.min (x.headD 0)
  let v := x.map fun e => (e - base) / 2 ^ q
  let w := w.getD (bitLength (v.foldl Nat.max 0))
  ⟨packBits ([(1, 2), (base, d), (w, 5), (q, 4)] ++ v.map fun e => (e, w)), 11 + d + 64 * w, false, flatSamples d base q v⟩

def rawCand (d : Nat) (x : List Nat) : BceCode := ⟨packBits ((0, 2) :: x.map fun e => (e, d)), 2 + 64 * d, false, x⟩

/-- The zigzag codes of a delta candidate, with the samples it decodes, newest first (R281). -/
def deltaCodes (d q : Nat) : Nat → List Nat → List Nat → List Nat → List Nat × List Nat
  | _, [], done, zs => (zs.reverse, done.reverse)
  | i, x :: xs, done, zs =>
    let p := deltaPred i done
    let e : Int := (x : Int) - p
    let m : Int := ((e.natAbs + bceHalf q) / 2 ^ q : Nat)
    let r := if e < 0 then -m else m
    deltaCodes d q (i + 1) xs (clampTo (bceMax d) ((p : Int) + r * 2 ^ q) :: done) (zig r :: zs)

/-- A delta candidate, not formed with w above 17 (R281). -/
def deltaCand (d q : Nat) (x : List Nat) : Option BceCode :=
  let c := deltaCodes d q 1 x.tail [x.headD 0] []
  let w := bitLength (c.1.foldl Nat.max 0)
  if 17 < w then none
  else some ⟨packBits ([(2, 2), (x.headD 0, d), (w, 5), (q, 4)] ++ c.1.map fun e => (e, w)), 11 + d + 63 * w, false, c.2⟩

/-- The match candidates over the blocks before, newest first (R280, R281). -/
def matchCands (hist : List BceCode) : List BceCode :=
  ((hist.take 64).zipIdx.filter fun e => !e.1.isMatch).map fun e => ⟨packBits [(3, 2), (e.2 + 1, 14)], 16, true, e.1.y⟩

/-- The floor of a job (R281): w_f and q_f of a fixed slot, or w = d with q = 0 in packed layout. -/
def floorCand (d slot : Nat) (x : List Nat) : BceCode :=
  let wf := if slot = 0 then d else Nat.min d ((8 * slot - 11 - d) / 64)
  flatCand d (d - wf) (some wf) x

/-- The candidates of a level in their order (R280, R282). -/
def bceCands (d slot level : Nat) (hist : List BceCode) (x : List Nat) : List BceCode :=
  [floorCand d slot x] ++
  (if 1 ≤ level then rawCand d x :: (List.range (d + 1)).map fun q => flatCand d q none x else []) ++
  (if 2 ≤ level then (List.range (d + 1)).filterMap fun q => deltaCand d q x else []) ++
  (if 3 ≤ level then matchCands hist else [])

def sad (x y : List Nat) : Nat := ((x.zip y).map fun e => if e.1 ≤ e.2 then e.2 - e.1 else e.1 - e.2).sum

/-- The first candidate with the smallest sum of differences and then the smallest length (R282). -/
def bestCand (x : List Nat) : List BceCode → Option BceCode
  | [] => none
  | c :: t => match bestCand x t with
    | none => some c
    | some b => if sad x b.y < sad x c.y ∨ (sad x b.y = sad x c.y ∧ b.len < c.len) then some b else some c

/-! Descriptors (R278, R291, R292). -/

def bceOp (w : BitVec 1024) : Nat := wordF w 0 11 8
def bcePacked (w : BitVec 1024) : Bool := wordF w 0 7 6 == 1
def bceLossy (w : BitVec 1024) : Bool := bitOf w.toNat 5
def bceLevel (w : BitVec 1024) : Nat := wordF w 0 4 3
def bceSlot (w : BitVec 1024) : Nat := wordF w 4 15 8
def bceDepth (w : BitVec 1024) : Nat := wordF w 4 4 0
def bceSrc (w : BitVec 1024) : Nat := wordF w 8 47 0
def bceDst (w : BitVec 1024) : Nat := wordF w 0x10 47 0
def bceWidth (w : BitVec 1024) : Nat := wordF w 0x18 15 0 + 1
def bceHeight (w : BitVec 1024) : Nat := wordF w 0x18 31 16 + 1
def bceStride (w : BitVec 1024) : Nat := wordF w 0x1C 31 0
def bceFirst (w : BitVec 1024) : Nat := wordF w 0x20 15 0
def bceRows (w : BitVec 1024) : Nat := wordF w 0x20 31 16 + 1
def bceLimit (w : BitVec 1024) : Nat := wordF w 0x24 31 0
def bceCols (w : BitVec 1024) : Nat := ceilDiv (bceWidth w) 8
def sampleBytes (d : Nat) : Nat := if d = 8 then 1 else 2

/-- Bytes of a block in its output at the worst case (R285, R292). -/
def bceWorst (w : BitVec 1024) : Nat := if bcePacked w then ceilDiv (2 + 64 * bceDepth w) 8 else bceSlot w

/-- The offset of the data of an output of `rows` block rows (R278). -/
def bceDataAt (packed : Bool) (rows : Nat) : Nat := ceilDiv (0x20 + (if packed then 12 else 8) * rows) 64 * 64

/-- The plane bytes that a job touches, as address and length (R274, R287): its rows start at the plane's address. -/
def bcePlane (w : BitVec 1024) (a : Nat) : Nat × Nat :=
  let y0 := 8 * bceFirst w
  let y1 := Nat.min (8 * (bceFirst w + bceRows w)) (bceHeight w)
  (a + y0 * bceStride w, (y1 - 1 - y0) * bceStride w + bceWidth w * sampleBytes (bceDepth w))

/-- The most bytes that a block takes in a packed output: at level 0 the floor, which is the only candidate, else no more than raw (R280 to R282). -/
def bceMost (w : BitVec 1024) : Nat :=
  if bcePacked w && bceLevel w == 0 then ceilDiv (11 + 65 * bceDepth w) 8 else bceWorst w

/-- The output bytes of a compression job. -/
def bceOut (w : BitVec 1024) : Nat × Nat :=
  let n := bceDataAt (bcePacked w) (bceRows w) + bceCols w * bceRows w * bceMost w
  (bceDst w, if bcePacked w then Nat.min n (bceLimit w) else n)

/-- A reserved bit of a descriptor is set (R291). -/
def bceReservedOk (w : BitVec 1024) : Bool :=
  bitsClear w [(0, 15, 12), (0, 2, 0), (4, 31, 16), (4, 7, 5), (8, 63, 48), (0x10, 63, 48), (0x28, 31, 12), (0x30, 31, 25),
    (0x34, 63, 0), (0x40, 63, 48), (0x50, 383, 0)]

/-- A field of the descriptor is out of its range (R277, R291, and the range of block rows of R278). -/
def bceRangeBad (w : BitVec 1024) (index : Nat) : Bool :=
  let d := bceDepth w
  let slot := bceSlot w
  wordF w 0 31 16 != index % 65536 || (bceOp w != 1 && bceOp w != 2) || decide (1 < wordF w 0 7 6) || decide (d < 8) ||
    decide (16 < d) || decide (16384 < bceWidth w) || decide (16384 < bceHeight w) ||
    (if bcePacked w then slot != 0 || bceLossy w else slot % 4 != 0 || decide (slot < 8) || decide (160 < slot)) ||
    (bceOp w == 1 && decide (ceilDiv (bceHeight w) 8 < bceFirst w + bceRows w))

/-- What the check of a descriptor finds (R291). -/
def State.bceVerdict (s : State) (index : Nat) (w : BitVec 1024) : Nat :=
  if !jobCrcOk w || !bceReservedOk w then 8
  else if bceRangeBad w index then 9
  else
    let ends := if bceOp w = 1 then [bcePlane w (bceSrc w), bceOut w] else [(bceSrc w, 32), bcePlane w (bceDst w)]
    let spans := (bceSrc w, 1) :: (bceDst w, 1) :: ends
    let v := worstOf (s.recordStatus w :: spans.map fun e => s.spanStatus Place.engineSide e.1 e.2)
    if v = 0 && spansMeet (ends.getD 0 (0, 0)) (ends.getD 1 (0, 0)) then 9 else v

/-- The share of a level for the BCE, per HCLK cycle (R292). -/
def bceShare : Place → Nat
  | .hub => 256 | .tier2 => 20 | _ => 75

/-- The level of a place: 0 hub store, 1 tier 1, 2 tier 2. -/
def Place.level : Place → Nat
  | .hub => 0 | .tier2 => 2 | _ => 1

/-- The cost of a block (R280, R292). -/
def State.bceCost (s : State) (w : BitVec 1024) : Nat :=
  let p := s.place (bceSrc w)
  let o := s.place (bceDst w)
  let base := if bceOp w = 1 then 2 ^ (bceLevel w + 1) else 2
  let raw := 64 * sampleBytes (bceDepth w)
  let a := if bceOp w = 1 then raw else bceWorst w
  let b := if bceOp w = 1 then bceWorst w else raw
  if p.level = o.level then Nat.max base (ceilDiv (a + b) (bceShare p))
  else Nat.max base (Nat.max (ceilDiv a (bceShare p)) (ceilDiv b (bceShare o)))

/-- Bytes 0x10 to 0x1F of a record (R293). -/
def bceBody (bytes row cycles : Nat) : List Byte := leBytes 4 bytes ++ leBytes 4 row ++ leBytes 4 cycles ++ leBytes 4 0

/-! Compression (R282 to R286). -/

/-- A compression under way: memory, the blocks coded so far, newest first, data bytes written, the first of them in the present
row, and the status with the failing block. -/
structure BceRun where
  st : State
  hist : List BceCode
  pos : Nat
  rowAt : Nat
  status : Nat
  fail : Nat
  deriving DecidableEq, Repr

/-- The sample of a plane at a position, or the nearest valid one (R274). -/
def State.planeSample (s : State) (w : BitVec 1024) (y x : Nat) : Nat :=
  let y := Nat.min y (bceHeight w - 1)
  let x := Nat.min x (bceWidth w - 1)
  let b := sampleBytes (bceDepth w)
  s.devNat (bceSrc w + y * bceStride w + x * b) b % 2 ^ bceDepth w

/-- Block n of a job (R274). -/
def State.planeBlock (s : State) (w : BitVec 1024) (n : Nat) : List Nat :=
  (List.range 64).map fun i =>
    s.planeSample w (8 * (bceFirst w + n / bceCols w) + i / 8) (8 * (n % bceCols w) + i % 8)

/-- The candidate that a block takes (R279, R282). -/
def bceChoose (w : BitVec 1024) (hist : List BceCode) (x : List Nat) : Option BceCode :=
  bestCand x ((bceCands (bceDepth w) (bceSlot w) (bceLevel w) hist x).filter fun c =>
    (bceLossy w || c.y == x) && (bcePacked w || decide (c.len ≤ 8 * bceSlot w)))

/-- The chosen code decodes to its samples, and to the input where the job is lossless (R284). -/
def bceVerified (w : BitVec 1024) (hist : List BceCode) (x : List Nat) (c : BceCode) : Bool :=
  decodeBlock (bceDepth w) hist.length c.bits (fun m => hist[hist.length - 1 - m]?.map (·.bits)) == some (c.len, c.y) &&
    (bceLossy w || c.y == x)

/-- Block n is coded, checked and written, with its row's index and digest (R278, R285). -/
def BceRun.block (w : BitVec 1024) (o : BceRun) (n : Nat) : BceRun :=
  if o.status ≠ 0 then o else
  let x := o.st.planeBlock w n
  let packed := bcePacked w
  let r := n / bceCols w
  let c := n % bceCols w
  let data := bceDst w + bceDataAt packed (bceRows w)
  match bceChoose w o.hist x with
  | none => { o with status := 0x10, fail := n }
  | some k =>
    let size := if packed then ceilDiv k.len 8 else bceSlot w
    if packed ∧ bceLimit w < bceDataAt packed (bceRows w) + o.pos + size then { o with status := 0x11, fail := n }
    else if !bceVerified w o.hist x k then { o with status := 0x12, fail := n }
    else
      let s := o.st.devWrite (data + o.pos) (leBytes size k.bits)
      let rowAt := if c = 0 then o.pos else o.rowAt
      let s := if packed ∧ c = 0 then s.devWrite (bceDst w + 0x20 + 8 * bceRows w + 4 * r) (leBytes 4 o.pos) else s
      let s := if c + 1 = bceCols w then
          s.devWrite (bceDst w + 0x20 + 8 * r) (leBytes 8 (digest64 (s.devRead (data + rowAt) (o.pos + size - rowAt))))
        else s
      { o with st := s, hist := k :: o.hist, pos := o.pos + size, rowAt := rowAt }

/-- The header of an output (R278). -/
def bceHeader (w : BitVec 1024) (len : Nat) : List Byte :=
  let body := leBytes 4 0xB10C0001 ++ leBytes 4 (wordF w 0 15 0) ++ leBytes 4 (wordF w 4 31 0) ++ leBytes 4 (wordF w 0x18 31 0) ++
    leBytes 2 (bceFirst w) ++ leBytes 2 (bceRows w) ++ leBytes 4 len ++ leBytes 4 0
  body ++ leBytes 4 (crc32c body)

/-- A compression job runs to its last write (R282 to R286); it writes nothing at or beyond its limit. -/
def State.bceCompressJob (s : State) (w : BitVec 1024) : BceRun :=
  let zeros := leBytes (if bcePacked w then Nat.min 32 (bceLimit w) else 32) 0
  let o := (List.range (bceCols w * bceRows w)).foldl (BceRun.block w) ⟨s.devWrite (bceDst w) zeros, [], 0, 0, 0, 0⟩
  if o.status = 0 then { o with st := o.st.devWrite (bceDst w) (bceHeader w o.pos) } else o

/-- BCE_COMPRESS (R282, R290, R292). -/
def execBceCompress (n : Fin 8) (s : State) : Host.Outcome State Fault Refusal :=
  .next (
    let w := s.headDesc .bce n
    let i := s.fld .bceRingHeadHead [n]
    if s.ringFirst .bce n ∧ s.bceVerdict i w = 0 ∧ bceOp w = 1 then
      let o := s.bceCompressJob w
      let c := s.bceCost w
      let blocks := if o.status = 0 then bceCols w * bceRows w else o.fail + 1
      let t := 96 + blocks * c + 64
      let row := if o.status = 0 then 0xFFFF else bceFirst w + o.fail / bceCols w
      o.st.takeJob .bce n o.status (bceBody o.pos row t) t w
    else s)

/-! Decompression (R287). -/

/-- The output that a decompression job reads: its first block row and its rows, by its header (R278). -/
structure BceSource where
  first : Nat
  rows : Nat
  len : Nat
  deriving DecidableEq, Repr

def State.bceSource (s : State) (w : BitVec 1024) : BceSource :=
  let a := bceSrc w
  ⟨s.devNat (a + 0x10) 2, s.devNat (a + 0x12) 2, s.devNat (a + 0x14) 4⟩

/-- The header is right and covers the request (R287). -/
def State.bceHeaderOk (s : State) (w : BitVec 1024) : Bool :=
  let a := bceSrc w
  let h := s.bceSource w
  s.devNat a 4 == 0xB10C0001 && s.devNat (a + 0x1C) 4 == crc32c (s.devRead a 0x1C) &&
    bitsOf (s.devNat (a + 4) 4) 7 6 == wordF w 0 7 6 && bitsOf (s.devNat (a + 8) 4) 15 8 == bceSlot w &&
    bitsOf (s.devNat (a + 8) 4) 4 0 == bceDepth w && s.devNat (a + 0x0C) 4 == wordF w 0x18 31 0 &&
    decide (h.first ≤ bceFirst w) && decide (bceFirst w + bceRows w ≤ h.first + h.rows)

/-- The data bytes of row r of an output, as address and length (R278). -/
def State.bceRowData (s : State) (w : BitVec 1024) (r : Nat) : Nat × Nat :=
  let h := s.bceSource w
  let packed := bcePacked w
  let data := bceSrc w + bceDataAt packed h.rows
  if packed then
    let ix := fun k => s.devNat (bceSrc w + 0x20 + 8 * h.rows + 4 * k) 4
    let stop := if r + 1 < h.rows then ix (r + 1) else h.len
    (data + ix r, stop - ix r)
  else (data + r * bceCols w * bceSlot w, bceCols w * bceSlot w)

/-- The length of a block by its own fields (R275). -/
def codeLen (d b : Nat) : Nat :=
  let w := (b / 2 ^ (2 + d)) % 32
  match b % 4 with
  | 0 => 2 + 64 * d
  | 1 => 11 + d + 64 * w
  | 2 => 11 + d + 63 * w
  | _ => 16

/-- The bit string that starts block `c` of a packed row, in what is left of the row's bytes. -/
def packedBlock (d : Nat) : Nat → List Byte → Option (List Byte)
  | 0, bs => some bs
  | c + 1, bs =>
    let n := ceilDiv (codeLen d (leNat (bs.take 152))) 8
    if bs.length < n then none else packedBlock d c (bs.drop n)

/-- The bit string of block n of an output: its slot, or its coded bytes; none where it runs past its row (a syntax fault). -/
def State.bceBits (s : State) (w : BitVec 1024) (n : Nat) : Option Nat :=
  let row := s.bceRowData w (n / bceCols w)
  if bcePacked w then
    match packedBlock (bceDepth w) (n % bceCols w) (s.devRead row.1 row.2) with
    | none => none
    | some bs =>
      let size := ceilDiv (codeLen (bceDepth w) (leNat (bs.take 152))) 8
      if bs.length < size then none else some (leNat (bs.take size))
  else some (s.devNat (row.1 + n % bceCols w * bceSlot w) (bceSlot w))

/-- The bit string of block n where its slot holds nothing beyond it (R276). -/
def State.bceClean (s : State) (w : BitVec 1024) (n : Nat) : Option Nat :=
  match s.bceBits w n with
  | none => none
  | some b =>
    let len := codeLen (bceDepth w) b
    if !bcePacked w ∧ (8 * bceSlot w < len ∨ b / 2 ^ len ≠ 0) then none else some b

/-- Block n of an output decodes (R276); a block that a match names has to be without fault as well. -/
def State.bceDecode (s : State) (w : BitVec 1024) (n : Nat) : Option (List Nat) :=
  match s.bceClean w n with
  | none => none
  | some b => (decodeBlock (bceDepth w) n b (s.bceClean w)).map (·.2)

/-- The blocks of a row, or the index of the first that is faulty. -/
def State.bceDecodeRow (s : State) (w : BitVec 1024) (r : Nat) : Nat → Except Nat (List (List Nat))
  | 0 => .ok []
  | c + 1 =>
    match s.bceDecodeRow w r c with
    | .error e => .error e
    | .ok l => match s.bceDecode w (r * bceCols w + c) with
      | none => .error c
      | some y => .ok (l ++ [y])

/-- The valid samples of block row `brow` of the plane are written (R287). -/
def State.bceWriteRow (s : State) (w : BitVec 1024) (brow : Nat) (blocks : List (List Nat)) : State :=
  let b := sampleBytes (bceDepth w)
  (List.range (Nat.min 8 (bceHeight w - 8 * brow))).foldl (fun s y =>
    s.devWrite (bceDst w + (8 * brow + y) * bceStride w)
      ((List.range (bceWidth w)).flatMap fun x => leBytes b ((blocks.getD (x / 8) []).getD (8 * y + x % 8) 0))) s

/-- A decompression under way: memory, bytes written, status, the failing row, and the failing block where one failed. -/
structure BceRead where
  st : State
  pos : Nat
  status : Nat
  row : Nat
  block : Option Nat
  deriving DecidableEq, Repr

/-- Row k of a request: digest, decode, write (R287). -/
def BceRead.row_ (w : BitVec 1024) (o : BceRead) (k : Nat) : BceRead :=
  if o.status ≠ 0 then o else
  let s := o.st
  let brow := bceFirst w + k
  let r := brow - (s.bceSource w).first
  let d := s.bceRowData w r
  if s.devNat (bceSrc w + 0x20 + 8 * r) 8 ≠ digest64 (s.devRead d.1 d.2) then { o with status := 7, row := brow }
  else match s.bceDecodeRow w r (bceCols w) with
    | .error c => { o with status := 0x14, row := brow, block := some (k * bceCols w + c) }
    | .ok l => { o with
        st := s.bceWriteRow w brow l
        pos := o.pos + Nat.min 8 (bceHeight w - 8 * brow) * bceWidth w * sampleBytes (bceDepth w) }

/-- The spans of an output that its header names: to its last data byte. -/
def State.bceSourceSpan (s : State) (w : BitVec 1024) : Nat × Nat :=
  let h := s.bceSource w
  (bceSrc w, bceDataAt (bcePacked w) h.rows + (if bcePacked w then h.len else bceCols w * h.rows * bceSlot w))

/-- A decompression job (R287). -/
def State.bceDecompressJob (s : State) (w : BitVec 1024) : BceRead :=
  if !s.bceHeaderOk w then ⟨s, 0, 0x13, 0xFFFF, none⟩
  else
    let span := s.bceSourceSpan w
    let v := s.spanStatus Place.engineSide span.1 span.2
    if v ≠ 0 then ⟨s, 0, v, 0xFFFF, none⟩
    else if spansMeet span (bcePlane w (bceDst w)) then ⟨s, 0, 9, 0xFFFF, none⟩
    else (List.range (bceRows w)).foldl (BceRead.row_ w) ⟨s, 0, 0, 0xFFFF, none⟩

/-- BCE_DECOMPRESS (R287, R290, R292): a header or digest fault has no failing block, so that the manual gives it no time: a free
value. -/
def execBceDecompress (n : Fin 8) (s : State) : Host.Outcome State Fault Refusal :=
  .next (
    let w := s.headDesc .bce n
    let i := s.fld .bceRingHeadHead [n]
    if s.ringFirst .bce n ∧ s.bceVerdict i w = 0 ∧ bceOp w = 2 then
      let o := s.bceDecompressJob w
      let c := s.bceCost w
      let d := o.st.draw
      let t := if o.status = 0 then 96 + bceCols w * bceRows w * c + 64 else
        match o.block with
        | some b => 96 + (b + 1) * c + 64
        | none => d.1.toNat % 2 ^ 32
      let st := if o.status = 0 ∨ o.block.isSome then o.st else d.2
      st.takeJob .bce n o.status (bceBody o.pos o.row t) t w
    else s)

/-- The counts of a job (R296). -/
def bceCounts (s : State) (status : Nat) : State :=
  (s.count .bceCountFailedJobs (b2n (status != 0))).count .bceCountVerifyFaults (b2n (status == 0x12))

/-- BCE_JOB_COMPLETE (R291, R293, R295, R296). -/
def execBceJobComplete (n : Fin 8) (s : State) : Host.Outcome State Fault Refusal :=
  .next (s.jobComplete .bce n (fun s w => s.bceVerdict (s.fld .bceRingHeadHead [n]) w) (fun _ t => bceBody 0 0xFFFF t) bceCounts)

end Sys2Proof.Machine
end

