-- ==== Sys2Proof/Machine/Dma.lean ====
section
/-! DEFINITION. DMA between cell memory and the device address space (R115, R203, R232, R233, R249, R254, R259, R260, R263 to R265), and the
zero clear of cell memory (R107). -/

namespace Sys2Proof.Machine

/-- The reserved bits of a DMA descriptor (R232). -/
def dmaReserved : List (Nat × Nat × Nat) :=
  [(0x04, 31, 16), (0x0C, 31, 16), (0x10, 31, 20), (0x14, 31, 28), (0x30, 31, 28), (0x34, 31, 26), (0x38, 31, 26), (0x3C, 15, 0)]

/-- The window of a logical cell in the device address space (R247). -/
def windowBase (c : Nat) : Nat := 0x300000000000 + c * 0x2000000

/-- The address of row j of plane i at one end of a transfer. -/
def dmaRow (base rowStride planeStride i j : Nat) : Nat := base + i * planeStride + j * rowStride

/-- The spans of one end: address and length of every row. A transpose writes one row of R elements for each of S columns
(R115). -/
def DmaJob.srcRows (d : DmaJob) : List (Nat × Nat) :=
  (List.range d.planes).flatMap fun i => (List.range d.rows).map fun j => (dmaRow d.src d.srcRow d.srcPlane i j, d.rowBytes)

/-- The element width of a transpose: 1, 2 or 4 bytes (R232). -/
def DmaJob.elemBytes (d : DmaJob) : Nat := 2 ^ (d.transpose - 1)

def DmaJob.dstRows (d : DmaJob) : List (Nat × Nat) :=
  let n := if d.transpose = 0 then d.rows else d.rowBytes / d.elemBytes
  let len := if d.transpose = 0 then d.rowBytes else d.rows * d.elemBytes
  (List.range d.planes).flatMap fun i => (List.range n).map fun j => (dmaRow d.dst d.dstRow d.dstPlane i j, len)

/-- A span lies in the memory of logical cell c. -/
def inWindow (c : Nat) (x : Nat × Nat) : Bool :=
  decide (windowBase c ≤ x.1) && decide (x.1 + x.2 ≤ windowBase c + cellBytes)

/-- A span touches no hole (R247): a row is shorter than any hole between two ranges, so its ends decide. -/
def State.spanMapped (s : State) (x : Nat × Nat) : Bool :=
  decide (x.1 + x.2 ≤ 2 ^ 48) && s.place x.1 != .hole && s.place (x.1 + x.2 - 1) != .hole

/-- The shelf group whose window a device address names, whether or not it is attached (R247). -/
def shelfWindow (a : Nat) : Option Nat :=
  if 0x100000000000 ≤ a ∧ a < 0x180000000000 then some ((a - 0x100000000000) / 0x40000000000) else none

/-- The groups that a list of spans names. -/
def shelfGroups (xs : List (Nat × Nat)) : List Nat :=
  [0, 1].filter fun g => xs.any fun x => shelfWindow x.1 == some g || shelfWindow (x.1 + x.2 - 1) == some g

/-- A span touches a hole of a group's window: nothing is attached there, or the shelf ends below it (R247). -/
def State.shelfHole (s : State) (g : Nat) (xs : List (Nat × Nat)) : Bool :=
  xs.any fun x => [x.1, x.1 + x.2 - 1].any fun a => shelfWindow a == some g && s.place a == .hole

/-- A shelf group refuses a new access: it is not attached, or a detach waits (R258, R260). -/
def State.shelfShut (s : State) (g : Nat) : Bool := s.fld .shelfStatusState [g] != 2 || s.flag .shelfStatusDetachPending [g]

/-- A refused access to a shelf window is flagged, and counted where a detach waits (R260, R269, R270). -/
def State.shelfRefuse (s : State) (g : Nat) : State :=
  let s := s.raise .shelfStatusAccessRefused [g]
  if s.flag .shelfStatusDetachPending [g] then s.count .shelfCountRefused 1 [g] else s

/-- The DMA that a queue entry spells, its src and dst stepped (R194, R232). -/
def QIns.dmaJob (q : QIns) : DmaJob :=
  { id := q.id, bundle := q.bundle, tag := q.tag, layer := q.layer, outbound := false
    src := (q.stepped (q.f 0x00 47 0) (q.sf 0x34 25 0)).toNat, dst := (q.stepped (q.f 0x08 47 0) (q.sf 0x38 25 0)).toNat
    rowBytes := q.f 0x10 19 0, planes := q.f 0x14 27 16 + 1, rows := q.f 0x14 15 0 + 1, srcRow := q.f 0x18 31 0
    dstRow := q.f 0x1C 31 0, srcPlane := q.f 0x20 31 0, dstPlane := q.f 0x24 31 0, digest := q.f 0x28 63 0
    digestEn := q.f 0x30 25 25 == 1, transpose := q.f 0x30 27 26, tally := q.f 0x30 11 0, inc := q.f 0x30 24 12 + 1, groups := [] }

/-- The stepped addresses stay in 48 bits (R194). -/
def QIns.dmaStepsOk (q : QIns) : Bool :=
  let a := q.stepped (q.f 0x00 47 0) (q.sf 0x34 25 0)
  let b := q.stepped (q.f 0x08 47 0) (q.sf 0x38 25 0)
  decide (0 ≤ a) && decide (a < 2 ^ 48) && decide (0 ≤ b) && decide (b < 2 ^ 48)

/-- A DMA whose source lies in the cell's own memory is outbound (R253). -/
def DmaJob.oriented (d : DmaJob) (c : Nat) : DmaJob := { d with outbound := d.srcRows.all (inWindow c) }

/-- The refusals of a DMA (R115, R232, R233, R249), apart from shelf groups. -/
def State.dmaOk (s : State) (c : Nat) (q : QIns) (d : DmaJob) : Bool :=
  q.clear dmaReserved && q.dmaStepsOk && decide (0 < d.rowBytes) &&
    (decide (d.transpose = 0) || decide (d.rowBytes % d.elemBytes = 0)) &&
    (d.srcRows.all (inWindow c) || d.dstRows.all (inWindow c)) && d.srcRows.all s.spanMapped && d.dstRows.all s.spanMapped

/-- The 256-byte transactions of a transfer (R253). -/
def DmaJob.transactions (d : DmaJob) : Nat := ceilDiv (d.rowBytes * d.rows * d.planes) 256

/-- The shelf group whose window holds byte k of the far end of a transfer, counted in the order of that end's rows (R253). -/
def DmaJob.farGroup (d : DmaJob) (k : Nat) : Option Nat :=
  let len := if d.outbound ∧ d.transpose ≠ 0 then d.rows * d.elemBytes else d.rowBytes
  let n := if d.outbound ∧ d.transpose ≠ 0 then d.rowBytes / d.elemBytes else d.rows
  let i := k / (len * n)
  let j := k / len % n
  shelfWindow (if d.outbound then dmaRow d.dst d.dstRow d.dstPlane i j + k % len else dmaRow d.src d.srcRow d.srcPlane i j + k % len)

/-- A tier-3 transaction issues (R259), for a DMA or the host. -/
def State.shelfTxn (s : State) (g : Nat) (owner : Option (Nat × Nat)) (part : Nat) : State :=
  let v := s.shelf g
  s.setShelf g { v with txns := v.txns ++ [⟨v.nextTxn, owner, part, false⟩], nextTxn := v.nextTxn + 1 }

/-- The tier-3 transactions of a DMA, issued in address order, each to the group of its first byte (R233, R259). -/
def State.shelfIssue (s : State) (p : Nat) (d : DmaJob) : State :=
  (List.range d.transactions).foldl (fun s i => match d.farGroup (256 * i) with
    | some g => s.shelfTxn g (some (p, d.id)) i
    | none => s) s

/-- Each of the group's engines carries traffic (R261, R269). -/
def State.shelfWhole (s : State) (g : Nat) : Bool := s.fld .shelfStatusEnginesUp [g] == 7

/-- The DMAs that a cell may have outstanding (R203). -/
def dmaDepth : Nat := 8

/-- A DMA issues (R203, R233): it waits while eight are outstanding, is refused under R67, or is under way. A forced window on its shelf
links, or a group that has lost an engine, costs its frame the flag (R261, R405). -/
def State.dmaStep (s : State) (p : Nat) : State :=
  let c := s.cell p
  match c.dmaQ, s.clockedCmd p with
  | q :: _, some _ =>
    if dmaDepth ≤ c.dmas.length then s else
    let d := q.dmaJob.oriented (s.logical p)
    let spans := d.srcRows ++ d.dstRows
    let groups := shelfGroups spans
    let shut := groups.filter fun g => s.shelfShut g || s.shelfHole g spans
    if s.dmaOk (s.logical p) q d && shut.isEmpty then
      let d := { d with groups := groups }
      let s := (s.issue p .dma q 1).onCell p fun c => { c with dmas := c.dmas ++ [d] }
      let s := if groups.any fun g => s.forcedOn 4 g || !s.shelfWhole g then
          match c.cmd with | some m => s.clearEntryTiming m.queue m.index | none => s
        else s
      if groups.isEmpty then s else s.shelfIssue p d
    else (shut.foldl State.shelfRefuse s).refuse p .dma q
  | _, _ => s

/-- DMA (R233). -/
def execDma (p : Fin 36) (s : State) : Host.Outcome State Fault Refusal := .next (s.dmaStep p)

/-- The bytes of the source, rows in order within a plane and planes in order (R263). -/
def State.dmaBytes (s : State) (d : DmaJob) : List (List Byte) := d.srcRows.map fun x => s.devRead x.1 x.2

/-- Column k of the rows of one plane, elements of e bytes (R115). -/
def columnBytes (e k : Nat) (rows : List (List Byte)) : List Byte := rows.flatMap fun r => (r.drop (k * e)).take e

/-- The rows as they are written: in order, or transposed plane by plane (R115). -/
def DmaJob.outRows (d : DmaJob) (rows : List (List Byte)) : List (List Byte) :=
  if d.transpose = 0 then rows else
  (chunks d.rows d.planes rows).flatMap fun pl =>
    (List.range (d.rowBytes / d.elemBytes)).map fun k => columnBytes d.elemBytes k pl

/-- The verdict of a digest check (R264, R265, R271 to R273): the counts, and the first mismatch kept until valid is cleared. -/
def State.dmaVerdict (s : State) (p : Nat) (d : DmaJob) (got : Nat) : State :=
  let s := s.ccount .dmaCountDigestChecks 1 p
  if got = d.digest then s else
  let s := s.ccount .dmaCountDigestFaults 1 p
  if s.cflag .dmaFaultValid p then s else
  let s := ((s.craise .dmaFaultValid p).csetFld .dmaFaultOutbound (b2n d.outbound) p).csetFld .dmaFaultBundle (d.bundle % 4096) p
  (s.csetFld .dmaExpDigest d.digest p).csetFld .dmaGotDigest got p

/-- A shelf group still owes transactions of a DMA (R259). -/
def State.shelfOwes (s : State) (p : Nat) (d : DmaJob) : Bool :=
  d.groups.any fun g => (s.shelf g).txns.any fun t => t.owner == some (p, d.id)

/-- Source and destination address of byte k of a transfer, in the order of its far end (R115, R253). -/
def DmaJob.move (d : DmaJob) (k : Nat) : Nat × Nat :=
  let e := d.elemBytes
  if d.transpose = 0 ∨ !d.outbound then
    let i := k / (d.rowBytes * d.rows)
    let j := k / d.rowBytes % d.rows
    let b := k % d.rowBytes
    (dmaRow d.src d.srcRow d.srcPlane i j + b,
      if d.transpose = 0 then dmaRow d.dst d.dstRow d.dstPlane i j + b
      else dmaRow d.dst d.dstRow d.dstPlane i (b / e) + j * e + b % e)
  else
    let len := d.rows * e
    let i := k / (len * (d.rowBytes / e))
    let c := k / len % (d.rowBytes / e)
    let b := k % len
    (dmaRow d.src d.srcRow d.srcPlane i (b / e) + c * e + b % e, dmaRow d.dst d.dstRow d.dstPlane i c + b)

/-- The transactions of a DMA that a shelf group still owes. -/
def State.dmaOpen (s : State) (p : Nat) (d : DmaJob) : List Nat :=
  d.groups.flatMap fun g => ((s.shelf g).txns.filter fun t => t.owner == some (p, d.id)).map (·.part)

/-- The transactions of a DMA that have ended write their bytes, and those outstanding write none (R259). -/
def State.dmaPartial (s : State) (p : Nat) (d : DmaJob) : State :=
  let owed := s.dmaOpen p d
  ((List.range (d.rowBytes * d.rows * d.planes)).filter fun k => !owed.contains (k / 256)).foldl
    (fun s k => s.devSet (d.move k).2 (s.devByte (d.move k).1)) s

/-- The last write of a DMA (R233, R254, R265): its bytes move, its digest is checked, its tally is signalled or the command
ends with status 0x07. -/
def State.dmaEnd (s : State) (p : Nat) (d : DmaJob) : State :=
  let rows := s.dmaBytes d
  let s := ((d.dstRows.zip (d.outRows rows)).foldl (fun s x => s.devWrite x.1.1 x.2) s)
  let s := (s.onCell p fun c => { c with dmas := dropFirst (fun x => x.id == d.id) c.dmas }).finish p d.id
  if d.digestEn then
    let got := digest64 rows.flatten
    let s := s.dmaVerdict p d got
    if got = d.digest then s.signalTally none d.tally d.inc else s.endCmd p 7
  else s.signalTally none d.tally d.inc

/-- DMA_COMPLETE (R265). -/
def execDmaComplete (p : Fin 36) (id : Nat) (s : State) : Host.Outcome State Fault Refusal :=
  .next (match (s.cell p).dmas.find? fun d => d.id == id with
    | some d => if s.gated || s.shelfOwes p d then s else s.dmaEnd p d
    | none => s)

/-! The zero clear (R107, R127, R128). -/

/-- MEM_CLEAR (R107): no effect while a clear runs, refused while a command runs, else the clear starts. -/
def execMemClear (p : Fin 36) (val : BitVec 32) (s : State) : Host.Outcome State Fault Refusal :=
  .next (s.hostWriteAt (RegId.addr .memCtrl (cellIx p)) fun s =>
    if !bitOf val.toNat 0 || s.cflag .memStatusClearBusy p then s
    else if (s.cell p).idle then (s.onCell p fun c => { c with cleared := 0 }).craise .memStatusClearBusy p
    else s.craise .memStatusClearRefused p)

/-- MEM_CLEAR_DONE (R107): the rest of the memory is zeroed, and the cell accepts commands. -/
def execMemClearDone (p : Fin 36) (s : State) : Host.Outcome State Fault Refusal :=
  .next (if !s.gated && s.cflag .memStatusClearBusy p then
      (s.onCell p fun c => c.clearTo clearSteps).csetFld .memStatusClearBusy 0 p
    else s)

end Sys2Proof.Machine
end

