-- ==== Sys2Proof/Machine/Lasers.lean ====
section
/-! DEFINITION. The laser modules: identity, wear, hot replacement, safety and commands (R443, R446 to R455, R459 to R461). -/

namespace Sys2Proof.Machine

def State.laser (s : State) (m : Nat) : LaserSt := tabGet laserReset s.lasers m
def State.setLaser (s : State) (m : Nat) (v : LaserSt) : State := { s with lasers := tabSet laserReset s.lasers m v }

def State.setLasState (s : State) (m v : Nat) : State := s.setFld .lasStatusState v [m]

/-- A bias in thousandths of nominal, shown in percent (R460). -/
def State.setBias (s : State) (m b : Nat) : State := (s.setLaser m { s.laser m with bias := b }).setFld .lasStatusBias (b / 10) [m]

/-- The cross-feed bias of a module (R446, R459). -/
def State.crossBias (s : State) (m : Nat) : Nat := s.fld .lasRatingCrossBias [m] * 10

/-- The wear flags of a module (R448). -/
def State.showWear (s : State) (m : Nat) : State :=
  let w := s.fld .lasWearWear [m]
  let rated := s.fld .lasRatingHours [m] * 65536
  (s.setFld .lasStatusWearWarn (b2n (rated != 0 && decide (9 * rated ≤ 10 * w))) [m]).setFld .lasStatusWearEnd
    (b2n (rated != 0 && decide (rated ≤ w))) [m]

/-- A partner in service cross-feeds (R450, R452). -/
def State.crossFeed (s : State) (m : Nat) : State :=
  if s.lasState m = lasService then (s.setLasState m lasCross).setBias m (s.crossBias m) else s

/-- The ports of the two engines for which a module is primary (R429). -/
def ownPorts (m : Nat) : List Nat := [2 * m, 2 * m + 1].filter (· < 24)

/-- A lit laser module goes dark and is failed; its partner cross-feeds, and the ports it supplied relock (R452, R453, R455). -/
def State.shutLaser (s : State) (m : Nat) : State :=
  if s.lasLit m then
    let s := (s.setLasState m lasFailed).setBias m 0
    let s := s.setLaser m { s.laser m with removing := false, takeUp := false }
    let s := s.crossFeed (partner m)
    ((ownPorts m).foldl State.relockPort s).lightPorts false
  else if s.lasState m = lasAbsent ∨ s.lasState m = lasReleased then s
  else s.setLasState m lasFailed

/-! Hot replacement (R449 to R452). -/

/-- LASER_REMOVE (R449). -/
def execLaserRemove (m : Fin 16) (s : State) : Host.Outcome State Fault Refusal :=
  .next (if s.lasState m = lasService ∧ s.lasState (partner m) = lasService then s.setLaser m { s.laser m with removing := true }
    else s.raise .lasStatusRemoveRefused [m])

/-- A change of a laser's outputs at a station frame boundary, which waits while a task-1 window runs (R406, R450, R451). -/
def State.atLaserBoundary (s : State) (m : Nat) (act : State → State) : State :=
  if !s.station.boundary && !(s.laser m).due then s
  else if s.taskRuns 1 then s.setLaser m { s.laser m with due := true }
  else act (s.setLaser m { s.laser m with due := false })

/-- LASER_HANDOVER (R450): at the frame boundary, once a task-1 window has ended (R406). -/
def execLaserHandover (m : Fin 16) (s : State) : Host.Outcome State Fault Refusal :=
  .next (if (s.laser m).removing ∧ s.lasState m = lasService ∧ s.lasState (partner m) = lasService then
      s.atLaserBoundary m fun s => (s.setLasState m lasHanding).crossFeed (partner m)
    else s)

/-- LASER_RELEASED (R450). -/
def execLaserReleased (m : Fin 16) (s : State) : Host.Outcome State Fault Refusal :=
  .next (if s.lasState m = lasHanding then
      let s := s.setLaser m { s.laser m with removing := false, stored := s.fld .lasWearWear [m] }
      (s.setLasState m lasReleased).setBias m 0
    else s)

/-- Rated life in hours at nominal bias and 45 °C (R446). -/
def ratedHours : Nat := 40000

/-- LASER_INSERT (R446, R447, R451): a module comes into a socket whose module is not lit. -/
def execLaserInsert (m : Fin 16) (ident : List (BitVec 8)) (s : State) : Host.Outcome State Fault Refusal :=
  .next (if s.lasLit m then s
    else
      let serial := Config.laserField 0 ident % 2 ^ 64
      let stored := Config.laserField 4 ident % 2 ^ 32
      let bad := !Config.laserCrcOk ident || decide (Config.laserField 1 ident < 150) || Config.laserField 2 ident != 140
      let s := s.setLaser m { LaserSt.empty with stored := stored, takeUp := !bad, ident := ident }
      let s := s.setFld .lasSerialSerial serial [m]
      let s := s.setFld .lasRatingHours ratedHours [m]
      let s := (s.setFld .lasRatingMaxBias (Config.laserField 1 ident) [m]).setFld .lasRatingCrossBias (Config.laserField 2 ident) [m]
      let s := s.setFld .lasWearWear (Nat.max stored (tabGet countReset s.stash.wear serial)) [m]
      let s := (s.setFld .lasStatusInterlockOpen 0 [m]).setBias m 0
      (s.setLasState m (if bad then lasIdentity else lasReleased)).showWear m)

/-- The module lights its primary output (R23, R451): a partner that cross-feeds returns to nominal bias; where the partner is not lit, the
module feeds all the engines of the pair. -/
def State.takeUpLaser (s : State) (m : Nat) : State :=
  let p := partner m
  let s := s.setLaser m { s.laser m with takeUp := false }
  let s := (s.setLasState m lasService).setBias m 1000
  let s := if s.lasState p = lasCross then (s.setLasState p lasService).setBias p 1000
    else if s.lasLit p then s
    else s.crossFeed m
  s.lightPorts true

/-- LASER_TAKE_UP (R451). -/
def execLaserTakeUp (m : Fin 16) (s : State) : Host.Outcome State Fault Refusal :=
  .next (if s.lasState m = lasReleased ∧ (s.laser m).takeUp ∧ !s.flag .lasCtrlHold [m] ∧ s.opticsOn then
      s.atLaserBoundary m (State.takeUpLaser · m)
    else s)

/-- The socket is empty (R459, R460). -/
def State.emptySocket (s : State) (m : Nat) : State :=
  let s := ((s.setLaser m LaserSt.empty).setFld .lasWearWear 0 [m]).setFld .lasSerialSerial 0 [m]
  let s := ((s.setFld .lasRatingHours 0 [m]).setFld .lasRatingMaxBias 0 [m]).setFld .lasRatingCrossBias 0 [m]
  let s := ((s.setLasState m lasAbsent).setFld .lasStatusBias 0 [m]).setFld .lasStatusTemperature 0 [m]
  (s.setFld .lasStatusWearWarn 0 [m]).setFld .lasStatusWearEnd 0 [m]

/-- LASER_FAILURE (R452, R459): the module fails, or is `removed`, which leaves its socket empty. -/
def execLaserFailure (m : Fin 16) (removed : Bool) (s : State) : Host.Outcome State Fault Refusal :=
  .next (if removed then (s.shutLaser m).emptySocket m else s.shutLaser m)

/-! Safety and commands (R453, R454). -/

/-- INTERLOCK_OPEN (R453): a released module has its interlock disarmed. -/
def execInterlockOpen (m : Fin 16) (s : State) : Host.Outcome State Fault Refusal :=
  .next ((s.raise .lasStatusInterlockOpen [m]).shutLaser m)

/-- CONNECTOR_OPEN (R453): the engine's input shutter closes. -/
def execConnectorOpen (e : Fin 32) (s : State) : Host.Outcome State Fault Refusal :=
  .next (
    let s := { s with shutters := if s.shutters.contains e then s.shutters else s.shutters ++ [(e : Nat)] }
    if (e : Nat) < 24 then (s.followLight true e).barrierGo else s)

/-- CONNECTOR_CLOSE (R453). -/
def execConnectorClose (e : Fin 32) (s : State) : Host.Outcome State Fault Refusal :=
  .next (
    let s := { s with shutters := s.shutters.filter (· != e) }
    if (e : Nat) < 24 then (s.followLight true e).barrierGo else s)

/-- A command that the module ignores or refuses (R454): the first failure and three retries in a window mark the module failed. -/
def State.laserTryFailed (s : State) (m : Nat) : State :=
  let v := s.laser m
  if 3 ≤ v.tries then
    (((s.setLaser m { v with tries := 0 }).raise .lasStatusCmdFault [m]).shutLaser m).setLasState m lasFailed
  else s.setLaser m { v with tries := v.tries + 1 }

/-- A window opens: the tries of laser commands count anew (R454). -/
def State.freshTries (s : State) : State :=
  (List.range 16).foldl (fun s m => s.setLaser m { s.laser m with tries := 0 }) s

/-- LASER_COMMAND (R406, R454): while a task-1 window has the command path, the supervisor sends none. -/
def execLaserCommand (m : Fin 16) (word : BitVec 64) (s : State) : Host.Outcome State Fault Refusal :=
  .next (
    if s.taskRuns 1 then s else
    let w := word.toNat
    let v := s.laser m
    let seq := bitsOf w 63 48
    let ok := crc16 ((leBytes 8 w).drop 2) == bitsOf w 15 0 && (match v.last with | some l => seq == (l + 1) % 65536 | none => true)
    let bias := Config.laserBias (bitsOf w 47 40) (bitsOf w 39 24) (bitsOf w 23 16)
    let high := match bias with | some b => decide (s.fld .lasRatingMaxBias [m] * 10 < b) | none => false
    if s.lasState m = lasAbsent ∨ s.lasState m = lasIdentity then s
    else if !ok || high then s.laserTryFailed m
    else
      let s := s.setLaser m { v with last := some seq, tries := 0 }
      match bias with
      | some b => if s.lasLit m then s.setBias m b else s
      | none => s)

/-! Wear (R447, R448). -/

/-- A step of wear, in units of 2^-32 hour, lies within 1 % of b × 2^((T - 45) / 10) / 3,600 hour, for b in thousandths: both sides
compared in their tenth powers. -/
def wearWithin (b t step : Nat) : Bool :=
  let exact := fun k => (k * b * 2 ^ 32) ^ 10 * 2 ^ t
  let mine := (100 * step * 3600000) ^ 10 * 2 ^ 45
  decide (exact 99 ≤ mine) && decide (mine ≤ exact 101)

/-- The largest step not above the formula, by bits from the top. -/
def wearRoot (b t : Nat) : Nat → Nat → Nat
  | 0, r => r
  | n + 1, r => wearRoot b t n (if ((r + 2 ^ n) * 3600000) ^ 10 * 2 ^ 45 ≤ (b * 2 ^ 32) ^ 10 * 2 ^ t then r + 2 ^ n else r)

/-- The wear of a second at a bias and a temperature: the part's own value within the manual's bound. -/
def wearOf (b temp : Nat) : Nat :=
  let t := Nat.min 85 (Nat.max 25 temp)
  if wearWithin b t (Config.wearStep b t) then Config.wearStep b t else wearRoot b t 40 0

/-- A second of wear of a lit module (R447). -/
def State.wearLaser (s : State) (m : Nat) : State :=
  if s.lasLit m ∧ s.fld .pwrStateCurrent ≤ 2 then
    let v := s.laser m
    let total := v.frac + wearOf v.bias (s.fld .lasStatusTemperature [m])
    let s := s.setLaser m { v with frac := total % 65536 }
    (s.setFld .lasWearWear (satAdd 32 (s.fld .lasWearWear [m]) (total / 65536)) [m]).showWear m
  else s

/-- WEAR_TICK (R447). -/
def execWearTick (s : State) : Host.Outcome State Fault Refusal := .next ((List.range 16).foldl State.wearLaser s)

/-! The work of thaw windows on lasers (R443, R447, R455). -/

/-- An output's power lies more than 20 % above what the module's bias gives under its calibration data (R455). -/
def State.overPower (s : State) (m : Nat) (power : Nat) : Bool :=
  decide (120 * Config.laserPower (s.laser m).ident (s.laser m).bias < 100 * power)

/-- Task 1 (R455). -/
def State.safetyCheck (s : State) (l : List LaserReading) : State :=
  l.foldl (fun s r =>
    let m := r.laser % 16
    let s := s.setFld .lasStatusInterlockOpen (b2n r.loopOpen) [m]
    let s := if s.lasState m = lasAbsent then s else s.setFld .lasStatusTemperature r.temperature.toNat [m]
    if s.lasState m != lasAbsent && r.powers.any (s.overPower m) then (s.shutLaser m).setLasState m lasFailed
    else if r.loopOpen then s.shutLaser m
    else s) s

/-- The module that supplies an engine (R429, R452). -/
def State.supplier (s : State) (e : Nat) : Option Nat :=
  let m := primaryOf e
  if s.lasLit m then some m else if s.lasState (partner m) = lasCross then some (partner m) else none

/-- Task 3 (R443, R454): at most 5 thousandths in a window; within 800 to 1,250 while not cross-feeding, and never above the module's
maximum bias. -/
def State.biasCalibrate (s : State) (e : Nat) (permil : Int) : State :=
  match s.supplier e with
  | some m =>
    let d := if permil < -5 then -5 else if 5 < permil then 5 else permil
    let b := ((s.laser m).bias : Int) + d
    if s.lasState m = lasCross then (if (s.fld .lasRatingMaxBias [m] : Int) * 10 < b then s else s.setBias m b.toNat)
    else s.setBias m (if b < 800 then 800 else if 1250 < b then 1250 else b.toNat)
  | none => s

/-- Task 7: temperatures, and the wear written to the modules (R447). -/
def State.telemetry (s : State) (l : List LaserReading) : State :=
  let s := l.foldl (fun s r => if s.lasState (r.laser % 16) = lasAbsent then s
    else s.setFld .lasStatusTemperature r.temperature.toNat [r.laser % 16]) s
  (List.range 16).foldl (fun s m => if s.lasState m = lasAbsent then s
    else s.setLaser m { s.laser m with stored := s.fld .lasWearWear [m] }) s

end Sys2Proof.Machine
end

