-- ==== Sys2Proof/Machine/Island.lean ====
section
/-! DEFINITION. The metering island: energy, tags, log, snapshots, firmware, seal and verification port (R508 to R516, R521). -/

namespace Sys2Proof.Machine

def accReset (_ : Nat) : Nat := 0
def recReset (_ : Nat) : BitVec 256 := 0

/-- The records of the log ring (R512). -/
def islandRing : Nat := 262144

/-- The hold-up line (R507): E_u is at least 0.4 J. -/
def State.holdupLine (s : State) : Bool := decide (40 ≤ s.fld .pwrHoldupEnergy)

/-- A log record (R512). -/
def islandRecord (v : IslandSt) (type : Nat) (data : BitVec 64) : BitVec 256 :=
  let body := leBytes 4 v.seq ++ leBytes 4 type ++ leBytes 8 v.uptime ++ leBytes 4 v.boots ++ leBytes 8 data.toNat
  BitVec.ofNat 256 (leNat (body ++ leBytes 4 (crc32c body)))

/-- The sequence that a record carries. -/
def recSeq (r : BitVec 256) : Nat := bitsOf r.toNat 31 0

/-- The records of one FRAM session, at most (R507). -/
def islandSession : Nat := 16

/-- A session: the oldest buffered records reach the log (R507). -/
def IslandSt.commit (v : IslandSt) : IslandSt :=
  { v with log := (v.buffer.take islandSession).foldl (fun t r => tabSet recReset t (recSeq r % islandRing) r) v.log
           buffer := v.buffer.drop islandSession }

/-- As many sessions as the buffered records take, at most `n` (R508). -/
def IslandSt.commitAll (v : IslandSt) : Nat → IslandSt
  | 0 => v
  | n + 1 => v.commit.commitAll n

/-- A record is made, and a session is opened while the hold-up line is asserted (R507, R512). -/
def State.islandLog (s : State) (type : Nat) (data : BitVec 64) : State :=
  let v := s.island
  let v := { v with buffer := v.buffer ++ [islandRecord v type data], seq := (v.seq + 1) % 2 ^ 32 }
  { s with island := if s.holdupLine then v.commit else v }

/-! Energy and tags (R510, R511). -/

/-- The total in µWh (R510). -/
def IslandSt.total (v : IslandSt) : Nat := (v.acc.map (·.2)).sum

/-- The pulses that a total makes: 100,000 per kWh (R509). -/
def pulsesOf (microWh : Nat) : Nat := microWh / 10000

/-- METER_INTERVAL (R509, R510, R516): the register of the tag in force takes the interval's energy, the test output its pulses, and a tag
message received in it takes effect (R511). -/
def execMeterInterval (microWh : Nat) (s : State) : Host.Outcome State Fault Refusal :=
  .next (if s.island.powered then
      let v := s.island
      let r := v.tag.getD 0
      let v := { v with acc := tabSet accReset v.acc r (tabGet accReset v.acc r + microWh), tag := v.next, uptime := v.uptime + 1000
                        pulses := v.pulses + (pulsesOf (v.total + microWh) - pulsesOf v.total) }
      { s with island := if s.holdupLine then v.commit else v }
    else s)

/-- No valid tag is left, which is counted and logged (R511, R512). -/
def State.tagFault (s : State) : State :=
  let s := { s with island := { s.island with next := none } }
  (s.count .mtrStatusTagFaults 1).islandLog 2 (Config.islandData 2 [])

/-- The CRC-8 of a tag message holds (R511). -/
def tagMessageOk (w : BitVec 32) : Bool := crc8 (leBytes 3 w.toNat) == bitsOf w.toNat 31 24

/-- TAG_MESSAGE (R406, R511): the hub's message of the frame boundary reaches the island, with the bits of `noise` inverted on the channel. One
that falls in a task-2 window waits for it to end. -/
def execTagMessage (noise : BitVec 32) (s : State) : Host.Outcome State Fault Refusal :=
  .next (match s.island.message with
    | none => s
    | some m =>
      if s.taskRuns 2 ∨ !s.island.powered then s
      else
        let w := m ^^^ noise
        let s := { s with island := { s.island with message := none } }
        if tagMessageOk w then { s with island := { s.island with next := some (bitsOf w.toNat 5 0) } } else s.tagFault)

/-- TAG_TIMEOUT (R511). -/
def execTagTimeout (s : State) : Host.Outcome State Fault Refusal := .next (if s.island.powered then s.tagFault else s)

/-- METER_SUMMARY (R512). -/
def execMeterSummary (s : State) : Host.Outcome State Fault Refusal :=
  .next (if s.island.powered then s.islandLog 1 (Config.islandData 1 (leBytes 8 s.island.total)) else s)

/-! Snapshot (R513, R521). -/

/-- What a snapshot holds, in the order in which R513 names it (log entry 77). -/
def IslandSt.snapBytes (v : IslandSt) : List Byte :=
  ((List.range 64).flatMap fun n => leBytes 8 (tabGet accReset v.acc n / 1000)) ++ leBytes 8 (v.total / 1000) ++ leBytes 8 v.uptime ++
    leBytes 4 v.boots ++ leBytes 4 v.snap

/-- The snapshot of a task-2 window: the mirror changes whole, with the boot count and the CRC-32C that no register shows. -/
def State.snapshot (s : State) : State :=
  if !s.island.powered then s else
  let v := { s.island with snap := (s.island.snap + 1) % 2 ^ 32 }
  let v := { v with snapBoots := v.boots, snapCrc := crc32c v.snapBytes }
  let s := { s with island := v }
  let s := (List.range 64).foldl (fun s n => s.setReg .mtrReg (BitVec.ofNat 64 (tabGet accReset v.acc n / 1000)) [n]) s
  let s := (s.setReg .mtrTotal (BitVec.ofNat 64 (v.total / 1000))).setReg .mtrUptime (BitVec.ofNat 64 v.uptime)
  (s.setReg .mtrSnap (BitVec.ofNat 64 v.snap)).setFld .mtrStatusCrcCheck 0

/-! Firmware, seal and calibration (R512, R514, R515). -/

/-- MTR_FW shows the identifier, the checksum and the event counter (R514, R521). -/
def State.showMtrFw (s : State) : State :=
  let v := s.island
  let bytes := (v.fwId ++ List.replicate 16 0).take 16 ++ leBytes 4 v.fwSum ++ leBytes 4 v.events
  (List.range 6).foldl (fun s i => s.setReg .mtrFw (BitVec.ofNat 64 (leNat ((bytes.drop (4 * i)).take 4))) [i]) s

/-- An event of R514, with its log record. The counter never decreases: at its last value it stays. -/
def State.islandEvent (s : State) (type : Nat) (data : BitVec 64) : State :=
  ({ s with island := { s.island with events := Nat.min (2 ^ 32 - 1) (s.island.events + 1) } } : State).islandLog type data |>.showMtrFw

/-- An image is written to the inactive firmware slot (R515). -/
def IslandSt.writeSlot (v : IslandSt) (image : List Byte) : IslandSt :=
  if v.slotBOn then { v with slotA := image } else { v with slotB := image }

/-- The slots change places: the image written runs (R515). -/
def IslandSt.switchSlot (v : IslandSt) (ident image : List Byte) : IslandSt :=
  { v with slotBOn := !v.slotBOn, fwId := ident.take 16, fwSum := crc32c image }

/-- ISLAND_FIRMWARE_UPDATE (R515): while the seal is open the image goes to the inactive slot; `sigOk` is the verdict of the slot's check, and
where it fails the old image runs on. -/
def execIslandFirmwareUpdate (ident image : List (BitVec 8)) (sigOk : Bool) (s : State) : Host.Outcome State Fault Refusal :=
  .next (if s.island.powered ∧ s.island.sealOpen then
      let v := s.island.writeSlot image
      if sigOk then
        ({ s with island := v.switchSlot ident image } : State).islandEvent 5 (Config.islandData 5 (v.fwId ++ ident.take 16))
      else { s with island := v }
    else s)

/-- SEAL_OPEN (R512, R514): an island without power sees no switch change. -/
def execSealOpen (s : State) : Host.Outcome State Fault Refusal :=
  .next (
    let was := s.island.sealOpen
    let s := { s with island := { s.island with sealOpen := true } }
    if s.island.powered ∧ !was then s.islandEvent 6 (Config.islandData 6 []) else s)

/-- SEAL_CLOSE (R512). -/
def execSealClose (s : State) : Host.Outcome State Fault Refusal :=
  .next (
    let was := s.island.sealOpen
    let s := { s with island := { s.island with sealOpen := false } }
    if s.island.powered ∧ was then s.islandLog 7 (Config.islandData 7 []) else s)

/-- METER_CALIBRATION_CHANGE (R512, R514). -/
def execMeterCalibrationChange (data : BitVec 64) (s : State) : Host.Outcome State Fault Refusal :=
  .next (if s.island.powered then s.islandEvent 8 (Config.islandData 8 (leBytes 8 data.toNat)) else s)

/-- The log in sequence order, oldest first. -/
def IslandSt.records (v : IslandSt) : List (BitVec 256) :=
  (v.log.filter fun e => decide (v.seq % islandRing ≤ e.1)).map (·.2) ++
    (v.log.filter fun e => decide (e.1 < v.seq % islandRing)).map (·.2)

/-- What the UART answers (R516). -/
def IslandSt.answer (v : IslandSt) : VerifyItem → List Byte
  | .identity => v.fwId
  | .checksum => leBytes 4 v.fwSum
  | .counter => leBytes 4 v.events
  | .registers => (List.range 64).flatMap fun n => leBytes 8 (tabGet accReset v.acc n / 1000)
  | .log => v.records.flatMap fun r => leBytes 32 r.toNat

/-- VERIFICATION_READ (R516). -/
def execVerificationRead (item : VerifyItem) (s : State) : Host.Outcome State Fault Refusal :=
  .next (if s.island.powered then { s with island := { s.island with uart := s.island.uart ++ [s.island.answer item] } } else s)

/-! Its power (R508, R512, R571). -/

/-- The input fails: the island commits what it has buffered and a power-down record, and stops (R508). -/
def State.islandDown (s : State) : State :=
  if !s.island.powered then s else
  let s := s.islandLog 4 (Config.islandData 4 [])
  { s with island := { s.island.commitAll s.island.buffer.length with powered := false, tag := none, next := none } }

/-- The input returns: a power-up record (R512, R571). -/
def State.islandUp (s : State) : State :=
  if s.island.powered then s else
  let s := { s with island := { s.island with powered := true, boots := (s.island.boots + 1) % 2 ^ 32, uptime := 0 } }
  s.islandLog 3 (Config.islandData 3 [])

end Sys2Proof.Machine
end

