-- ==== Sys2Proof/Machine/Coder.lean ====
section
/-! DEFINITION. The range-coder lanes, escaping, and the CDF tables of the coding complex (R299 to R312, R316). -/

namespace Sys2Proof.Machine

/-! Escaping (R316). -/

/-- A content byte leaves a lane, escaped; the first byte of all is the leading zero and is dropped (R299, R316). -/
def EncLane.put (l : EncLane) (b : Nat) : EncLane :=
  if l.lead then { l with lead := false }
  else
    let l := if l.z = 2 ∧ b ≤ 3 then { l with out := l.out ++ [3], z := 0 } else l
    { l with out := l.out ++ [b], z := if b = 0 then l.z + 1 else 0, raw := l.raw + 1 }

/-- A span escaped, with its pad byte (R316). -/
def escapeFrom : Nat → List Byte → List Byte
  | z, [] => if 0 < z then [3] else []
  | z, b :: t =>
    let n := if b = 0 then (if z = 2 then 1 else z + 1) else 0
    if z = 2 ∧ b.toNat ≤ 3 then 3 :: b :: escapeFrom n t else b :: escapeFrom n t

def escape (bs : List Byte) : List Byte := escapeFrom 0 bs

/-- A reader at escaped byte `at_` of a span of `left` escaped and `len` content bytes. -/
def reader (at_ left len : Nat) : DecLane := ⟨0, 0, false, at_, left, len, 0, 0, false⟩

/-- The next content byte of a span (R316): none past its length, past its escaped bytes, or at an escape fault. -/
def State.nextByte (s : State) (l : DecLane) : Option (Nat × DecLane) :=
  let take := fun l : DecLane =>
    if l.left = 0 then none
    else
      let b := (s.devByte l.at_).toNat
      some (b, { l with at_ := l.at_ + 1, left := l.left - 1, got := l.got + 1, z := if b = 0 then l.z + 1 else 0 })
  if l.len ≤ l.got ∨ l.left = 0 then none
  else
    let b := (s.devByte l.at_).toNat
    if l.z = 2 ∧ b ≤ 2 then none
    else if l.z = 2 ∧ b = 3 then take { l with at_ := l.at_ + 1, left := l.left - 1, z := 0 }
    else take l

/-- `n` content bytes. -/
def State.nextBytes (s : State) : Nat → DecLane → Option (List Byte × DecLane)
  | 0, l => some ([], l)
  | n + 1, l =>
    match s.nextByte l with
    | none => none
    | some (b, l) => (s.nextBytes n l).map fun r => (BitVec.ofNat 8 b :: r.1, r.2)

/-- The reader after the pad byte of a span that has been read (R316). -/
def State.dropPad (s : State) (l : DecLane) : DecLane :=
  if 0 < l.z ∧ 0 < l.left ∧ s.devByte l.at_ = 3 then { l with at_ := l.at_ + 1, left := l.left - 1 } else l

/-! The encoder (R299). -/

/-- `n` times the byte x, with the carry: the first is x, the rest 0xFF. -/
def putRun (carry : Nat) : Nat → Nat → EncLane → EncLane
  | 0, _, l => l
  | n + 1, x, l => putRun carry n 0xFF (l.put ((x + carry) % 256))

/-- shift_low. -/
def EncLane.shiftLow (l : EncLane) : EncLane :=
  let l := if l.low % 2 ^ 32 < 0xFF000000 ∨ 2 ^ 32 ≤ l.low then
      { putRun (l.low / 2 ^ 32) l.held l.cache l with held := 0, cache := (l.low / 2 ^ 24) % 256 }
    else l
  { l with held := l.held + 1, low := (l.low * 256) % 2 ^ 32 }

/-- Renormalisation: at most four shifts (R301). -/
def EncLane.renorm : Nat → EncLane → EncLane
  | 0, l => l
  | n + 1, l => if l.range < 2 ^ 24 then ({ l with range := l.range * 256 }).shiftLow.renorm n else l

/-- One symbol with b bypass bits of value v, from the cumulative values F of an alphabet of n. -/
def EncLane.encode (l : EncLane) (F : Nat → Nat) (n sym b v : Nat) : EncLane :=
  let r := l.range / 65536
  let l := { l with
    low := l.low + r * F sym
    range := if sym < n - 1 then r * (F (sym + 1) - F sym) else l.range - r * F sym }
  let l := l.renorm 4
  if b = 0 then l
  else
    let g := l.range / 2 ^ b
    ({ l with range := g, low := l.low + v * g }).renorm 4

/-- The lane's flush and its pad (R299, R316). -/
def EncLane.flush (l : EncLane) : EncLane :=
  let l := l.shiftLow.shiftLow.shiftLow.shiftLow.shiftLow
  if 0 < l.z then { l with out := l.out ++ [3] } else l

/-- Room for a symbol and the flush (R328). -/
def EncLane.roomFor (l : EncLane) (limit : Nat) : Bool := decide (l.esc + ceilDiv (3 * (l.held + 9)) 2 + 2 ≤ limit)

/-! The decoder (R300). -/

/-- A byte shifted into the code; none is a fault. -/
def State.codeByte (s : State) (l : DecLane) : Option DecLane :=
  (s.nextByte l).map fun r => { r.2 with code := (l.code * 256 + r.1) % 2 ^ 32 }

/-- The first four bytes of a lane's segment. -/
def State.beginLane (s : State) (l : DecLane) : Option DecLane :=
  let l := { l with begun := true, range := 0xFFFFFFFF, code := 0 }
  match ((s.codeByte l).bind s.codeByte).bind s.codeByte |>.bind s.codeByte with
  | none => none
  | some l => if l.code = 0xFFFFFFFF then none else some l

def State.renormDec (s : State) : Nat → DecLane → Option DecLane
  | 0, l => some l
  | n + 1, l => if l.range < 2 ^ 24 then (s.codeByte { l with range := l.range * 256 }).bind (s.renormDec n) else some l

/-- The largest symbol whose lower edge is within the code. -/
def findSym (r code : Nat) (F : Nat → Nat) : Nat → Nat
  | 0 => 0
  | n + 1 => if r * F (n + 1) ≤ code then n + 1 else findSym r code F n

/-- One symbol (R300): none is a fault. `bits` gives the number of bypass bits by the symbol. -/
def State.decodeSym (s : State) (l : DecLane) (F : Nat → Nat) (n : Nat) (bits : Nat → Nat) : Option (Nat × Nat × DecLane) :=
  match (if l.begun then some l else s.beginLane l) with
  | none => none
  | some l =>
    let r := l.range / 65536
    let sym := findSym r l.code F (n - 1)
    let code := l.code - r * F sym
    let range := if sym < n - 1 then r * (F (sym + 1) - F sym) else l.range - r * F sym
    if range ≤ code then none
    else match s.renormDec 4 { l with code := code, range := range } with
      | none => none
      | some l =>
        let b := bits sym
        if b = 0 then some (sym, 0, l)
        else
          let g := l.range / 2 ^ b
          let v := l.code / g
          if 2 ^ b ≤ v then none
          else (s.renormDec 4 { l with range := g, code := l.code - v * g }).map fun l => (sym, v, l)

/-! Tables (R303, R304). -/

/-- The units of a table (R303). -/
def tableUnits (n : Nat) : Nat := ceilDiv n 8

/-- Entry i of the table at a unit address. -/
def State.tableEntry (s : State) (base i : Nat) : Nat :=
  bitsOf (tabGet unitReset s.tables (base + i / 8)).toNat (16 * (i % 8) + 15) (16 * (i % 8))

/-- The cumulative values of a list of entries F[1] to F[n - 1]. -/
def cumul (n : Nat) (entry : Nat → Nat) (i : Nat) : Nat := if i = 0 then 0 else if n ≤ i then 65536 else entry i

/-- The frequencies are all at least 1 (R304). -/
def tableValid (n : Nat) (F : Nat → Nat) : Bool := (List.range n).all fun i => decide (F i < F (i + 1))

/-- The table that a symbol uses: open values where the address holds no valid table of n symbols. -/
def State.tableAt (s : State) (n base : Nat) : Nat → Nat :=
  let F := cumul n (s.tableEntry base)
  if s.tableEntry base 0 = n ∧ tableValid n F then F else cumul n (Config.strayTable base n)

/-- A table is written at a unit address (R303). -/
def State.putTable (s : State) (base n : Nat) (F : Nat → Nat) : State :=
  (List.range (tableUnits n)).foldl (fun s u =>
    let w := (List.range 8).foldl (fun a k =>
      let i := 8 * u + k
      a + (if i = 0 then n else if i < n then F i else 0) * 2 ^ (16 * k)) 0
    { s with tables := tabSet unitReset s.tables (base + u) (BitVec.ofNat 128 w) }) s

/-! Building (R305 to R308). -/

/-- The logistic function on the grid of R307, exactly rounded, or rounded to the grid from a faithful A32 value (R309). -/
def gridLogistic (fast : Bool) (u : Int) : Nat :=
  let grid := fun d : Dy => (d.scale 16).rne
  if u = 0 then 32768
  else if fast then
    match (SpecFn.logistic.faithful ⟨u, -10⟩).1 with
    | .fin d => Nat.min 65535 (grid d).toNat
    | _ => 65535
  else Nat.min 65535 (specRound .logistic ⟨u, -10⟩ grid specPrecisions).toNat

/-- E of R144 on either path (R307, R309). -/
def gridExp (fast : Bool) (a t : Nat) : Nat :=
  if fast ∧ t ≠ 0 then
    match (SpecFn.exp.faithful ⟨-(t : Int), (a : Int) - 127⟩).1 with
    | .fin d => (d.scale 15).rne.toNat
    | _ => 0
  else softE a t

/-- The cumulative logistic value of edge s (R307). -/
def logisticEdge (fast : Bool) (xmin mu : Int) (rho s : Nat) : Nat :=
  let d : Int := 64 * (xmin + s) + 32 - mu
  let u := (Dy.mk (d * rho) (-4)).rne
  gridLogistic fast (if u < -32768 then -32768 else if 32767 < u then 32767 else u)

/-- The weights of a table (R307) from the edges c_0 to c_(n-2) and their total. -/
def edgeWeights (n total : Nat) (c : Nat → Nat) : List Nat :=
  (List.range n).map fun s => if s = 0 then c 0 else if s + 1 < n then c s - c (s - 1) else total - c (n - 2)

/-- The normalised frequencies of a table (R308). -/
def normalise (n total : Nat) (g : List Nat) : List Nat :=
  let f := g.map fun x => 1 + x * (65536 - n) / total
  let d := 65536 - f.sum
  let top := g.foldl Nat.max 0
  let t := g.idxOf top
  f.set t (f.getD t 0 + d)

/-- F of a list of frequencies. -/
def cumulOf (f : List Nat) (i : Nat) : Nat := (f.take i).sum

/-- Bytes of a parameter record (R305). -/
def recordBytes (family k n : Nat) : Nat :=
  match family with
  | 1 => 16 * tableUnits n | 2 => 2 * n | 3 => 4 | 4 => 8 * k | _ => 0

def le16 (bs : List Byte) (at_ : Nat) : Nat := leNat ((bs.drop at_).take 2)
def sle16 (bs : List Byte) (at_ : Nat) : Int := toSigned 16 (le16 bs at_)

/-- The cumulative values that a record builds (R305 to R308): none for a direct record that fails R304 or names another n. -/
def buildTable (fast : Bool) (family k n a : Nat) (xmin : Int) (r : List Byte) : Option (Nat → Nat) :=
  match family with
  | 1 =>
    let F := cumul n fun i => le16 r (2 * i)
    if le16 r 0 = n ∧ tableValid n F then some F else none
  | 2 =>
    let q := (List.range n).map fun i => sle16 r (2 * i)
    let m := q.foldl (fun x y => if x < y then y else x) (q.headD 0)
    let g := q.map fun x => gridExp fast a (m - x).toNat
    some (cumulOf (normalise n g.sum g))
  | 3 =>
    let c := logisticEdge fast xmin (sle16 r 0) (le16 r 2)
    some (cumulOf (normalise n 65536 (edgeWeights n 65536 c)))
  | _ =>
    let wmax := (List.range k).foldl (fun x i => if x < sle16 r (8 * i + 4) then sle16 r (8 * i + 4) else x) (sle16 r 4)
    let e := fun i => gridExp fast a (wmax - sle16 r (8 * i + 4)).toNat
    let c := fun s => ((List.range k).map fun i => e i * logisticEdge fast xmin (sle16 r (8 * i)) (le16 r (8 * i + 2)) s).sum
    let total := 65536 * ((List.range k).map e).sum
    some (cumulOf (normalise n total (edgeWeights n total c)))

/-- The cycles of one table (R310). -/
def buildCost (fast : Bool) (family k n : Nat) : Nat :=
  let parts := if family = 4 then k else 1
  if family = 1 then 2 + ceilDiv n 32
  else if fast then 4 + parts * ceilDiv n 16 + ceilDiv n 32
  else 6 + parts * ceilDiv n 8 + ceilDiv n 32

/-- The build time of a job (R310). -/
def buildTime (fast : Bool) (family k n count : Nat) : Nat :=
  if family = 0 ∨ count = 0 then 0
  else Nat.max (ceilDiv count 32 * buildCost fast family k n) (ceilDiv (count * recordBytes family k n) 256)

end Sys2Proof.Machine
end

