-- ==== Sys2Proof/Machine/Kcx.lean ====
section
/-! DEFINITION. The coding complex: job descriptors, state blocks, the eight operations and their completion (R297, R298, R309 to
R331). -/

namespace Sys2Proof.Machine

/-! Descriptors (R321). -/

def kOp (w : BitVec 1024) : Nat := wordF w 0 11 8
def kFast (w : BitVec 1024) : Bool := bitOf w.toNat 7
def kMode (w : BitVec 1024) : Nat := wordF w 0 6 5
def kFirst (w : BitVec 1024) : Bool := bitOf w.toNat 4
def kLast (w : BitVec 1024) : Bool := bitOf w.toNat 3
def kAdapter (w : BitVec 1024) : Bool := bitOf w.toNat 2
def kContext (w : BitVec 1024) : Nat := wordF w 4 29 24
def kLanes (w : BitVec 1024) : Nat := wordF w 4 21 16 + 1
def kProfile (w : BitVec 1024) : Nat := wordF w 4 15 0
def kState (w : BitVec 1024) : Nat := wordF w 8 47 0
def kA (w : BitVec 1024) : Nat := wordF w 0x10 47 0
def kB (w : BitVec 1024) : Nat := wordF w 0x18 47 0
def kC (w : BitVec 1024) : Nat := wordF w 0x20 47 0
def kCount (w : BitVec 1024) : Nat := wordF w 0x28 23 0
def kChained (w : BitVec 1024) : Bool := wordF w 0x2C 30 30 == 1
def kNb (w : BitVec 1024) : Nat := wordF w 0x2C 29 25
def kEsc (w : BitVec 1024) : Bool := wordF w 0x2C 24 24 == 1
def kScale (w : BitVec 1024) : Nat := wordF w 0x2C 23 16
def kN (w : BitVec 1024) : Nat := wordF w 0x2C 15 8 + 1
def kK (w : BitVec 1024) : Nat := wordF w 0x2C 6 4 + 1
def kFamily (w : BitVec 1024) : Nat := wordF w 0x2C 3 0
def kXmin (w : BitVec 1024) : Int := toSigned 16 (wordF w 0x30 15 0)
def kTable (w : BitVec 1024) : Nat := wordF w 0x34 17 0
def kLimit (w : BitVec 1024) : Nat := wordF w 0x38 31 0
def kStride (w : BitVec 1024) : Nat := wordF w 0x5C 31 20
def kBuild (w : BitVec 1024) : Nat := wordF w 0x5C 16 0

/-- The operations are PASS jobs. -/
def kPass (w : BitVec 1024) : Bool := kOp w == 3 || kOp w == 4

/-- The tensors of an adapter unit, which the descriptor does not count (R317). -/
def kTensors (w : BitVec 1024) : Nat := if kAdapter w then Config.codingItem 1 w % 65536 else 0

/-- The reserved bits (R321). -/
def kReservedOk (w : BitVec 1024) : Bool :=
  bitsClear w [(0, 15, 12), (0, 1, 0), (4, 31, 30), (4, 23, 22), (8, 63, 48), (0x10, 63, 48), (0x18, 63, 48), (0x20, 63, 48),
    (0x28, 31, 24), (0x2C, 31, 31), (0x2C, 7, 7), (0x30, 31, 16), (0x34, 31, 18), (0x40, 63, 48), (0x50, 31, 12), (0x58, 31, 25),
    (0x5C, 19, 17), (0x60, 255, 0)]

/-- A unit's limit W (R322) for L lanes of a limit and T tensors. -/
def unitRoom (lanes limit tensors : Nat) : Nat := 160 + 12 * lanes + lanes * limit + 8 * tensors

/-- A field out of its range, or 0 where its op needs it (R305, R311, R312, R321 to R323). -/
def kRangeBad (w : BitVec 1024) (index : Nat) : Bool :=
  let op := kOp w
  wordF w 0 31 16 != index % 65536 || op == 0 || decide (8 < op) || (op != 7 && op != 8 && kState w % 64 != 0) ||
    (op == 1 && decide (kLimit w < 16)) ||
    ((op == 2 || kPass w || op == 7 || op == 8) && kCount w == 0) ||
    (op == 7 && decide (kLimit w < 18 + ceilDiv (3 * (12 + kCount w)) 2)) ||
    (op == 8 && kLimit w == 0) ||
    (kPass w && (kMode w == 3 || decide (16 < kNb w) || kN w == 1 || decide (4 < kFamily w) || decide (4 < kK w) ||
      decide (65536 < kBuild w) || (kMode w == 0 && kBuild w != kCount w)))

/-- The spans of hub store that a job names, as address and length (R297, R312, R322, R323). -/
def kSpans (w : BitVec 1024) (adapter : Bool) : List (Nat × Nat) :=
  let st := (kState w, 2112)
  match kOp w with
  | 1 => [st, (kA w, kLanes w * kLimit w), (kB w, if kFirst w then 28 else 0), (kC w, 8 * kTensors w)]
  | 2 => [st, (kA w, kCount w)]
  | 5 => [st, (kB w, kLimit w)]
  | 6 => [st]
  | 7 => [(kA w, kCount w), (kB w, kLimit w)]
  | 8 => [(kA w, kCount w), (kB w, Nat.min (kLimit w) (kCount w))]
  | _ => [st, (kA w, (if adapter then 1 else 2) * kCount w + if kNb w = 0 then 0 else 2 * kCount w),
      (kB w, if kMode w = 1 then 2 * kCount w else 0), (kC w, kBuild w * recordBytes (kFamily w) (kK w) (kN w))]

def Place.isHub : Place → Bool
  | .hub => true
  | _ => false

/-- The private part of the state block at an address (R323). -/
def State.kblock (s : State) (a : Nat) : Option KBlock := tabGet kblockReset s.kblocks a

/-- What the check of a descriptor finds (R297, R321). -/
def State.kcxVerdict (s : State) (index : Nat) (w : BitVec 1024) : Nat :=
  if !jobCrcOk w || !kReservedOk w then 8
  else if kRangeBad w index then 9
  else
    let adapter := match s.kblock (kState w) with | some b => b.adapter | none => false
    worstOf (s.recordStatus w :: (kSpans w adapter).map fun e => s.spanStatus Place.isHub e.1 e.2)

/-! State blocks (R323). -/

/-- `n` bytes whose values the manual keeps private: free values. -/
def State.scribble (s : State) (a n : Nat) : State :=
  { s.devWrite a ((List.range n).map fun i => BitVec.ofNat 8 (Config.freeValue (s.draws + i)).toNat) with draws := s.draws + n }

/-- A state block takes its state and its private part; a block that shares bytes with it is lost. -/
def State.setKblock (s : State) (a state : Nat) (b : KBlock) : State :=
  let s := (s.devWrite a [BitVec.ofNat 8 state]).scribble (a + 1) 2111
  let keep := s.kblocks.filter fun e => e.1 == a || !spansMeet (e.1, 2112) (a, 2112)
  { s with kblocks := tabSet kblockReset keep a (some b) }

/-- The block of a job where it is open for encoding (1) or decoding (2) (R323). -/
def State.openBlock (s : State) (w : BitVec 1024) (side : Nat) : Option KBlock :=
  if (s.devByte (kState w)).toNat = side then s.kblock (kState w) else none

/-! Taking and ending jobs (R324). -/

/-- Bytes 0x10 to 0x1F of a record. -/
def kBody (mask position cycles : Nat) : List Byte := leBytes 8 mask ++ leBytes 4 position ++ leBytes 4 cycles

/-- What an operation came to: the state, the status, the mask, the position and the cycles, where the manual gives them. -/
structure KEnd where
  st : State
  status : Nat
  mask : Nat
  pos : Option Nat
  cycles : Option Nat
  deriving DecidableEq, Repr

/-- A given value, or a free one. -/
def State.orDraw (s : State) : Option Nat → Nat × State
  | some v => (v, s)
  | none => (s.draw.1.toNat % 2 ^ 32, s.draw.2)

/-- An operation runs where its ring is first and its descriptor passes its check (R298, R321). -/
def State.kcxRun (s : State) (n op : Nat) (f : State → BitVec 1024 → KEnd) : State :=
  let w := s.headDesc .kcx n
  if s.ringFirst .kcx n ∧ s.kcxVerdict (s.fld .kcxRingHeadHead [n]) w = 0 ∧ kOp w = op then
    let k := f s w
    let p := k.st.orDraw k.pos
    let t := p.2.orDraw k.cycles
    t.2.takeJob .kcx n k.status (kBody k.mask p.1 t.1) t.1 w
  else s

/-- A job that ends without its work: the state as it was, in the time that its fields give (R298), where they give one. -/
def kStop (s : State) (status : Nat) (cycles : Option Nat) : KEnd := ⟨s, status, 0, none, cycles⟩

/-! OPEN (R315, R322, R325). -/

/-- A frame header with its CRC computed (R315, R322). -/
def headerOf (image : List Byte) : List Byte := image.take 28 ++ leBytes 4 (crc32c (image.take 28))

/-- OPEN_ENC. -/
def openEncOp (s : State) (w : BitVec 1024) : KEnd :=
  let old := (s.kblock (kState w)).getD KBlock.empty
  let b : KBlock := { old with
    header := if kFirst w then some (headerOf (s.devRead (kB w) 28)) else old.header
    units := if kFirst w then 0 else old.units
    fast := kFast w, enc := List.replicate (kLanes w) EncLane.start, dec := [], coded := 0
    scratch := kA w, limit := kLimit w, first := kFirst w, adapter := kAdapter w
    tensors := s.devRead (kC w) (8 * kTensors w), region := Config.codingItem 0 w % 2 ^ 32, profile := kProfile w }
  ⟨s.setKblock (kState w) 1 b, 0, 0, none, some (24 + kLanes w)⟩

/-- OPEN_ENC (R322). -/
def execOpenEnc (n : Fin 16) (s : State) : Host.Outcome State Fault Refusal := .next (s.kcxRun n 1 openEncOp)

/-- The type of a start code at an offset of a window (R314). -/
def State.startCode (s : State) (a at_ stop : Nat) : Option Nat :=
  if at_ + 4 ≤ stop ∧ s.devByte (a + at_) = 0 ∧ s.devByte (a + at_ + 1) = 0 ∧ s.devByte (a + at_ + 2) = 1
  then some (s.devByte (a + at_ + 3)).toNat else none

/-- The frame header after its start code, where its span can be read, with the offset of the byte after it. -/
def State.headerAt (s : State) (a at_ stop : Nat) : Option (List Byte × Nat) :=
  (s.nextBytes 32 (reader (a + at_) (stop - at_) 32)).map fun r => (r.1, (s.dropPad r.2).at_ - a)

/-- A start code that an OPEN_DEC may take (R325): a unit, or a frame header that a unit follows directly. -/
def State.openCode (s : State) (first : Bool) (a at_ stop : Nat) : Bool :=
  match s.startCode a at_ stop with
  | none => false
  | some t =>
    if first then t == 0xB0 && match s.headerAt a (at_ + 4) stop with
      | some r => s.startCode a r.2 stop == some 0xB1
      | none => false
    else t == 0xB1

/-- The types of R314; every other one is reserved. -/
def pieceTypes : List Nat := [0xB0, 0xB1, 0xB4, 0xB5]

/-- The search of a window from an offset: the start code taken, and how many of the pieces passed before it count (R314, R325, R327). -/
def State.findCode (s : State) (want : Nat → Bool) (counts : Nat → Bool) (a stop : Nat) : Nat → Nat → Nat → Option Nat × Nat
  | 0, _, passed => (none, passed)
  | n + 1, at_, passed =>
    match s.startCode a at_ stop with
    | none => s.findCode want counts a stop n (at_ + 1) passed
    | some t => if want at_ then (some at_, passed) else s.findCode want counts a stop n (at_ + 1) (passed + b2n (counts t))

/-- A unit header that has been read (R317): lanes with their content and escaped lengths, the profile, the adapter flag, the unit index, the
region, and the offset of the first segment. -/
structure UnitHead where
  lanes : List (Nat × Nat)
  profile : Nat
  adapter : Bool
  region : Nat
  tensors : List Byte
  segs : Nat
  deriving DecidableEq, Repr

/-- The unit after its start code: none where a CRC, L or a segment is wrong (R317, R325). -/
def State.unitAt (s : State) (a at_ stop : Nat) : Option UnitHead :=
  match s.nextBytes 16 (reader (a + at_) (stop - at_) 1000000) with
  | none => none
  | some (h, r) =>
    let lanes := leNat ((h.drop 2).take 1) + 1
    let tensors := leNat ((h.drop 6).take 2)
    if crc32c (h.take 12) ≠ leNat (h.drop 12) ∨ 64 < lanes then none
    else match s.nextBytes (8 * lanes + 8 * tensors + 4) r with
      | none => none
      | some (t, r) =>
        let body := t.take (8 * lanes + 8 * tensors)
        if crc32c body ≠ leNat (t.drop (8 * lanes + 8 * tensors)) then none
        else
          let table := (List.range lanes).map fun l => (leNat ((body.drop (8 * l)).take 4), leNat ((body.drop (8 * l + 4)).take 4))
          let segs := (s.dropPad r).at_ - a
          if stop < segs + (table.map (·.2)).sum then none
          else some ⟨table, leNat ((h.drop 4).take 2), bitOf (leNat ((h.drop 3).take 1)) 0, leNat ((h.drop 8).take 4),
            body.drop (8 * lanes), segs⟩

/-- The decoding lanes of a unit, in lane order. -/
def lanesFrom : Nat → List (Nat × Nat) → List DecLane
  | _, [] => []
  | at_, (len, esc) :: t => reader at_ esc len :: lanesFrom (at_ + esc) t

/-- The profile and identity tests of R325. -/
def State.profileOk (s : State) (w : BitVec 1024) (header : List Byte) (u : UnitHead) : Bool :=
  let c := kContext w
  let bound := s.fld .ctxCfgProfile [c]
  let flags := leNat ((header.drop 3).take 1)
  (s.ctx c).bank.isSome && leNat ((header.drop 4).take 2) == bound && u.profile == bound &&
    (!bitOf flags 0 || leNat ((header.drop 0x14).take 4) == s.part.identity)

/-- A block that opens with every lane faulted (R325). -/
def openBad (s : State) (w : BitVec 1024) (b : KBlock) (status pos time : Nat) : KEnd :=
  let lane : DecLane := { reader 0 0 0 with bad := true }
  let b := { b with fast := kFast w, enc := [], dec := List.replicate (kLanes w) lane, first := false, adapter := false, tensors := [], coded := 0 }
  ⟨s.setKblock (kState w) 2 b, status, 2 ^ kLanes w - 1, some pos, some time⟩

/-- OPEN_DEC. -/
def openDecOp (s : State) (w : BitVec 1024) : KEnd :=
  let old := (s.kblock (kState w)).getD KBlock.empty
  let a := kA w
  let stop := kCount w
  let time := 48 + ceilDiv stop 256
  if !kFirst w ∧ old.header.isNone then kStop s 0x16 (some time)
  else
    let found := s.findCode (fun at_ => s.openCode (kFirst w) a at_ stop) (fun _ => true) a stop stop 0 0
    let s := s.count .kcxCountMarkersSkipped found.2
    match found.1 with
    | none => openBad s w old 0x19 stop time
    | some at_ =>
      let head : Option (List Byte × Nat) := if kFirst w then s.headerAt a (at_ + 4) stop else (old.header.map fun h => (h, at_))
      match head with
      | none => openBad s w old 0x15 (at_ + 4) time
      | some (h, unitCode) =>
        let crcOk := !kFirst w || crc32c (h.take 28) == leNat (h.drop 28)
        let old := if kFirst w ∧ crcOk then { old with header := some h, units := 0 } else old
        if !crcOk then openBad s w old 0x15 (at_ + 4) time
        else match s.unitAt a (unitCode + 4) stop with
          | none => openBad s w old 0x15 (unitCode + 4) time
          | some u =>
            if !s.profileOk w h u then openBad s w old 0x17 (unitCode + 4) time
            else
              let b : KBlock := { old with
                fast := kFast w, enc := [], dec := lanesFrom (a + u.segs) u.lanes, first := false, coded := 0
                adapter := u.adapter, tensors := u.tensors, region := u.region, profile := u.profile }
              ⟨s.setKblock (kState w) 2 b, 0, 0, some (u.segs + (u.lanes.map (·.2)).sum), some time⟩

/-- OPEN_DEC (R325). -/
def execOpenDec (n : Fin 16) (s : State) : Host.Outcome State Fault Refusal := .next (s.kcxRun n 2 openDecOp)

/-! PASS (R299 to R313, R318, R326, R328). -/

/-- Symbol i of a job: 16 bits, or in an adapter unit the delta with 128 added (R312, R318). -/
def State.kSymbol (s : State) (w : BitVec 1024) (adapter : Bool) (i : Nat) : Nat :=
  if adapter then (s.devByte (kA w + i)).toNat ^^^ 128 else s.devNat (kA w + 2 * i) 2

def State.setKSymbol (s : State) (w : BitVec 1024) (adapter : Bool) (i v : Nat) : State :=
  if adapter then s.devWrite (kA w + i) [BitVec.ofNat 8 (v ^^^ 128)] else s.devWrite (kA w + 2 * i) (leBytes 2 v)

/-- The address of bypass value i (R312). -/
def kBypassAt (w : BitVec 1024) (adapter : Bool) (i : Nat) : Nat := kA w + (if adapter then 1 else 2) * kCount w + 2 * i

/-- The alphabet of a job: in an adapter unit the 256 values of a delta (R318). -/
def kAlphabet (w : BitVec 1024) (adapter : Bool) : Nat := if adapter then 256 else kN w

/-- The bypass bits of a symbol (R312). -/
def kBits (w : BitVec 1024) (adapter : Bool) (sym : Nat) : Nat := if kEsc w ∧ sym ≠ kAlphabet w adapter - 1 then 0 else kNb w

/-- The ρ of the tensor that symbol i of an adapter unit belongs to, over the entries of its tensor table (R317, R318). -/
def tensorRho : Nat → List Byte → Nat → Option Nat
  | 0, _, _ => none
  | n + 1, bs, i =>
    let size := leNat ((bs.drop 4).take 4)
    if i < size then some (le16 bs 2) else tensorRho n (bs.drop 8) (i - size)

/-- The cumulative values of symbol i of an adapter unit: the exact logistic table of its tensor's ρ, with μ 0 from x_min -128 (R318); free ones
where the tensor table ends before it. -/
def adapterTable (tensors : List Byte) (i : Nat) : Nat → Nat :=
  match tensorRho (tensors.length / 8) tensors i with
  | some rho => cumulOf (normalise 256 65536 (edgeWeights 256 65536 (logisticEdge false (-128) 0 rho)))
  | none => cumul 256 (Config.strayTable i 256)

/-- The index of the table of symbol i, before any chain (R311). -/
def State.kIndex (s : State) (w : BitVec 1024) (i : Nat) : Nat :=
  match kMode w with
  | 0 => i
  | 1 => s.devNat (kB w + 2 * i) 2
  | _ => 0

/-- The table address of symbol i (R311). -/
def State.kTableOf (s : State) (w : BitVec 1024) (lanes i : Nat) : Nat :=
  let base := kTable w + s.kIndex w i * tableUnits (kN w)
  if kChained w ∧ lanes ≤ i then base + s.kSymbol w false (i - lanes) * kStride w else base

/-- The table that symbol i of a job uses, which is symbol `coded + i` of its unit (R311, R318). -/
def State.kTableAt (s : State) (w : BitVec 1024) (b : KBlock) (lanes i : Nat) : Nat → Nat :=
  if b.adapter then adapterTable b.tensors (b.coded + i) else s.tableAt (kN w) (s.kTableOf w lanes i)

/-- A table of the job would reach past the store (R311): those it builds, and those its symbols can name, a chained one with the largest
symbol before it. -/
def State.kTablesBad (s : State) (w : BitVec 1024) (adapter : Bool) (lanes : Nat) : Bool :=
  let u := tableUnits (kN w)
  let reach := fun i => kTable w + s.kIndex w i * u + (if kChained w ∧ lanes ≤ i then (kN w - 1) * kStride w else 0) + u
  (kFamily w != 0 && decide (262144 < kTable w + kBuild w * u)) ||
    (!adapter && (List.range (kCount w)).any fun i => decide (262144 < reach i))

/-- The tables that a job builds, in order; none where a direct record is faulty (R305, R306). -/
def State.kBuilt (s : State) (w : BitVec 1024) : Option (List (Nat → Nat)) :=
  let size := recordBytes (kFamily w) (kK w) (kN w)
  ((List.range (if kFamily w = 0 then 0 else kBuild w)).mapM fun i =>
    buildTable (kFast w) (kFamily w) (kK w) (kN w) (kScale w) (kXmin w) (s.devRead (kC w + i * size) size))

/-- The tables written to the store. -/
def State.kWriteTables (s : State) (w : BitVec 1024) (l : List (Nat → Nat)) : State :=
  l.zipIdx.foldl (fun s e => s.putTable (kTable w + e.2 * tableUnits (kN w)) (kN w) e.1) s

/-- The time of a PASS job (R313). -/
def kPassTime (w : BitVec 1024) (lanes : Nat) : Nat :=
  let steps := ceilDiv (kCount w) lanes * if kChained w then 4 else 1
  let bytes := 2 * kCount w + (if kNb w = 0 then 0 else 2 * kCount w) + if kMode w = 1 then 2 * kCount w else 0
  40 + buildTime (kFast w) (kFamily w) (kK w) (kN w) (kBuild w) + Nat.max steps (ceilDiv bytes 256) + 24

/-- A symbol or bypass value that the alphabet does not hold (R312). -/
def State.kSymbolBad (s : State) (w : BitVec 1024) (adapter : Bool) : Bool :=
  (List.range (kCount w)).any fun i => decide (kAlphabet w adapter ≤ s.kSymbol w adapter i) ||
    (kNb w != 0 && decide (2 ^ kNb w ≤ s.devNat (kBypassAt w adapter i) 2))

/-- The bytes that a lane has formed go to its scratch. -/
def State.drainLane (s : State) (at_ : Nat) (l : EncLane) : State × EncLane :=
  (s.devWrite (at_ + l.esc) (l.out.map fun b => BitVec.ofNat 8 b), { l with esc := l.esc + l.out.length, out := [] })

/-- An encoding under way: the state, the lanes, and the symbol that found no room (R328). -/
structure EncRun where
  st : State
  lanes : List EncLane
  full : Option Nat
  deriving DecidableEq, Repr

/-- Symbol i is coded by lane i mod L (R311, R328). -/
def EncRun.symbol (w : BitVec 1024) (b : KBlock) (o : EncRun) (i : Nat) : EncRun :=
  if o.full.isSome then o else
  let L := o.lanes.length
  let l := o.lanes.getD (i % L) EncLane.start
  if !l.roomFor b.limit then { o with full := some i }
  else
    let sym := o.st.kSymbol w b.adapter i
    let bits := if kNb w = 0 then 0 else kBits w b.adapter sym
    let v := if bits = 0 then 0 else o.st.devNat (kBypassAt w b.adapter i) 2
    let l := l.encode (o.st.kTableAt w b L i) (kAlphabet w b.adapter) sym bits v
    let r := o.st.drainLane (b.scratch + (i % L) * b.limit) l
    { o with st := r.1, lanes := o.lanes.set (i % L) r.2 }

/-- PASS_ENC. -/
def passEncOp (s : State) (w : BitVec 1024) : KEnd :=
  match s.openBlock w 1 with
  | none => kStop s 0x16 (some (kPassTime w (kLanes w)))
  | some b =>
    let time := some (kPassTime w b.enc.length)
    if b.fast ≠ kFast w ∨ s.kTablesBad w b.adapter b.enc.length ∨ s.kSymbolBad w b.adapter then kStop s 9 time
    else match s.kBuilt w with
      | none => kStop s 0x18 time
      | some tables =>
        let o := (List.range (kCount w)).foldl (EncRun.symbol w b) ⟨s.kWriteTables w tables, b.enc, none⟩
        let done := fun st => o.st.setKblock (kState w) st { b with enc := o.lanes, coded := b.coded + kCount w }
        match o.full with
        | some i => ⟨done 3, 0x11, 0, some i, none⟩
        | none => ⟨done 1, 0, 0, none, time⟩

/-- PASS_ENC (R299, R328). -/
def execPassEnc (n : Fin 16) (s : State) : Host.Outcome State Fault Refusal := .next (s.kcxRun n 3 passEncOp)

/-- A decoding under way: the state, the lanes, and the lanes that faulted in this job. -/
structure DecRun where
  st : State
  lanes : List DecLane
  struck : Nat
  deriving DecidableEq, Repr

/-- Symbol i is decoded by lane i mod L; a faulted lane gives 0 (R311, R312, R326). -/
def DecRun.symbol (w : BitVec 1024) (b : KBlock) (o : DecRun) (i : Nat) : DecRun :=
  let L := o.lanes.length
  let l := o.lanes.getD (i % L) (reader 0 0 0)
  let write := fun (sym v : Nat) =>
    let s := o.st.setKSymbol w b.adapter i sym
    if kNb w = 0 then s else s.devWrite (kBypassAt w b.adapter i) (leBytes 2 v)
  if l.bad then { o with st := write 0 0 }
  else match o.st.decodeSym l (o.st.kTableAt w b L i) (kAlphabet w b.adapter) (kBits w b.adapter) with
    | some (sym, v, l) => { o with st := write sym v, lanes := o.lanes.set (i % L) l }
    | none => { o with st := write 0 0, lanes := o.lanes.set (i % L) { l with bad := true }, struck := o.struck ||| 2 ^ (i % L) }

/-- In the first PASS after OPEN_DEC every lane reads its first four bytes, also one that gets no symbol in it (R300, R302); with the lanes that
fault at that. -/
def State.beginLanes (s : State) (l : List DecLane) : List DecLane × Nat :=
  l.zipIdx.foldl (fun r e =>
    if e.1.bad || e.1.begun then (r.1 ++ [e.1], r.2)
    else match s.beginLane e.1 with
      | some x => (r.1 ++ [x], r.2)
      | none => (r.1 ++ [{ e.1 with bad := true }], r.2 ||| 2 ^ e.2)) ([], 0)

/-- The mask of faulted lanes (R324). -/
def badMask (l : List DecLane) : Nat := l.zipIdx.foldl (fun m e => m + b2n e.1.bad * 2 ^ e.2) 0

/-- PASS_DEC. -/
def passDecOp (s : State) (w : BitVec 1024) : KEnd :=
  match s.openBlock w 2 with
  | none => kStop s 0x16 (some (kPassTime w (kLanes w)))
  | some b =>
    let time := some (kPassTime w b.dec.length)
    if b.fast ≠ kFast w ∨ s.kTablesBad w b.adapter b.dec.length then kStop s 9 time
    else match s.kBuilt w with
      | none => kStop s 0x18 time
      | some tables =>
        let begun := s.beginLanes b.dec
        let o := (List.range (kCount w)).foldl (DecRun.symbol w b) ⟨s.kWriteTables w tables, begun.1, begun.2⟩
        ⟨o.st.setKblock (kState w) 2 { b with dec := o.lanes, coded := b.coded + kCount w }, if o.struck = 0 then 0 else 0x15,
          badMask o.lanes, none, time⟩

/-- PASS_DEC (R300, R326). -/
def execPassDec (n : Fin 16) (s : State) : Host.Outcome State Fault Refusal := .next (s.kcxRun n 4 passDecOp)

/-! CLOSE (R302, R317, R320, R322, R326, R329). -/

/-- A piece: its start code and its escaped span (R314, R316). -/
def piece (type : Nat) (span : List Byte) : List Byte := [0, 0, 1, BitVec.ofNat 8 type] ++ escape span

/-- The header span of a unit (R317). -/
def unitHeader (b : KBlock) (lanes : List EncLane) : List Byte :=
  let tensors := b.tensors.length / 8
  let h := leBytes 2 b.units ++ leBytes 1 (lanes.length - 1) ++ leBytes 1 (b2n b.adapter) ++ leBytes 2 b.profile ++ leBytes 2 tensors ++
    leBytes 4 b.region
  let t := lanes.flatMap (fun l => leBytes 4 l.raw ++ leBytes 4 l.esc) ++ b.tensors
  h ++ leBytes 4 (crc32c h) ++ t ++ leBytes 4 (crc32c t)

/-- The lanes flushed, their segments whole in the scratch (R299, R322). -/
def State.flushLanes (s : State) (b : KBlock) : State × List EncLane :=
  b.enc.zipIdx.foldl (fun r e =>
    let d := r.1.drainLane (b.scratch + e.2 * b.limit) e.1.flush
    (d.1, r.2 ++ [d.2])) (s, [])

/-- CLOSE_ENC. -/
def closeEncOp (s : State) (w : BitVec 1024) : KEnd :=
  match s.openBlock w 1 with
  | none => kStop s 0x16 none
  | some b =>
    let room := unitRoom b.enc.length b.limit (b.tensors.length / 8)
    if kLimit w < room then kStop s 9 (some (48 + 2 * ceilDiv room 256))
    else
      let f := s.flushLanes b
      let segs := f.2.zipIdx.flatMap fun e => f.1.devRead (b.scratch + e.2 * b.limit) e.1.esc
      let frame := if b.first then piece 0xB0 (b.header.getD []) else []
      let count := leBytes 4 ((b.units + 1) % 65536)
      let tail := if kLast w then piece 0xB5 (count ++ leBytes 4 (crc32c count)) else []
      let bytes := frame ++ piece 0xB1 (unitHeader b f.2) ++ segs ++ tail
      let s := (f.1.devWrite (kB w) bytes).setKblock (kState w) 4 { b with enc := f.2, units := b.units + 1 }
      ⟨s, 0, 0, some bytes.length, some (48 + 2 * ceilDiv room 256)⟩

/-- CLOSE_ENC (R322). -/
def execCloseEnc (n : Fin 16) (s : State) : Host.Outcome State Fault Refusal := .next (s.kcxRun n 5 closeEncOp)

/-- CLOSE_DEC. -/
def closeDecOp (s : State) (w : BitVec 1024) : KEnd :=
  match s.openBlock w 2 with
  | none => kStop s 0x16 (some (16 + kLanes w))
  | some b =>
    let lanes := b.dec.map fun l => { l with bad := l.bad || decide (l.got < l.len) }
    let mask := badMask lanes
    ⟨s.setKblock (kState w) 4 { b with dec := lanes, units := b.units + 1 }, if mask = 0 then 0 else 0x15, mask, none,
      some (16 + lanes.length)⟩

/-- CLOSE_DEC (R326). -/
def execCloseDec (n : Fin 16) (s : State) : Host.Outcome State Fault Refusal := .next (s.kcxRun n 6 closeDecOp)

/-! WRAP and UNWRAP (R319, R322, R327). -/

/-- WRAP. -/
def wrapOp (s : State) (w : BitVec 1024) : KEnd :=
  let h := leBytes 4 (kCount w) ++ leBytes 2 (Config.codingItem 2 w) ++ leBytes 2 0
  let bytes := piece 0xB4 (h ++ leBytes 4 (crc32c h) ++ s.devRead (kA w) (kCount w))
  ⟨s.devWrite (kB w) bytes, 0, 0, some bytes.length, some (40 + 3 * ceilDiv (16 + kCount w) 256)⟩

/-- WRAP (R319). -/
def execWrap (n : Fin 16) (s : State) : Host.Outcome State Fault Refusal := .next (s.kcxRun n 7 wrapOp)

/-- The payload of the floor unit after its start code, with the offset of the byte after the piece (R319, R327). -/
def State.floorAt (s : State) (a at_ stop limit : Nat) : Option (List Byte × Nat) :=
  match s.nextBytes 12 (reader (a + at_) (stop - at_) (12 + 2 ^ 32)) with
  | none => none
  | some (h, r) =>
    let p := leNat (h.take 4)
    if crc32c (h.take 8) ≠ leNat (h.drop 8) ∨ limit < p ∨ stop < p then none
    else (s.nextBytes p r).map fun r => (r.1, (s.dropPad r.2).at_ - a)

/-- UNWRAP. -/
def unwrapOp (s : State) (w : BitVec 1024) : KEnd :=
  let a := kA w
  let stop := kCount w
  let time := some (48 + 3 * ceilDiv stop 256)
  let found := s.findCode (fun at_ => s.startCode a at_ stop == some 0xB4) (fun t => !pieceTypes.contains t) a stop stop 0 0
  let s := s.count .kcxCountMarkersSkipped found.2
  match found.1 with
  | none => ⟨s, 0x19, 0, none, time⟩
  | some at_ =>
    match s.floorAt a (at_ + 4) stop (kLimit w) with
    | none => ⟨s, 0x15, 0, none, time⟩
    | some (bytes, after) => ⟨s.devWrite (kB w) bytes, 0, 0, some after, time⟩

/-- UNWRAP (R327). -/
def execUnwrap (n : Fin 16) (s : State) : Host.Outcome State Fault Refusal := .next (s.kcxRun n 8 unwrapOp)

/-- The counts of a job (R330, R331). -/
def kcxCounts (s : State) (status : Nat) : State :=
  let s := s.count .kcxCountSyntaxLosses (b2n ([0x15, 0x17, 0x19].contains status))
  (s.count .kcxFaultCountOutputFull (b2n (status == 0x11))).count .kcxFaultCountTableFaults (b2n (status == 0x18))

/-- KCX_JOB_COMPLETE (R321, R324, R330, R331). -/
def execKcxJobComplete (n : Fin 16) (s : State) : Host.Outcome State Fault Refusal :=
  .next (s.jobComplete .kcx n (fun s w => s.kcxVerdict (s.fld .kcxRingHeadHead [n]) w) (kBody 0) kcxCounts)

end Sys2Proof.Machine
end

