-- ==== Sys2Proof/Machine/Live.lean ====
section
/-! DEFINITION. Live service: retirement and remap of cells (R19, R527 to R529, R540, R541), and sequencer firmware (R537, R542). -/

namespace Sys2Proof.Machine

/-- CELL_RETIRE (R527, R541): a retire write of a cell that is not active is discarded whole, and any other stores the RW fields. -/
def execCellRetire (slab : Fin 4) (val : BitVec 32) (s : State) : Host.Outcome State Fault Refusal :=
  .next (s.hostWriteAt (RegId.addr .slbRemapCtrl [slab]) fun s =>
    let i := bitsOf val.toNat 3 0
    let p := 9 * (slab : Nat) + i
    if !bitOf val.toNat 31 then s.writeRw .slbRemapCtrl [slab] (val.setWidth 64)
    else if i < 9 ∧ s.cfld .slbCellState p = slbActive then (s.writeRw .slbRemapCtrl [slab] (val.setWidth 64)).markCell p
    else s)

/-- No command runs on the cell or can run on it again, and none is loaded in its other half (R528). -/
def State.cellQuiet (s : State) (p : Nat) : Bool :=
  (s.cell p).cmd.isNone && (s.cell p).loaded.isNone && !s.halfKept p false && !s.halfKept p true

/-- The lowest spare ready in the slab of a cell (R528). -/
def State.spareOf (s : State) (p : Nat) : Option Nat :=
  ((List.range 9).map fun i => 9 * (p / 9) + i).find? fun i =>
    s.cfld .slbCellState i == slbSpareReady && !s.remapping i

/-- What the spare takes over: the contents of the retiring cell, or the reset contents (R107, R157, R169, R528). -/
def State.fillSpare (s : State) (r : Remap) : State :=
  let c := s.cell r.old
  let s := s.onCell r.spare fun d =>
    if r.copy then { d with mem := c.mem, srf := c.srf, fused := c.fused, patterns := c.patterns }
    else { d with mem := [], srf := [], fused := [] }
  s.csetFld .srfStatusLoaded (if r.copy then s.cfld .srfStatusLoaded r.old else regReset (RegId.srfStatus.addr (cellIx r.spare)) |>.toNat)
    r.spare

/-- At the boundary the spare takes the contents, the logical index and the memory window of the cell that retires (R19, R248, R528). -/
def State.takeSpare (s : State) (r : Remap) : State :=
  let l := s.logical r.old
  let s := s.fillSpare r
  let s := (s.csetFld .slbCellState slbActive r.spare).csetFld .slbCellLogical l r.spare
  { s.csetFld .slbCellState slbRetired r.old with remaps := s.remaps ++ [r] }

/-- CELL_REMAP (R19, R528, R529): at a station frame boundary. -/
def execCellRemap (p : Fin 36) (s : State) : Host.Outcome State Fault Refusal :=
  .next (if s.station.boundary ∧ s.cfld .slbCellState p = slbMarked ∧ s.cellQuiet p ∧ !s.remapping p then
      match s.spareOf p with
      | some i => s.takeSpare ⟨p, i, s.flag .slbRemapCtrlCopy [(p : Nat) / 9]⟩
      | none => s.csetFld .slbCellState slbInactive p
    else s)

/-- The mask of the command of a staged entry that has not started. -/
def State.waitMask (s : State) (e : Staged) : Nat := if e.word = 0 then s.devNat (e.desc + 4) 4 else descMask e.word

/-- REMAP_COMPLETE (R528): the logical cell is no longer busy, and commands that waited for it cost their frames the flag. -/
def execRemapComplete (p : Fin 36) (s : State) : Host.Outcome State Fault Refusal :=
  .next (if s.remaps.any fun r => r.old == (p : Nat) then
      ({ s with remaps := dropFirst (fun r => r.old == (p : Nat)) s.remaps } : State).clearFreed s fun _ _ => true
    else s)

/-! Sequencer firmware (R537). -/

def fwEmpty : Nat := 0
def fwLoading : Nat := 1
def fwReady : Nat := 2
def fwFault : Nat := 3

/-- The largest image (R537). -/
def fwMax : Nat := 2 ^ 20

/-- SEQ_FW_LOAD (R537). -/
def execSeqFwLoad (s : State) : Host.Outcome State Fault Refusal :=
  .next (s.hostWriteAt (RegId.addr .fwCtrl []) fun s =>
    if s.fld .fwStatusInactiveState = fwLoading then s else
    let a := s.fld .fwSrcBase * 64
    let n := Config.fwLength (BitVec.ofNat 512 (s.devNat a 64))
    let s := s.setFld .fwStatusInactiveState fwLoading
    { s with fw := { s.fw with inactive := s.devRead a (Nat.min n fwMax) } })

/-- SEQ_FW_LOAD_DONE (R537): `sigOk` is the verdict on the signature. -/
def execSeqFwLoadDone (sigOk : Bool) (s : State) : Host.Outcome State Fault Refusal :=
  .next (if s.fld .fwStatusInactiveState = fwLoading then
      s.setFld .fwStatusInactiveState (if sigOk && Config.fwDigestOk s.fw.inactive then fwReady else fwFault)
    else s)

/-- SEQ_FW_SWITCH (R537). -/
def execSeqFwSwitch (s : State) : Host.Outcome State Fault Refusal := .next (s.hostWriteAt (RegId.addr .fwCtrl []) fun s =>
    s.raise .fwStatusSwitchPending)

/-- FW_SLOT_SWITCH (R537): the previous slot stays loaded. -/
def execFwSlotSwitch (s : State) : Host.Outcome State Fault Refusal :=
  .next (if s.station.boundary ∧ s.flag .fwStatusSwitchPending ∧ s.fld .sttPositionFrame = s.fld .fwSwitchSwitchFrame then
      let s := s.setFld .fwStatusSwitchPending 0
      if s.fld .fwStatusInactiveState = fwReady then
        let s := s.setFld .fwStatusActiveSlot (1 - s.fld .fwStatusActiveSlot)
        let s := s.setFld .fwStatusVersion (Config.fwVersion s.fw.inactive)
        { s with fw := ⟨s.fw.inactive, s.fw.active⟩ }
      else s.raise .fwStatusSwitchRefused
    else s)

end Sys2Proof.Machine
end

