-- ==== Sys2Proof/Machine/Mailbox.lean ====
section
/-! DEFINITION. The coherent mailbox (R465 to R469, R474, R488). -/

namespace Sys2Proof.Machine

def State.line (s : State) (n : Nat) : MboxLine := tabGet lineReset s.mbox n
def State.setLine (s : State) (n : Nat) (v : MboxLine) : State := { s with mbox := tabSet lineReset s.mbox n v }

/-- A message for a line goes out. -/
def State.cxlSend (s : State) (n : Nat) (op : CxlOp) (bytes : List Byte) : State :=
  { s with mboxOut := s.mboxOut ++ [⟨n, op, bytes⟩] }

/-- The mailbox may hold lines (R465): the host caches them, and they run. -/
def State.cachesLines (s : State) : Bool := s.ready && s.cacheOn
def State.mboxOn (s : State) : Bool := s.flag .mboxCfgEnable && s.cachesLines

/-- The map that a line's register holds: kind and group (R465, R488). -/
def State.lineMap (s : State) (n : Nat) : Nat × Nat := (s.fld .mboxMapKind [n], s.fld .mboxMapGroup [n])
def kindDoorbell : Nat := 1
def kindHead : Nat := 2

/-- A line whose register and whose map in force agree (R468). -/
def State.mapTaken (s : State) (n : Nat) : Bool := s.lineMap n == ((s.line n).kind, (s.line n).group)

/-- The address of a line in host memory (R465). -/
def State.lineAddr (s : State) (n : Nat) : Nat := s.fld .mboxCfgBase * 16384 + 64 * n

/-- Bytes of a line reach host memory, where it was read from. -/
def State.lineBack (s : State) (n : Nat) (bytes : List Byte) : State :=
  { s with host := tabWrite s.host (s.line n).addr bytes }

/-- A line is neither held, nor read, nor evicted. -/
def MboxLine.free (v : MboxLine) : Bool := v.state == .invalid && !v.reading && v.evict.isNone

/-- A request for a line goes out (R466, R467). -/
def State.askLine (s : State) (n : Nat) (op : CxlOp) : State :=
  (s.setLine n { s.line n with reading := true, addr := s.lineAddr n }).cxlSend n op []

/-- RdShared goes out for a doorbell line that is not held (R466). -/
def State.readLine (s : State) (n : Nat) : State :=
  if s.mboxOn && (s.line n).kind == kindDoorbell && (s.line n).free then s.askLine n .rdShared else s

/-- A line is evicted (R468); one whose read is outstanding waits for its data, and one not held has nothing to evict. -/
def State.evictLine (s : State) (n : Nat) : State :=
  let v := s.line n
  if v.reading || v.evict.isSome then s
  else match v.state with
    | .invalid => s
    | .shared => (s.setLine n { v with state := .invalid, evict := some (.shared, v.bytes) }).cxlSend n .cleanEvict []
    | .modified => (s.setLine n { v with state := .invalid, evict := some (.modified, v.bytes) }).cxlSend n .dirtyEvict []

/-- A map takes effect once the line is neither held, nor read, nor evicted (R468). -/
def State.takeMap (s : State) (n : Nat) : State :=
  if s.mapTaken n || !(s.line n).free then s
  else
    let m := s.lineMap n
    (s.setLine n { MboxLine.empty with kind := m.1, group := m.2, held := (s.line n).held }).readLine n

/-- A line of a mailbox that holds none (R465): it is not held from here on, and the snoops that waited for it are answered. -/
def State.dropLine (s : State) (n : Nat) : State :=
  let v := s.line n
  let s := v.held.foldl (fun s _ => s.cxlSend n .rspIHitI []) (s.setLine n { v with state := .invalid, held := [] })
  s.takeMap n

/-- The mailbox follows its three conditions (R465, R468): it reads its doorbell lines; it evicts every line where enable is cleared; it holds
none where ready or Cache Enable is clear. -/
def State.mboxFollow (s : State) : State :=
  (List.range 256).foldl (fun s n =>
    if s.mboxOn then s.readLine n else if s.cachesLines then s.evictLine n else s.dropLine n) s

/-! Register writes (R465, R488). -/

/-- MBOX_CFG_WRITE (R465, R468, R488). -/
def execMboxCfgWrite (val : BitVec 64) (s : State) : Host.Outcome State Fault Refusal :=
  .next (s.hostWriteAt (RegId.addr .mboxCfg []) fun s =>
    let v := val.toNat
    if s.flag .mboxCfgEnable ∧ bitsOf v 47 14 ≠ s.fld .mboxCfgBase then s
    else
      let s := if bitOf v 1 then s.setFld .mboxCfgMapRefused 0 else s
      ((s.setFld .mboxCfgBase (bitsOf v 47 14)).setFld .mboxCfgEnable (bitsOf v 0 0)).mboxFollow)

/-- MBOX_MAP_WRITE (R465, R468): the register holds the new map, and the line keeps the one in force until it is evicted. -/
def execMboxMapWrite (n : Fin 256) (val : BitVec 32) (s : State) : Host.Outcome State Fault Refusal :=
  .next (s.hostWriteAt (RegId.addr .mboxMap [n]) fun s =>
    let m := (bitsOf val.toNat 31 30, bitsOf val.toNat 7 0)
    if (m.1 = kindDoorbell ∨ m.1 = kindHead) ∧ (List.range 256).any (fun k => k != (n : Nat) && s.lineMap k == m) then
      s.raise .mboxCfgMapRefused
    else
      let s := (s.setFld .mboxMapKind m.1 [n]).setFld .mboxMapGroup m.2 [n]
      if s.mapTaken n then s else (s.evictLine n).takeMap n)

/-- CACHE_ENABLE_WRITE (R465). -/
def execCacheEnableWrite (enable : Bool) (s : State) : Host.Outcome State Fault Refusal :=
  .next ({ s with cacheOn := enable } : State).mboxFollow

/-! Snoops (R465 to R468). -/

/-- The answer to a snoop from a state (R465 to R467), with the state it leaves; forwarded data is in host memory from here on. -/
def State.answer (s : State) (n : Nat) (st : LineState) (bytes : List Byte) (q : Snoop) : State × LineState :=
  match st, q with
  | .invalid, _ => (s.cxlSend n .rspIHitI [], .invalid)
  | .shared, .inv => (s.cxlSend n .rspIHitI [], .invalid)
  | .shared, _ => (s.cxlSend n .rspSHitSE [], .shared)
  | .modified, .inv => ((s.cxlSend n .rspIFwdM bytes).lineBack n bytes, .invalid)
  | .modified, _ => ((s.cxlSend n .rspSFwdM bytes).lineBack n bytes, .shared)

/-- A snoop of a line (R465 to R468): RspIHitI where the mailbox holds no line; answered from the eviction buffer while an eviction is
outstanding, which leaves the line invalid; held while a read is. -/
def State.snoop (s : State) (n : Nat) (q : Snoop) : State :=
  let v := s.line n
  if !s.cachesLines then s.cxlSend n .rspIHitI [] else
  match v.evict with
  | some (st, bytes) =>
    let r := s.answer n st bytes q
    r.1.setLine n { v with evict := some (.invalid, bytes) }
  | none =>
    if v.reading then s.setLine n { v with held := v.held ++ [q] }
    else
      let r := s.answer n v.state v.bytes q
      (r.1.setLine n { v with state := r.2 }).readLine n

/-- SNPINV (R465 to R468). -/
def execSnpInv (n : Fin 256) (s : State) : Host.Outcome State Fault Refusal := .next (s.snoop n .inv)

/-- SNPDATA (R465 to R468). -/
def execSnpData (n : Fin 256) (s : State) : Host.Outcome State Fault Refusal := .next (s.snoop n .data)

/-- SNPCUR (R465 to R468). -/
def execSnpCur (n : Fin 256) (s : State) : Host.Outcome State Fault Refusal := .next (s.snoop n .cur)

/-! Reads and heads (R466, R467). -/

/-- The tails of a doorbell line, in order; one that differs from the last value seen is a doorbell (R466). -/
def State.takeTails (s : State) (n : Nat) (tails : List Nat) : State :=
  let g := (s.line n).group
  (List.range 16).foldl (fun s k =>
    let t := tails.getD k 0
    let v := s.line n
    if v.seen.getD k 0 = t then s
    else (s.setLine n { v with seen := v.seen.set k t }).liveDoorbell (16 * g + k) t) s

/-- The snoops that waited for the read are answered (R468). -/
def State.answerHeld (s : State) (n : Nat) : State :=
  let held := (s.line n).held
  held.foldl (fun s q => s.snoop n q) (s.setLine n { s.line n with held := [] })

/-- The bytes of a head line (R465, R467). -/
def State.headBytes (s : State) (n : Nat) : List Byte :=
  (List.range 16).flatMap fun k => leBytes 4 (s.fld .queHeadHead [16 * (s.line n).group + k])

/-- The data of a read that the mailbox still wants (R466, R467): a doorbell line is held Shared, and its tails are doorbells; a head line is
held Modified, with the heads of its group. -/
def State.takeLine (s : State) (n : Nat) (tails : List Nat) : State :=
  let v := s.line n
  if v.kind = kindHead then s.setLine n { v with reading := false, state := .modified, bytes := s.headBytes n }
  else
    (s.setLine n { v with reading := false, state := .shared, bytes := tails.flatMap fun t => leBytes 4 t }).takeTails n tails

/-- MAILBOX_READ_DATA (R466 to R468): the GO and the data of RdShared or RdOwn. A line whose mailbox has stopped, or been set to another base or map
meanwhile, is not kept. -/
def execMailboxReadData (n : Fin 256) (data : List (BitVec 32)) (s : State) : Host.Outcome State Fault Refusal :=
  .next (
    let v := s.line n
    if !v.reading then s
    else if !s.cachesLines then (s.setLine n { v with reading := false }).dropLine n
    else
      let tails := (List.range 16).map fun k => (data.getD k 0).toNat
      let here := s.mboxOn && v.addr == s.lineAddr n
      let s := if here then s.takeLine n tails
        else s.setLine n { v with reading := false, state := .shared, bytes := tails.flatMap fun t => leBytes 4 t }
      let s := s.answerHeld n
      if here && s.mapTaken n then s else (s.evictLine n).takeMap n)

/-- HEAD_LINE_UPDATE (R467): the line is obtained with RdOwn where it is not owned, and takes the heads when it is. -/
def execHeadLineUpdate (n : Fin 256) (s : State) : Host.Outcome State Fault Refusal :=
  .next (
    let v := s.line n
    if s.mboxOn ∧ v.kind = kindHead ∧ v.evict.isNone ∧ !v.reading then
      if v.state = .modified then s.setLine n { v with bytes := s.headBytes n } else s.askLine n .rdOwn
    else s)

/-! The end of an eviction (R468). -/

/-- An eviction completes; a waiting map takes effect, and a line that the mailbox may hold again is read again. -/
def State.evicted (s : State) (n : Nat) : State :=
  let s := s.setLine n { s.line n with evict := none }
  if s.mapTaken n then s.readLine n else s.takeMap n

/-- GO_WRITEPULL (R468): the buffered bytes. -/
def execGoWritePull (n : Fin 256) (s : State) : Host.Outcome State Fault Refusal :=
  .next (match (s.line n).evict with
    | some (_, bytes) => ((s.cxlSend n .data bytes).lineBack n bytes).evicted n
    | none => s)

/-- GO_WRITEPULLDROP (R468). -/
def execGoWritePullDrop (n : Fin 256) (s : State) : Host.Outcome State Fault Refusal :=
  .next (if (s.line n).evict.isSome then s.evicted n else s)

end Sys2Proof.Machine
end

