-- ==== Sys2Proof/Machine/Media.lean ====
section
/-! DEFINITION. Media streams: commits, latches, sending and receiving, and house send streams (R474, R477 to R480, R485, R486, R491, R492). -/

namespace Sys2Proof.Machine

def State.stream (s : State) (n : Nat) : MediaSt := tabGet mediaReset s.media n
def State.setStream (s : State) (n : Nat) (v : MediaSt) : State := { s with media := tabSet mediaReset s.media n v }

/-- A media port sends and receives streams (R474, R476, R496): after ready, and with light on its engine. -/
def State.mediaUp (s : State) (port : Nat) : Bool := s.ready && s.mediaLink port

/-- The ready tally of a send stream, and its step (R486). -/
def sendTallyOf (n : Nat) : Nat := Config.sendTally n % 4096

/-! Commits and latches (R485). -/

/-- This HCLK cycle is the latch instant of a stream: the first at or after the TCLK cycle of its latch line (R485). -/
def State.latchNow (s : State) (n : Nat) : Bool := s.positionAt == (s.fld .strmLatchLine [n], 0) && s.station.starts

/-- The stream has latched in this station frame. -/
def State.hasLatched (s : State) (n : Nat) : Bool := (s.stream n).latchAt.map (·.1) == some (s.fld .sttPositionFrame)

/-- The latch of this HCLK cycle has come already. -/
def State.latchedNow (s : State) (n : Nat) : Bool := (s.stream n).latchAt == some (s.fld .sttPositionFrame, s.hclk)

/-- A commit now takes effect at or before the latch instant of this frame (R485). -/
def State.beforeLatch (s : State) (n : Nat) : Bool :=
  s.latchedNow n || (!s.hasLatched n && (decide (s.positionAt.1 < s.fld .strmLatchLine [n]) || s.latchNow n))

/-- STREAM_COMMIT (R485, R486): a send stream is enabled by its first commit, which records the base of its ready tally. A commit of the latch's own
cycle latches with it. -/
def execStreamCommit (n : Fin 128) (val : BitVec 64) (s : State) : Host.Outcome State Fault Refusal :=
  .next (s.hostWriteAt (RegId.addr .strmCommit [n]) fun s =>
    if bitOf val.toNat 31 then
      let v := s.stream n
      let a := (s.reg .strmAddr [n]).toNat
      let first := v.committed.isNone && v.latched.isNone && v.cur.isNone
      let v := if first ∧ 64 ≤ (n : Nat) then { v with base := s.tally (sendTallyOf (n - 64)) } else v
      let frame := s.fld .sttPositionFrame + if s.beforeLatch n then 1 else 2
      let s1 := if s.latchedNow n then (s.setStream n { v with committed := none, latched := some a }).setFld .strmCommitPending 0 [n]
        else (s.setStream n { v with committed := some a }).raise .strmCommitPending [n]
      s1.setFld .strmCommitTakenFrame (frame % 2 ^ 32) [n]
    else s)

/-- MEDIA_LATCH (R485): at the latch instant, once in a station frame. -/
def execMediaLatch (n : Fin 128) (s : State) : Host.Outcome State Fault Refusal :=
  .next (if s.latchNow n && !s.hasLatched n then
      let v := { s.stream n with latchAt := some (s.fld .sttPositionFrame, s.hclk) }
      match v.committed with
      | some a => (s.setStream n { v with committed := none, latched := some a }).setFld .strmCommitPending 0 [n]
      | none => s.setStream n v
    else s)

/-! Formats (R477, R478): video in pixel groups of two pixels, audio in 24-bit samples, ancillary data as it comes. -/

/-- Bits of a sample, bytes of a pixel group, and its samples (log entry 85). -/
def groupBits (fmt : Nat) : Nat := if fmt = 0 then 10 else 12
def groupBytes (fmt : Nat) : Nat := if fmt = 0 then 5 else 9
def groupSamples (fmt : Nat) : Nat := if fmt = 0 then 4 else 6

/-- The plane and the position in its row of sample i of the group that begins at pixel x: luma or red first among the planes (log entry 85). -/
def groupPlace (fmt x i : Nat) : Nat × Nat :=
  match fmt, i with
  | 0, 0 => (1, x / 2)
  | 0, 2 => (2, x / 2)
  | 0, i => (0, x + i / 2)
  | 1, i => (if i % 3 = 1 then 0 else if i % 3 = 0 then 1 else 2, x + i / 3)
  | _, i => (i % 3, x + i / 3)

/-- A number from its bytes, the most significant first, and back. -/
def beNat (l : List Byte) : Nat := leNat l.reverse
def beBytes (n v : Nat) : List Byte := (leBytes n v).reverse

/-- Sample i of a pixel group. -/
def groupSample (fmt : Nat) (group : List Byte) (i : Nat) : Nat :=
  beNat group / 2 ^ (groupBits fmt * (groupSamples fmt - 1 - i)) % 2 ^ groupBits fmt

/-- The samples of a group back in its bytes. -/
def groupPack (fmt : Nat) (samples : List Nat) : List Byte :=
  beBytes (groupBytes fmt) (samples.foldl (fun a v => a * 2 ^ groupBits fmt + v % 2 ^ groupBits fmt) 0)

/-- A 24-bit sample as a 4-byte, sign-extended value (R478). -/
def audioValue (l : List Byte) : Nat := ((BitVec.ofNat 24 (beNat l)).signExtend 32).toNat

/-- Entry of a plane table: address of the first sample and row stride (R335). -/
def State.planeEntry (s : State) (table plane : Nat) : Nat × Nat :=
  (s.devNat (table + 16 * plane) 8, s.devNat (table + 16 * plane + 8) 4)

/-- The address of byte x of a row of a plane. -/
def State.planeAt (s : State) (table plane row x : Nat) : Nat := (s.planeEntry table plane).1 + row * (s.planeEntry table plane).2 + x

/-- How far along its row a packet of stream n reaches, in pixels, samples or bytes (R478). -/
def packetLen (n : Nat) (payload : List Byte) : Nat :=
  let fmt := Config.streamFormat n
  if fmt ≤ 2 then 2 * (payload.length / groupBytes fmt)
  else if fmt = 3 then payload.length / (3 * Config.streamChannels n)
  else 4 + payload.length

/-- Where the bytes of a packet go (R478): video samples little-endian in two bytes (R274), audio in a plane per channel, and an ancillary packet whole
behind its RTP timestamp. -/
def State.packetCells (s : State) (n table row offset : Nat) (stamp : BitVec 32) (payload : List Byte) : List (Nat × List Byte) :=
  let fmt := Config.streamFormat n
  if fmt ≤ 2 then
    (List.range (payload.length / groupBytes fmt)).flatMap fun g =>
      let group := (payload.drop (g * groupBytes fmt)).take (groupBytes fmt)
      (List.range (groupSamples fmt)).map fun i =>
        let p := groupPlace fmt (offset + 2 * g) i
        (s.planeAt table p.1 row (2 * p.2), leBytes 2 (groupSample fmt group i))
  else if fmt = 3 then
    let ch := Config.streamChannels n
    (List.range (payload.length / (3 * ch))).flatMap fun j => (List.range ch).map fun c =>
      (s.planeAt table c row (4 * (offset + j)), leBytes 4 (audioValue ((payload.drop (3 * (j * ch + c))).take 3)))
  else [(s.planeAt table 0 row offset, leBytes 4 stamp.toNat ++ payload)]

/-- The shelf group that refuses a media access to a span (R249, R258, R260). -/
def State.mediaShut (s : State) (a n : Nat) : List Nat := (shelfGroups [(a, n)]).filter fun g => s.shelfShut g || s.shelfHole g [(a, n)]

/-- A media write of a span, or its refusal. -/
def State.mediaWrite (s : State) (a : Nat) (bs : List Byte) : State :=
  match s.mediaShut a bs.length with
  | [] => s.devWrite a bs
  | l => l.foldl State.shelfRefuse s

/-- A media read of a span: zeros where it is refused. -/
def State.mediaRead (s : State) (a n : Nat) : List Byte × State :=
  match s.mediaShut a n with
  | [] => (s.devRead a n, s)
  | l => (List.replicate n 0, l.foldl State.shelfRefuse s)

/-! Sending (R477, R480, R486). -/

/-- The ready tally of a send stream has reached its base plus j steps (R486). -/
def State.sendReached (s : State) (n j : Nat) : Bool :=
  reaches (s.tally (sendTallyOf n)) (((s.stream (64 + n)).base + j * Config.sendStep n) % 2 ^ 32)

/-- The places of a frame that stream n reads in the order in which they are sent: for each pixel group or audio sample, its samples' addresses and
bytes; ancillary data row by row. -/
def State.frameCells (s : State) (n table : Nat) : List (List (Nat × Nat)) :=
  let fmt := Config.streamFormat n
  let size := Config.streamSize n
  (List.range size.1).flatMap fun row =>
    if fmt ≤ 2 then (List.range (size.2 / 2)).map fun g => (List.range (groupSamples fmt)).map fun i =>
      let p := groupPlace fmt (2 * g) i
      (s.planeAt table p.1 row (2 * p.2), 2)
    else if fmt = 3 then (List.range size.2).map fun x => (List.range (Config.streamChannels n)).map fun c =>
      (s.planeAt table c row (4 * x), 4)
    else [[(s.planeAt table 0 row 0, size.2)]]

/-- The bytes that a group of values is sent in (R477). -/
def sendPack (fmt : Nat) (vals : List (List Byte)) : List Byte :=
  if fmt ≤ 2 then groupPack fmt (vals.map leNat) else if fmt = 3 then vals.flatMap fun v => beBytes 3 (leNat v % 2 ^ 24) else vals.flatten

/-- The bytes of a frame that a stream sends, from its buffer. -/
def State.frameBytes (s : State) (n table : Nat) : List Byte × State :=
  (s.frameCells n table).foldl (fun r cells =>
    let g := cells.foldl (fun (q : List (List Byte) × State) c =>
      let x := q.2.mediaRead c.1 c.2
      (q.1 ++ [x.1], x.2)) ([], r.2)
    (r.1 ++ sendPack (Config.streamFormat n) g.1, g.2)) ([], s)

/-- What a stream sends leaves on each of its ports that is up: on both of an ST 2022-7 pair (R477). -/
def State.mediaSend (s : State) (n table : Nat) (bytes : List Byte) : State :=
  let ports := ((Config.streamPorts n).map (· % 4)).filter s.mediaUp
  { s with mediaOut := s.mediaOut ++ ports.map fun k => ⟨k, n, table, bytes⟩ }

/-- The bytes of piece data in a packet at most: the MTU less the IPv4, UDP, RTP and house headers (R476, R480). -/
def houseMax : Nat := 9000 - 20 - 8 - 12 - 12

/-- The header of a house packet (R480). -/
def houseHeader (frame unit offset : Nat) (last : Bool) : List Byte :=
  leBytes 4 frame ++ leBytes 2 unit ++ leBytes 2 (b2n last) ++ leBytes 4 offset

/-- One packet of the record under way: each record is a unit of its frame (log entry 85). -/
def State.housePacket (s : State) (n c : Nat) (r : OutRec) (len : Nat) : State :=
  let v := s.egr c
  let done := decide (r.left ≤ len)
  let bs := s.mediaRead r.addr len
  let s := bs.2.mediaSend n 0 (houseHeader v.frame v.unit v.sent done ++ bs.1)
  s.setEgr c (if done then
      { v with cur := none, sent := 0, unit := if r.last then 0 else v.unit + 1, frame := v.frame + b2n r.last }
    else { v with cur := some { r with addr := r.addr + len, left := r.left - len }, sent := v.sent + len })

/-- A house stream sends records of its context, at most `room` bytes in a frame period (R480), over `k` rounds. -/
def State.housePump (s : State) (n c : Nat) : Nat → Nat → State
  | 0, _ => s
  | k + 1, room =>
    match (s.egr c).cur with
    | some r =>
      let len := Nat.min (Nat.min r.left room) houseMax
      if room = 0 then s else (s.housePacket n c r len).housePump n c k (room - len)
    | none => if 0 < (s.egr c).due then (s.takeRecord c).housePump n c k room else s

/-- MEDIA_FRAME_SEND (R480, R485, R486): a stream none of whose ports is up sends nothing. -/
def execMediaFrameSend (n : Fin 64) (s : State) : Host.Outcome State Fault Refusal :=
  .next (
    let v := s.stream (64 + n)
    if !(Config.streamPorts (64 + n)).any fun k => s.mediaUp (k % 4) then s
    else match Config.houseSend n with
    | some c => s.housePump (64 + n) c ((s.egr c).due + Config.houseBytes n) (Config.houseBytes n)
    | none => match v.cur with
      | some a =>
        let late := v.last.isSome && !s.sendReached n v.sent
        let buf := if late then v.last.getD a else a
        let s1 := s.setStream (64 + n) { v with sent := v.sent + 1, last := some buf }
        let bytes := s1.frameBytes (64 + n) buf
        (bytes.2.mediaSend (64 + n) buf bytes.1).count .strmCommitRepeats (b2n late) [64 + n]
      | none => s)

/-! Receiving (R474, R478 to R480). -/

/-- A packet of an ST 2022-7 pair is the second copy (R479). -/
def State.secondCopy (s : State) (n : Nat) (seqNo : BitVec 32) : Bool := Config.streamMerged n && (s.stream n).seen.contains seqNo.toNat

/-- The packets kept, the newest first: those that the extended sequence number has left behind by half its range are forgotten (R479). -/
def keptSeqs (seen : List Nat) (q : Nat) : List Nat :=
  match seen with
  | [] => [q]
  | newest :: rest =>
    if 0 < sdiff32 q newest then q :: (newest :: rest).filter fun e => 0 < sdiff32 q e
    else newest :: q :: rest

/-- MEDIA_PACKET_RECEIVE (R474, R476, R478, R479): `path` is true for the second path of a merge, `place` is the packet's place and `payload` its data. -/
def execMediaPacketReceive (n : Fin 64) (port : Fin 4) (path : Bool) (seqNo stamp : BitVec 32) (place : MediaPlace) (payload : List (BitVec 8))
    (s : State) : Host.Outcome State Fault Refusal :=
  .next (
    let v := s.stream n
    if !s.mediaLink port then s
    else if !s.ready then s.count .mdpCountDiscarded 1
    else if s.secondCopy n seqNo then s
    else
      let s := s.setStream n { v with seen := keptSeqs v.seen seqNo.toNat }
      let size := Config.streamSize n
      match v.cur with
      | some table =>
        if place.row < size.1 ∧ place.offset + packetLen n payload ≤ size.2 then
          ((s.packetCells n table place.row place.offset stamp payload).foldl (fun s e => s.mediaWrite e.1 e.2) s).count .mdpCountPathBUsed (b2n path)
        else s.count .mdpCountDiscarded 1
      | none => s.count .mdpCountDiscarded 1)

/-- HOUSE_RTP_PACKET (R474, R476, R480): the first 12 bytes of the RTP payload are the header. -/
def execHouseRtpPacket (c : Fin 64) (packet : HousePacket) (s : State) : Host.Outcome State Fault Refusal :=
  .next (
    let payload := packet.payload
    let f := leNat (payload.take 4)
    let unit := leNat ((payload.drop 4).take 2)
    let off := leNat ((payload.drop 8).take 4)
    let bs := payload.drop 12
    if !s.mediaLink packet.port then s
    else if s.ready ∧ 12 ≤ payload.length ∧ s.packetOk c f unit off bs.length then s.fillWindow c f unit off bs
    else s.count .mdpCountDiscarded 1)

end Sys2Proof.Machine
end

