-- ==== Sys2Proof/Machine/Motion.lean ====
section
/-! DEFINITION. The motion engines: reference pools, prediction, search and compensation, and job completion (R332 to R354, R360,
R361). -/

namespace Sys2Proof.Machine

/-! Descriptors (R335). -/

def mOp (w : BitVec 1024) : Nat := wordF w 0 11 8
def mPlanes (w : BitVec 1024) : Nat := wordF w 0 5 4 + 1
def mLevel (w : BitVec 1024) : Nat := wordF w 0 1 0
def mContext (w : BitVec 1024) : Nat := wordF w 4 29 24
def mDepth (w : BitVec 1024) : Nat := wordF w 4 4 0
def mState (w : BitVec 1024) : Nat := wordF w 8 47 0
def mA (w : BitVec 1024) : Nat := wordF w 0x10 47 0
def mSlots (w : BitVec 1024) : Nat := wordF w 0x18 47 0
def mB (w : BitVec 1024) : Nat := wordF w 0x20 47 0
def mPrior (w : BitVec 1024) : Nat := wordF w 0x28 47 0
def mBx (w : BitVec 1024) : Nat := wordF w 0x30 15 0
def mBy (w : BitVec 1024) : Nat := wordF w 0x30 31 16
def mWide (w : BitVec 1024) : Nat := wordF w 0x34 15 0 + 1
def mHigh (w : BitVec 1024) : Nat := wordF w 0x34 31 16 + 1
def mRegion (w : BitVec 1024) : Nat := wordF w 0x38 31 0
def mFieldStride (w : BitVec 1024) : Nat := wordF w 0x5C 31 16
def mHint (w : BitVec 1024) : Nat := wordF w 0x60 47 0
def mLambda (w : BitVec 1024) : Nat := wordF w 0x68 15 0
def mSrcStride (w : BitVec 1024) : Nat := wordF w 0x6C 31 0
def mThresh (w : BitVec 1024) : Nat := wordF w 0x70 31 0
def mSearchSlot (w : BitVec 1024) : Nat := wordF w 0x78 2 0

/-- The subsampling exponents of a plane (R332, R335). -/
def mSubX (w : BitVec 1024) (p : Nat) : Nat := match p with | 1 => wordF w 4 10 10 | 2 => wordF w 4 12 12 | _ => 0
def mSubY (w : BitVec 1024) (p : Nat) : Nat := match p with | 1 => wordF w 4 11 11 | 2 => wordF w 4 13 13 | _ => 0

/-- The job reads a field of motion or a picture. -/
def mMoves (w : BitVec 1024) : Bool := mOp w == 1 || mOp w == 2

/-- The reserved bits (R335). -/
def mReservedOk (w : BitVec 1024) : Bool :=
  bitsClear w [(0, 15, 12), (0, 7, 6), (0, 3, 2), (4, 31, 30), (4, 23, 14), (4, 9, 5), (8, 63, 48), (0x10, 63, 48), (0x18, 63, 48),
    (0x20, 63, 48), (0x28, 63, 48), (0x40, 63, 48), (0x50, 31, 12), (0x58, 31, 25), (0x5C, 15, 0), (0x60, 63, 48), (0x68, 31, 16),
    (0x78, 63, 3)]

/-- A field out of its range (R335, R354). -/
def mRangeBad (w : BitVec 1024) (index : Nat) : Bool :=
  let op := mOp w
  wordF w 0 31 16 != index % 65536 || op == 0 || decide (4 < op) || decide (mDepth w < 8) || decide (16 < mDepth w) ||
    (mMoves w && decide (mRegion w / 2 ^ 30 = 3)) ||
    (op == 2 && decide (3 < mPlanes w))

/-- The entry of a vector field for a block (R333). -/
def mEntryAt (w : BitVec 1024) (field bx by_ : Nat) : Nat := field + 8 * (by_ * mFieldStride w + bx)

/-- The bytes of a field that a job touches. -/
def mFieldSpan (w : BitVec 1024) (field : Nat) : Nat × Nat :=
  (mEntryAt w field (mBx w) (mBy w), 8 * ((mHigh w - 1) * mFieldStride w + mWide w))

/-- The frame header in a state block (R323, R335). -/
def State.frameHeader (s : State) (w : BitVec 1024) : Option (List Byte) := (s.kblock (mState w)).bind (·.header)

def hdrW (h : List Byte) : Nat := le16 h 0x0C + 1
def hdrH (h : List Byte) : Nat := le16 h 0x0E + 1
def hdrFrame (h : List Byte) : Nat := leNat ((h.drop 8).take 4)
def hdrFlags (h : List Byte) : Nat := leNat ((h.drop 3).take 1)
def hdrRef (h : List Byte) : Nat := leNat ((h.drop 0x18).take 4)

/-- The size of a plane (R332). -/
def planeW (w : BitVec 1024) (h : List Byte) (p : Nat) : Nat := ceilDiv (hdrW h) (2 ^ mSubX w p)
def planeH (w : BitVec 1024) (h : List Byte) (p : Nat) : Nat := ceilDiv (hdrH h) (2 ^ mSubY w p)

/-- A window of the slot table (R349). -/
structure RefWindow where
  addr : Nat
  stride : Nat
  first : Nat
  lines : Nat
  deriving DecidableEq, Repr

def State.refWindow (s : State) (w : BitVec 1024) (slot p : Nat) : RefWindow :=
  let a := mSlots w + 16 * (3 * slot + p)
  ⟨s.devNat a 8, s.devNat (a + 8) 4, s.devNat (a + 12) 2, s.devNat (a + 14) 2⟩

/-- An output plane: the address of sample (0, 0) and the row stride (R335). -/
def State.outPlane (s : State) (w : BitVec 1024) (p : Nat) : Nat × Nat := (s.devNat (mB w + 16 * p) 8, s.devNat (mB w + 16 * p + 8) 4)

/-! The pool (R345 to R348, R360). -/

def poolMark (s : State) (c k : Nat) : Nat := s.fld .motPoolMark [c, k]
def poolFrame (s : State) (c k : Nat) : Nat := s.fld .motPoolFrame [c, k]

/-- The newest marked slot (R344). -/
def State.newestSlot (s : State) (c f : Nat) : Option Nat :=
  ((List.range 8).filter fun k => poolMark s c k != 0).foldl (fun best k =>
    let age := fun j => (f + 2 ^ 32 - poolFrame s c j) % 2 ^ 32
    match best with
    | none => some k
    | some b => if age k < age b then some k else some b) none

/-! The check of a job (R334, R335). -/

/-- The bytes of a plane from `a` that the blocks of a job touch (R332): from their first sample inside the picture to their last. -/
def mTouched (w : BitVec 1024) (h : List Byte) (p a stride : Nat) : Nat × Nat :=
  let b := sampleBytes (mDepth w)
  let x0 := 16 * mBx w / 2 ^ mSubX w p
  let y0 := 16 * mBy w / 2 ^ mSubY w p
  let x1 := Nat.min (16 * (mBx w + mWide w) / 2 ^ mSubX w p) (planeW w h p)
  let y1 := Nat.min (16 * (mBy w + mHigh w) / 2 ^ mSubY w p) (planeH w h p)
  if x0 < x1 ∧ y0 < y1 then (a + y0 * stride + x0 * b, (y1 - 1 - y0) * stride + (x1 - x0) * b) else (a, 0)

/-- The spans of the planes that a job reads and writes, once its frame header gives their size. -/
def State.mPlaneSpans (s : State) (w : BitVec 1024) (h : List Byte) : List (Nat × Nat) :=
  let b := sampleBytes (mDepth w)
  let window := fun k p => let r := s.refWindow w k p
    (r.addr, if r.lines = 0 then 0 else (r.lines - 1) * r.stride + planeW w h p * b)
  if mOp w = 1 then
    [mTouched w h 0 (mA w) (mSrcStride w)] ++
      (if poolMark s (mContext w) (mSearchSlot w) = 0 then [] else [window (mSearchSlot w) 0])
  else
    let planes := List.range (mPlanes w)
    planes.map (fun p => mTouched w h p (s.outPlane w p).1 (s.outPlane w p).2) ++
      ((List.range 8).filter fun k => poolMark s (mContext w) k != 0).flatMap fun k => planes.map (window k)

/-- The spans that a job names itself. -/
def mSpans (w : BitVec 1024) : List (Nat × Nat) :=
  let optional := fun field => if field = 0 then (0, 0) else mFieldSpan w field
  match mOp w with
  | 1 => [(mState w, 2112), (mA w, 1), (mSlots w, 384), mFieldSpan w (mB w), optional (mPrior w), optional (mHint w)]
  | 2 => [(mState w, 2112), (mSlots w, 384), mFieldSpan w (mA w), (mB w, 16 * mPlanes w)]
  | 3 => [(mState w, 2112)]
  | _ => []

/-- What the check of a descriptor finds (R334, R335). -/
def State.motVerdict (s : State) (index : Nat) (w : BitVec 1024) : Nat :=
  if !jobCrcOk w || !mReservedOk w then 8
  else if mRangeBad w index then 9
  else
    let v := worstOf (s.recordStatus w :: (mSpans w).map fun e => s.spanStatus Place.engineSide e.1 e.2)
    if v ≠ 0 ∨ !mMoves w then v
    else match s.frameHeader w with
      | none => 0
      | some h => worstOf ((s.mPlaneSpans w h).map fun e => s.spanStatus Place.engineSide e.1 e.2)

/-! Prediction (R342, R343). -/

/-- The taps of a phase (R342). -/
def tapsOf (phase : Int) : List Int :=
  if phase = 0 then [0, 64, 0, 0] else if phase = 1 then [-4, 54, 16, -2] else if phase = 2 then [-4, 36, 36, -4] else [-2, 16, 54, -4]

/-- A coordinate clamped to a plane. -/
def clampCoord (n : Nat) (x : Int) : Nat := clampTo (n - 1) x

/-- A reference sample (R343, R349). -/
def State.refSample (s : State) (w : BitVec 1024) (h : List Byte) (slot p : Nat) (y x : Int) : Nat :=
  let r := s.refWindow w slot p
  let b := sampleBytes (mDepth w)
  s.devNat (r.addr + (clampCoord (planeH w h p) y - r.first) * r.stride + clampCoord (planeW w h p) x * b) b % 2 ^ mDepth w

/-- A motion vector in quarter luma samples. -/
structure MVec where
  x : Int
  y : Int
  deriving DecidableEq, Repr

/-- The quarter-sample position of plane sample (x, y) under a vector (R343). -/
def qPos (w : BitVec 1024) (p : Nat) (v : MVec) (x y : Nat) : Int × Int :=
  (4 * (x : Int) + v.x / 2 ^ mSubX w p, 4 * (y : Int) + v.y / 2 ^ mSubY w p)

/-- The prediction of plane sample (x, y) (R343). -/
def State.predict (s : State) (w : BitVec 1024) (h : List Byte) (slot p : Nat) (v : MVec) (x y : Nat) : Nat :=
  let q := qPos w p v x y
  let px := q.1 / 4
  let py := q.2 / 4
  let row : Nat → Int := fun j =>
    ((tapsOf (q.1 % 4)).zipIdx.map fun t => t.1 * (s.refSample w h slot p (py - 1 + j) (px - 1 + t.2) : Int)).sum
  let sum : Int := ((tapsOf (q.2 % 4)).zipIdx.map fun t => t.1 * row t.2).sum
  clampTo (2 ^ mDepth w - 1) ((sum + 2048) / 4096)

/-- The samples of a block in a plane that lie inside the picture, as first and one past last column and row (R332). -/
structure BlockBox where
  x0 : Nat
  x1 : Nat
  y0 : Nat
  y1 : Nat
  deriving DecidableEq, Repr

def blockBox (w : BitVec 1024) (h : List Byte) (p bx by_ : Nat) : BlockBox :=
  let x0 := 16 * bx / 2 ^ mSubX w p
  let y0 := 16 * by_ / 2 ^ mSubY w p
  ⟨x0, Nat.min (x0 + 16 / 2 ^ mSubX w p) (planeW w h p), y0, Nat.min (y0 + 16 / 2 ^ mSubY w p) (planeH w h p)⟩

/-- The points of a box in raster order. -/
def BlockBox.points (b : BlockBox) : List (Nat × Nat) :=
  (List.range (b.y1 - b.y0)).flatMap fun y => (List.range (b.x1 - b.x0)).map fun x => (b.x0 + x, b.y0 + y)

/-- The clamped tap rows and columns of a block in a plane: first and last (R343, R344). -/
def tapBox (w : BitVec 1024) (h : List Byte) (p : Nat) (v : MVec) (b : BlockBox) : BlockBox :=
  let lo := qPos w p v b.x0 b.y0
  let hi := qPos w p v (b.x1 - 1) (b.y1 - 1)
  ⟨clampCoord (planeW w h p) (lo.1 / 4 - 1), clampCoord (planeW w h p) (hi.1 / 4 + 2),
    clampCoord (planeH w h p) (lo.2 / 4 - 1), clampCoord (planeH w h p) (hi.2 / 4 + 2)⟩

/-! The checks of a block (R344, R350 to R352, R354). -/

/-- The lines of the region word's rows: first and one past last, clipped (R344, R354). -/
def regionRows (region height : Nat) : Nat × Nat :=
  let first := bitsOf region 29 20
  let bands := (match region / 2 ^ 30 with
    | 0 => bitsOf region 19 10
    | 1 => bitsOf region 19 14
    | _ => bitsOf region 19 16) + 1
  (Nat.min (16 * first) height, Nat.min (16 * (first + bands)) height)

/-- The columns of refresh band b of N: first and one past last (R350). -/
def bandCols (width n b : Nat) : Nat × Nat :=
  let wu := ceilDiv width 64
  (Nat.min (64 * (b * wu / n)) width, Nat.min (64 * ((b + 1) * wu / n)) width)

def refreshN (h : List Byte) : Nat := bitsOf (hdrRef h) 31 26

/-- The block lies in the refresh band, or is clean (R351). -/
def inBand (h : List Byte) (bx : Nat) : Bool :=
  let n := refreshN h
  let b := bandCols (hdrW h) n (hdrFrame h % n)
  n != 0 && decide (b.1 ≤ 16 * bx) && decide (16 * bx < b.2)

def isClean (h : List Byte) (bx : Nat) : Bool :=
  let n := refreshN h
  n != 0 && decide (16 * bx + 16 ≤ (bandCols (hdrW h) n (hdrFrame h % n)).1)

/-- Check 1: the slot is marked. -/
def checkMark (s : State) (w : BitVec 1024) (slot : Nat) : Bool := poolMark s (mContext w) slot != 0

/-- Check 2: the tap rows of plane 0 lie within the margin of the region. -/
def checkRows (w : BitVec 1024) (h : List Byte) (v : MVec) (bx by_ : Nat) : Bool :=
  let r := regionRows (mRegion w) (hdrH h)
  let t := tapBox w h 0 v (blockBox w h 0 bx by_)
  let margin := 16 * bitsOf (hdrRef h) 25 21
  decide (r.1 ≤ t.y0 + margin) && decide (t.y1 + 1 ≤ r.2 + margin)

/-- Check 3: the taps of a plane lie in its window. -/
def State.checkWindow (s : State) (w : BitVec 1024) (h : List Byte) (slot : Nat) (v : MVec) (bx by_ p : Nat) : Bool :=
  let r := s.refWindow w slot p
  let t := tapBox w h p v (blockBox w h p bx by_)
  decide (r.first ≤ t.y0) && decide (t.y1 < r.first + r.lines)

/-- Check 4: the block is not in the refresh band, and a clean one meets the clean rule. -/
def checkClean (s : State) (w : BitVec 1024) (h : List Byte) (slot : Nat) (v : MVec) (bx by_ : Nat) : Bool :=
  let n := refreshN h
  let fr := poolFrame s (mContext w) slot
  let t := tapBox w h 0 v (blockBox w h 0 bx by_)
  !inBand h bx && (!isClean h bx ||
    (decide (fr / n = hdrFrame h / n) && decide (t.x1 < (bandCols (hdrW h) n (fr % n)).2)))

/-! Vector field entries (R333). -/

/-- An entry: vector, byte 4 (intra and slot), byte 5 (substituted and lost), and cost. -/
structure VEntry where
  v : MVec
  intra : Bool
  slot : Nat
  substituted : Bool
  lost : Bool
  cost : Nat
  deriving DecidableEq, Repr

def State.entryAt (s : State) (a : Nat) : VEntry :=
  let e := s.devNat a 8
  ⟨⟨sbitsOf e 15 0, sbitsOf e 31 16⟩, bitOf e 39, bitsOf e 34 32, bitOf e 41, bitOf e 40, bitsOf e 63 48⟩

def VEntry.bytes (e : VEntry) : List Byte :=
  leBytes 2 (ofSigned 16 e.v.x) ++ leBytes 2 (ofSigned 16 e.v.y) ++ leBytes 1 (b2n e.intra * 128 + e.slot) ++
    leBytes 1 (b2n e.substituted * 2 + b2n e.lost) ++ leBytes 2 e.cost

/-! Search (R338 to R341). -/

/-- G of R339. -/
def costG (a : Int) : Nat := 2 * Nat.log2 (a.natAbs + 1) + 1

/-- Component-wise median of three vectors. -/
def median3 (a b c : Int) : Int := if a < b then (if b < c then b else if a < c then c else a) else (if a < c then a else if b < c then c else b)

/-- The score of a point, none for infinite (R339, R341). -/
def State.score (s : State) (w : BitVec 1024) (h : List Byte) (bx by_ : Nat) (pv v : MVec) : Option Nat :=
  let slot := mSearchSlot w
  if checkMark s w slot && checkRows w h v bx by_ && s.checkWindow w h slot v bx by_ 0 && checkClean s w h slot v bx by_ then
    let b := sampleBytes (mDepth w)
    let dist := ((blockBox w h 0 bx by_).points.map fun p =>
      let cur := s.devNat (mA w + p.2 * mSrcStride w + p.1 * b) b % 2 ^ mDepth w
      let ref := s.predict w h slot 0 v p.1 p.2
      if cur ≤ ref then ref - cur else cur - ref).sum
    some (16 * dist + mLambda w * (costG (v.x - pv.x) + costG (v.y - pv.y)))
  else none

/-- A score is strictly lower than another. -/
def scoreLt : Option Nat → Option Nat → Bool
  | some a, some b => decide (a < b)
  | some _, none => true
  | none, _ => false

/-- The best of some points after a first, the first of equals (R339). -/
def bestPoint (f : MVec → Option Nat) (best : MVec × Option Nat) (l : List MVec) : MVec × Option Nat :=
  l.foldl (fun b v => if scoreLt (f v) b.2 then (v, f v) else b) best

/-- The points around a centre, at some offsets. -/
def around (c : MVec) (l : List (Int × Int)) : List MVec := l.map fun o => ⟨c.x + o.1, c.y + o.2⟩

def stepOffsets : List (Int × Int) := [(-4, 0), (4, 0), (0, -4), (0, 4)]
def ringOffsets (k : Int) : List (Int × Int) := [(-k, -k), (0, -k), (k, -k), (-k, 0), (k, 0), (-k, k), (0, k), (k, k)]

/-- The refinement steps of a level, as lists of offsets (R340). -/
def refineSteps (level : Nat) : List (List (Int × Int)) :=
  List.replicate (match level with | 0 => 0 | 1 => 2 | 2 => 4 | _ => 8) stepOffsets ++
    (if 1 ≤ level then [ringOffsets 2] else []) ++ (if 2 ≤ level then [ringOffsets 1] else [])

/-- The vector chosen for another block of the job, in the output field: zero outside the job (R338). -/
def State.jobVec (s : State) (w : BitVec 1024) (bx by_ : Int) : MVec :=
  if mBx w ≤ bx ∧ bx < mBx w + mWide w ∧ mBy w ≤ by_ ∧ by_ < mBy w + mHigh w then
    (s.entryAt (mEntryAt w (mB w) bx.toNat by_.toNat)).v
  else ⟨0, 0⟩

/-- A co-located vector of another field, zero where there is none. -/
def State.fieldVec (s : State) (w : BitVec 1024) (field bx by_ : Nat) : MVec :=
  if field = 0 then ⟨0, 0⟩ else (s.entryAt (mEntryAt w field bx by_)).v

/-- The entry that SEARCH writes for a block, and the state is as before (R338 to R341). -/
def State.searchBlock (s : State) (w : BitVec 1024) (h : List Byte) (bx by_ : Nat) : VEntry :=
  let left := s.jobVec w ((bx : Int) - 1) by_
  let above := s.jobVec w bx ((by_ : Int) - 1)
  let corner := s.jobVec w ((bx : Int) + 1) ((by_ : Int) - 1)
  let pv : MVec := ⟨median3 left.x above.x corner.x, median3 left.y above.y corner.y⟩
  let f := s.score w h bx by_ pv
  let cands := [left, above, corner, s.fieldVec w (mPrior w) bx by_, ⟨toSigned 16 (wordF w 0x74 15 0), toSigned 16 (wordF w 0x74 31 16)⟩,
    s.fieldVec w (mHint w) bx by_, pv]
  let best := bestPoint f (⟨0, 0⟩, f ⟨0, 0⟩) cands
  let best := (refineSteps (mLevel w)).foldl (fun b o => bestPoint f b (around b.1 o)) best
  let intra := match best.2 with
    | none => true
    | some j => inBand h bx || (mThresh w != 0 && decide (mThresh w < j))
  let cost := match best.2 with | none => 65535 | some j => Nat.min (j / 16) 65535
  ⟨if intra then ⟨0, 0⟩ else best.1, intra, mSearchSlot w, false, false, cost⟩

/-- The blocks of a job in raster order, with their index. -/
def mBlocks (w : BitVec 1024) : List (Nat × Nat × Nat) :=
  (List.range (mWide w * mHigh w)).map fun i => (i, mBx w + i % mWide w, mBy w + i / mWide w)

/-- A pass over the blocks: the state, the blocks counted, and the first of them (R336). -/
structure MotRun where
  st : State
  hits : Nat
  first : Option Nat
  deriving DecidableEq, Repr

def MotRun.hit (o : MotRun) (i : Nat) (yes : Bool) : MotRun :=
  if yes then { o with hits := o.hits + 1, first := some (o.first.getD i) } else o

/-- One block of a SEARCH. -/
def MotRun.search (w : BitVec 1024) (h : List Byte) (o : MotRun) (b : Nat × Nat × Nat) : MotRun :=
  let e := o.st.searchBlock w h b.2.1 b.2.2
  { o with st := o.st.devWrite (mEntryAt w (mB w) b.2.1 b.2.2) e.bytes }.hit b.1 e.intra

/-! Compensation (R343, R344). -/

/-- Check 3 on every plane of the job. -/
def State.checkWindows (s : State) (w : BitVec 1024) (h : List Byte) (slot : Nat) (v : MVec) (bx by_ : Nat) : Bool :=
  (List.range (mPlanes w)).all fun p => s.checkWindow w h slot v bx by_ p

/-- What a block predicts from: a slot and a vector, or nothing, and its final entry (R344). -/
def State.compEntry (s : State) (w : BitVec 1024) (h : List Byte) (bx by_ : Nat) (e : VEntry) : Option (Nat × MVec) × VEntry :=
  if e.intra then (none, { e with substituted := false })
  else
    let own := checkMark s w e.slot && s.checkWindows w h e.slot e.v bx by_
    let all := own && checkRows w h e.v bx by_ && checkClean s w h e.slot e.v bx by_
    if all ∧ !e.lost then (some (e.slot, e.v), { e with substituted := false })
    else if e.lost ∧ own then (some (e.slot, e.v), { e with substituted := true })
    else match s.newestSlot (mContext w) (hdrFrame h) with
      | none => (none, { e with v := ⟨0, 0⟩, substituted := true })
      | some k =>
        let e := { e with v := ⟨0, 0⟩, slot := k, substituted := true }
        (if s.checkWindows w h k ⟨0, 0⟩ bx by_ then some (k, ⟨0, 0⟩) else none, e)

/-- One plane of a block is written at its entry of the output plane table (R343). -/
def State.writePlane (s : State) (w : BitVec 1024) (h : List Byte) (bx by_ : Nat) (src : Option (Nat × MVec)) (ref : State)
    (out : Nat × Nat) (p : Nat) : State :=
  let b := sampleBytes (mDepth w)
  (blockBox w h p bx by_).points.foldl (fun s q =>
    let v := match src with | none => 0 | some (slot, v) => ref.predict w h slot p v q.1 q.2
    s.devWrite (out.1 + q.2 * out.2 + q.1 * b) (leBytes b v)) s

/-- One block of a COMPENSATE, with the output plane table that its descriptor was checked with (R334, R335). -/
def MotRun.comp (planes : Nat → Nat × Nat) (w : BitVec 1024) (h : List Byte) (o : MotRun) (b : Nat × Nat × Nat) : MotRun :=
  let a := mEntryAt w (mA w) b.2.1 b.2.2
  let r := o.st.compEntry w h b.2.1 b.2.2 (o.st.entryAt a)
  let s := (List.range (mPlanes w)).foldl (fun s p => s.writePlane w h b.2.1 b.2.2 r.1 o.st (planes p) p) o.st
  { o with st := s.devWrite a r.2.bytes }.hit b.1 r.2.substituted

/-! Times (R337, R340, R343). -/

/-- The share of a level for a motion engine (R337). -/
def motShare (level : Nat) : Nat := match level with | 0 => 64 | 1 => 150 | _ => 10

/-- The largest cost over the levels, of bytes as (address, count). -/
def State.levelCost (s : State) (l : List (Nat × Nat)) : Nat :=
  [0, 1, 2].foldl (fun m k => Nat.max m (ceilDiv ((l.filter fun e => (s.place e.1).level == k).map (·.2)).sum (motShare k))) 0

/-- The points of a level (R340). -/
def searchPoints (level : Nat) : Nat := match level with | 0 => 8 | 1 => 24 | 2 => 40 | _ => 56

/-- The cost of a block of a SEARCH (R340). -/
def State.searchCost (s : State) (w : BitVec 1024) : Nat :=
  let p := searchPoints (mLevel w)
  let b := sampleBytes (mDepth w)
  let field := fun f => if f = 0 then mB w else f
  Nat.max (4 * p) (s.levelCost [((s.refWindow w (mSearchSlot w) 0).addr, p * 361 * b), (mA w, 256 * b), (mB w, 8),
    (field (mPrior w), 8), (field (mHint w), 8)])

/-- The cost of a block of a COMPENSATE (R343): over the levels of every marked slot, whatever the vectors are. -/
def State.compCost (s : State) (w : BitVec 1024) : Nat :=
  let b := sampleBytes (mDepth w)
  let marked := (List.range 8).filter fun k => poolMark s (mContext w) k != 0
  ((List.range (mPlanes w)).map fun p =>
    let sx := 2 ^ mSubX w p
    let sy := 2 ^ mSubY w p
    let n := 16 / sx * (16 / sy)
    let taps := (16 / sx + 3) * (16 / sy + 3)
    let out := ((s.outPlane w p).1, n * b)
    let costs := marked.map fun k => s.levelCost [((s.refWindow w k p).addr, taps * b), out]
    costs.foldl Nat.max (Nat.max (ceilDiv n 64) (s.levelCost [out]))).sum

/-! The four operations (R334, R336, R345, R348). -/

/-- Bytes 0x10 to 0x1F of a record (R336). -/
def mBody (hits first cycles : Nat) : List Byte := leBytes 4 hits ++ leBytes 4 first ++ leBytes 4 cycles ++ leBytes 4 0

/-- What an operation came to: the state, its status, the blocks counted with the first of them, and its time where the manual gives
one. -/
structure MEnd where
  st : State
  status : Nat
  hits : Nat
  first : Option Nat
  cycles : Option Nat
  deriving DecidableEq, Repr

/-- An operation runs where its ring is first and its descriptor passes its check. -/
def State.motRun (s : State) (n op : Nat) (f : State → BitVec 1024 → MEnd) : State :=
  let w := s.headDesc .mot n
  if s.ringFirst .mot n ∧ s.motVerdict (s.fld .motRingHeadHead [n]) w = 0 ∧ mOp w = op then
    let k := f s w
    let t := k.st.orDraw k.cycles
    t.2.takeJob .mot n k.status (mBody k.hits (k.first.getD 0xFFFFFFFF) t.1) t.1 w
  else s

/-- SEARCH over its blocks. -/
def searchOp (s : State) (w : BitVec 1024) : MEnd :=
  match s.frameHeader w with
  | none => ⟨s, 0x1A, 0, none, none⟩
  | some h =>
    let o := (mBlocks w).foldl (MotRun.search w h) ⟨s, 0, none⟩
    ⟨o.st, 0, o.hits, o.first, some (96 + mWide w * mHigh w * s.searchCost w + 64)⟩

/-- SEARCH (R338). -/
def execSearch (n : Fin 8) (s : State) : Host.Outcome State Fault Refusal := .next (s.motRun n 1 searchOp)

/-- COMPENSATE over its blocks. -/
def compensateOp (s : State) (w : BitVec 1024) : MEnd :=
  match s.frameHeader w with
  | none => ⟨s, 0x1A, 0, none, none⟩
  | some h =>
    let o := (mBlocks w).foldl (MotRun.comp (s.outPlane w) w h) ⟨s, 0, none⟩
    ⟨o.st.count .motCountSubstituted o.hits, 0, o.hits, o.first, some (96 + mWide w * mHigh w * s.compCost w + 64)⟩

/-- COMPENSATE (R343, R344, R361). -/
def execCompensate (n : Fin 8) (s : State) : Host.Outcome State Fault Refusal := .next (s.motRun n 2 compensateOp)

/-- The reference word and the flags disagree (R347). -/
def refWordBad (h : List Byte) : Bool :=
  let r := hdrRef h
  if bitOf (hdrFlags h) 1 then decide (bitsOf r 5 0 < 2) || decide (40 < bitsOf r 5 0) else bitsOf r 7 6 != 0 || bitsOf r 5 0 != 0

/-- A frame's release and store actions on a pool (R348); the status. -/
def State.poolApply (s : State) (c : Nat) (h : List Byte) : State × Nat :=
  let r := hdrRef h
  let store := bitOf r 11
  let k := bitsOf r 10 8
  if refWordBad h then (s, 0x1C)
  else if store ∧ poolMark s c k = 2 ∧ !bitOf r (13 + k) then (s, 0x1B)
  else
    let s := (List.range 8).foldl (fun s j => if bitOf r (13 + j) then s.setFld .motPoolMark 0 [c, j] else s) s
    (if store then s.setSlot c k (if bitOf r 12 then 2 else 1) (hdrFrame h) (b2n (bitOf (hdrFlags h) 1)) else s, 0)

/-- POOL. -/
def poolOp (s : State) (w : BitVec 1024) : MEnd :=
  match s.frameHeader w with
  | none => ⟨s, 0x1A, 0, none, some 120⟩
  | some h => let r := s.poolApply (mContext w) h; ⟨r.1, r.2, 0, none, some 120⟩

/-- POOL (R348). -/
def execPool (n : Fin 8) (s : State) : Host.Outcome State Fault Refusal := .next (s.motRun n 3 poolOp)

/-- POOL_CLEAR (R345). -/
def execPoolClear (n : Fin 8) (s : State) : Host.Outcome State Fault Refusal :=
  .next (s.motRun n 4 fun s w => ⟨s.clearPool (mContext w), 0, 0, none, some 120⟩)

/-- The counts of a job (R361). -/
def motCounts (s : State) (status : Nat) : State := s.count .motCountPoolFaults (b2n ([0x1A, 0x1B, 0x1C].contains status))

/-- MOT_JOB_COMPLETE (R335, R336, R361). -/
def execMotJobComplete (n : Fin 8) (s : State) : Host.Outcome State Fault Refusal :=
  .next (s.jobComplete .mot n (fun s w => s.motVerdict (s.fld .motRingHeadHead [n]) w) (fun _ t => mBody 0 0xFFFFFFFF t) motCounts)

end Sys2Proof.Machine
end

