-- ==== Sys2Proof/Machine/Shelf.lean ====
section
/-! DEFINITION. Memory shelves: attach, detach, deadlines and losses (R257 to R261, R268 to R270, R522). -/

namespace Sys2Proof.Machine

/-- The states of a shelf group (R269). -/
def shelfAbsent : Nat := 0
def shelfTraining : Nat := 1
def shelfAttachedSt : Nat := 2
def shelfLostSt : Nat := 3

def State.shelfState (s : State) (g : Nat) : Nat := s.fld .shelfStatusState [g]
def State.setShelfState (s : State) (g v : Nat) : State := s.setFld .shelfStatusState v [g]

/-- No transaction of the group is outstanding any more. -/
def State.shelfClear (s : State) (g : Nat) : State := s.setShelf g { s.shelf g with txns := [] }

/-- SHELF_ATTACH (R258, R268). -/
def execShelfAttach (g : Fin 2) (s : State) : Host.Outcome State Fault Refusal :=
  .next (s.hostWriteAt (RegId.addr .shelfCtrl [g]) fun s =>
    if s.shelfState g = shelfAbsent ∨ s.shelfState g = shelfLostSt then (s.shelfClear g).setShelfState g shelfTraining else s)

/-- SHELF_ATTACHED (R258): at a station frame boundary; the size is at most 4,096 GiB. -/
def execShelfAttached (g : Fin 2) (sizeGiB : BitVec 13) (engines : BitVec 3) (s : State) : Host.Outcome State Fault Refusal :=
  .next (if s.station.boundary ∧ s.shelfState g = shelfTraining ∧ sizeGiB.toNat ≤ 4096 then
      let s := (s.setFld .shelfStatusSize sizeGiB.toNat [g]).setFld .shelfStatusEnginesUp engines.toNat [g]
      s.setShelfState g shelfAttachedSt
    else s)

/-- SHELF_DETACH (R260, R268). -/
def execShelfDetach (g : Fin 2) (s : State) : Host.Outcome State Fault Refusal :=
  .next (s.hostWriteAt (RegId.addr .shelfCtrl [g]) fun s =>
    if s.shelfState g = shelfAttachedSt then s.raise .shelfStatusDetachPending [g] else s)

/-- The group has no shelf: its status clears but for the W1C flag, and the module keeps none of its bytes (R260). -/
def State.shelfGone (s : State) (g : Nat) : State :=
  let s := (s.setShelfState g shelfAbsent).setFld .shelfStatusDetachPending 0 [g]
  let s := (s.setFld .shelfStatusSize 0 [g]).setFld .shelfStatusEnginesUp 0 [g]
  { s with mem := s.mem.filter fun e => shelfWindow e.1 != some g }

/-- SHELF_PARK (R260): at a station frame boundary. -/
def execShelfPark (g : Fin 2) (s : State) : Host.Outcome State Fault Refusal :=
  .next (if s.station.boundary ∧ s.flag .shelfStatusDetachPending [g] ∧ (s.shelf g).txns.isEmpty then s.shelfGone g else s)

/-- SHELF_DEADLINE (R259): what has arrived is delivered, the rest is late. -/
def execShelfDeadline (g : Fin 2) (txn : Nat) (arrived : Bool) (s : State) : Host.Outcome State Fault Refusal :=
  .next (
    let v := s.shelf g
    let due := fun t : ShelfTxn => t.id == txn && !t.late
    s.setShelf g { v with txns := if arrived then dropFirst due v.txns else updFirst due (fun t => { t with late := true }) v.txns })

/-- The command that issued a transaction loses its freeze-timing flag (R259, R261). -/
def State.clearIssuer (s : State) (t : ShelfTxn) : State :=
  match t.owner with
  | some (p, _) => match (s.cell p).cmd with
    | some m => s.clearEntryTiming m.queue m.index
    | none => s
  | none => s

/-- A late transaction completes (R259). -/
def State.shelfLate (s : State) (g : Nat) (t : ShelfTxn) : State :=
  let v := s.shelf g
  ((s.setShelf g { v with txns := dropFirst (fun x => x.id == t.id) v.txns }).count .shelfCountLate 1 [g]).clearIssuer t

/-- SHELF_LATE_COMPLETION (R259): recorded; a replay takes late completions from its log (R414, R417). -/
def execShelfLateCompletion (g : Fin 2) (txn : Nat) (cycles : BitVec 32) (s : State) : Host.Outcome State Fault Refusal :=
  .next (match (s.shelf g).txns.find? fun t => t.id == txn && t.late with
    | some t => if s.replaying then s else (s.rrLog 7 g cycles.toNat 0 0).shelfLate g t
    | none => s)

/-- The DMAs to which a group owes transactions end with what has been delivered, and without their tally (R259). -/
def State.shelfDropDmas (s : State) (g : Nat) : State :=
  allCells.foldl (fun s p =>
    let gone := (s.cell p).dmas.filter fun d => d.groups.contains g && (s.shelf g).txns.any fun t => t.owner == some (p, d.id)
    gone.foldl (fun s d =>
      ((s.dmaPartial p d).onCell p fun c => { c with dmas := dropFirst (fun x => x.id == d.id) c.dmas }).finish p d.id) s) s

/-- The group is lost (R259, R261). -/
def State.shelfLose (s : State) (g : Nat) : State :=
  let s := (s.shelfDropDmas g).shelfClear g
  (s.setShelfState g shelfLostSt).setFld .shelfStatusDetachPending 0 [g]

/-- SHELF_LOST (R259). -/
def execShelfLost (g : Fin 2) (s : State) : Host.Outcome State Fault Refusal :=
  .next (if s.shelfState g = shelfAttachedSt ∧ ((s.shelf g).txns.any (·.late)) then s.shelfLose g else s)

/-- SHELF_ENGINE_FAIL (R261): commands with transactions outstanding no longer run to their timing. -/
def execShelfEngineFail (g : Fin 2) (e : Fin 3) (s : State) : Host.Outcome State Fault Refusal :=
  .next (if s.shelfState g = shelfAttachedSt then
      let up := s.fld .shelfStatusEnginesUp [g]
      let left := if bitOf up e then up - 2 ^ (e : Nat) else up
      let s := s.setFld .shelfStatusEnginesUp left [g]
      if left = 0 then s.shelfLose g else (s.shelf g).txns.foldl State.clearIssuer s
    else s)

end Sys2Proof.Machine
end

