-- ==== Sys2Proof/Machine/Stash.lean ====
section
/-! DEFINITION. The capacitor bank and the service stash (R447, R505 to R508, R519, R520, R575). -/

namespace Sys2Proof.Machine

/-! The bank (R506, R507, R520). -/

/-- Twice E_u in units of 0.01 mF × mV²: C_cal × (V² − 16²). -/
def bankCharge (ccal mV : Nat) : Nat := ccal * (mV * mV - 256000000)

/-- PWR_HOLDUP shows E_u in units of 0.01 J (R506, R520). -/
def State.showBank (s : State) : State :=
  let e := bankCharge (s.fld .pwrHoldupCcal) s.power.bank / 2000000000
  s.setFld .pwrHoldupEnergy (Nat.min 65535 e)

/-- The bank's voltage is measured. -/
def State.measureBank (s : State) (mV : Nat) : State := ({ s with power := { s.power with bank := mV } } : State).showBank

/-- A session of n pages may open (R507): E_u − 2 J is at least 2 × (0.5 J + 0.05 J × n). -/
def State.sessionFits (s : State) (n : Nat) : Bool :=
  decide (600000000000 + 20000000000 * n ≤ bankCharge (s.fld .pwrHoldupCcal) s.power.bank)

/-! Sessions (R447, R506, R507). -/

/-- The stash's size (R506). -/
def stashSize : Nat := 0x4000000

/-- The plans with a new one; an identifier that is held always names what it names (R583). -/
def addPlan {α : Type} (l : List (Nat × α)) (id : Nat) (v : α) : List (Nat × α) :=
  if l.any (·.1 == id) then l else l ++ [(id, v)]

/-- A power plan keeps the limits of R494: a cap of at most 2,400 W, thresholds of at most 95 °C and 105 °C. -/
def powerPlanOk (cap warn trip : Nat) : Bool := decide (cap ≤ 2400) && decide (warn ≤ 95) && decide (trip ≤ 105)

def partReset (_ : Nat) : List Byte := []

/-- Part k of n of a firmware image: once no part is missing the image is whole (R575). -/
def StashSt.addPart (v : StashSt) (k n : Nat) (bs : List Byte) : StashSt :=
  let parts := tabSet partReset v.parts k bs
  if (List.range n).all fun i => i == k || !(tabGet partReset parts i).isEmpty then
    { v with firmware := (List.range n).flatMap (tabGet partReset parts), parts := [] }
  else { v with parts := parts }

/-- The stash after a write (R494, R506). -/
def StashSt.apply (v : StashSt) : StashWrite → StashSt
  | .pages p0 bs => { v with bytes := tabWrite v.bytes (4096 * p0) (bs.take (stashSize - 4096 * p0)) }
  | .clockPlan id mhz => { v with clockPlans := addPlan v.clockPlans id mhz }
  | .powerPlan id cap warn trip => if powerPlanOk cap warn trip then { v with powerPlans := addPlan v.powerPlans id (cap, warn, trip) } else v
  | .image k n bs => v.addPart k n bs
  | .wear l => { v with wear := l.foldl (fun t e => tabSet countReset t e.1 e.2) v.wear }
  | .calibration c => { v with ccal := c }

/-- The fault records that wait go into the fault log with a session that opens (R505, R506; log entry 78). -/
def State.writeFaults (s : State) : State :=
  { s with stash := { s.stash with faults := s.stash.faults ++ s.power.faults }, power := { s.power with faults := [] } }

/-- A session of n pages (R507, R508): written, or refused, counted and kept to be tried again. With no input none opens. -/
def State.stashWrite (s : State) (n : Nat) (w : StashWrite) : State :=
  if s.power.input && s.sessionFits n then ({ s with stash := s.stash.apply w } : State).writeFaults
  else ({ s with stash := { s.stash with waiting := s.stash.waiting ++ [(n, w)] } } : State).count .pwrCountStashRefused 1

/-- STASH_SESSION (R507): n pages from page0, with the bank's voltage as measured. -/
def execStashSession (millivolts pages page0 : Nat) (data : List (BitVec 8)) (s : State) : Host.Outcome State Fault Refusal :=
  .next (if 1 ≤ pages ∧ pages ≤ 256 then
      (s.measureBank millivolts).stashWrite pages (.pages page0 (data.take (4096 * pages)))
    else s)

/-- STASH_RETRY (R507). -/
def execStashRetry (millivolts : Nat) (s : State) : Host.Outcome State Fault Refusal :=
  .next (match s.stash.waiting with
    | [] => s
    | (n, w) :: t => (({ s with stash := { s.stash with waiting := t } } : State).measureBank millivolts).stashWrite n w)

/-- The wear records of the modules in their sockets (R447, R506). -/
def State.wearRecords (s : State) : List (Nat × Nat) :=
  ((List.range 16).filter fun m => s.lasState m != lasAbsent).map fun m => (s.fld .lasSerialSerial [m], s.fld .lasWearWear [m])

/-- C_cal is measured, and the bank calibration goes to the stash (R506, R507). -/
def State.setCcal (s : State) (c : Nat) : State :=
  (((s.setFld .pwrHoldupCcal c).setFld .pwrStatusHoldupWorn (b2n (decide (c < 1200)))).showBank).stashWrite 1 (.calibration c)

/-- WEAR_STASH_WRITE (R447, R507): a session of one page. The bank's voltage that the supervisor measures is a free value (log entry 78). -/
def execWearStashWrite (s : State) : Host.Outcome State Fault Refusal :=
  .next ((s.draw.2.measureBank s.draw.1.toNat).stashWrite 1 (.wear s.wearRecords))

/-- The bytes of a session of 256 pages (R507). -/
def sessionBytes : Nat := 0x100000

/-- The sessions that an item takes, each with its pages: an image of more than 256 pages is written in several (R507). -/
def itemSessions : StashItem → List (Nat × StashWrite)
  | .supervisor image =>
    let n := Nat.max 1 (ceilDiv image.length sessionBytes)
    (List.range n).map fun k =>
      let bs := (image.drop (sessionBytes * k)).take sessionBytes
      (Nat.max 1 (ceilDiv bs.length 4096), .image k n bs)
  | .clockPlan id mhz => [(1, .clockPlan id.toNat mhz)]
  | .powerPlan id cap warn trip => [(1, .powerPlan id.toNat cap warn trip)]

/-- A new image leaves nothing of one that was not whole: neither its parts nor its sessions that wait (log entry 78). -/
def StashSt.beginItem (v : StashSt) : StashItem → StashSt
  | .supervisor _ => { v with parts := [], waiting := v.waiting.filter fun e => match e.2 with | .image _ _ _ => false | _ => true }
  | _ => v

/-- PLDM_FIRMWARE_UPDATE (R575): the item's sessions in order. -/
def execPldmFirmwareUpdate (update : StashUpdate) (s : State) : Host.Outcome State Fault Refusal :=
  .next ((itemSessions update.item).foldl (fun s w => s.stashWrite w.1 w.2)
    (({ s with stash := s.stash.beginItem update.item } : State).measureBank update.millivolts))

end Sys2Proof.Machine
end

