-- ==== Sys2Proof/Machine/Power.lean ====
section
/-! DEFINITION. The supervisor: the power-state ladder, plans, sensors, protective descent, shutdown, reset and bring-up (R473 to R475,
R494 to R505, R517 to R520, R530, R571, R573, R576, R577). -/

namespace Sys2Proof.Machine

/-- The ladder states (R497, R518). -/
def psFlow : Nat := 0
def psSlush : Nat := 1
def psFrost : Nat := 2
def psFirn : Nat := 3
def psGlacier : Nat := 4

def State.psNow (s : State) : Nat := s.fld .pwrStateCurrent
def State.psTarget (s : State) : Nat := s.fld .pwrStateTarget

/-- Where the module heads: a protective descent takes it to Slush or below, and it stays there until a request is accepted (R503). -/
def State.heading (s : State) : Nat :=
  if s.flag .pwrStateProtective || s.power.held then Nat.max psSlush s.psTarget else s.psTarget

/-- PWR_STATE.moving shows whether a move remains (R518). -/
def State.showMoving (s : State) : State := s.setFld .pwrStateMoving (b2n (s.heading != s.psNow))

/-- PWR_STATE.current changes (R518); in Flow the doorbells taken below it arrive (R499). -/
def State.setPs (s : State) (v : Nat) : State :=
  let s := (s.setFld .pwrStateCurrent v).showMoving
  if v = psFlow then s.lateDoorbells else s

/-- A PLDM event (R502, R503, R504, R571, R573, R575): 1 over_power, 2 temp_warn, 3 protective descent, 4 shutdown, 5 input below 40 V,
6 leak. The supervisor records it for its fault log, with uptime and boot count (R505; log entry 78). -/
def State.pldmEvent (s : State) (e : Nat) : State :=
  { s with power := { s.power with
      events := s.power.events ++ [e], faults := s.power.faults ++ [((s.reg .pwrUptime).toNat, (s.reg .pwrBoot).toNat, e)] } }

/-! Ready (R464, R473 to R475, R487). -/

/-- Ready sets: the mailbox may read its lines and trained ports report it (R442, R465, R475). -/
def State.becomeReady (s : State) : State :=
  if s.ready then s else
  let s := ((s.raise .hubReadyReady).alert 4).mboxFollow
  ((List.range 24).filter s.portUp).foldl State.sendReady s

/-- Ready clears (R442, R465, R475). -/
def State.clearReady (s : State) : State :=
  if !s.ready then s else
  let s := ((s.setFld .hubReadyReady 0).alert 4).mboxFollow
  ((List.range 24).filter s.portUp).foldl State.sendReady s

/-! Loss of state (R475, R496, R497, R504). -/

/-- A register that a reset and a power-down of the hub keep: the supervisor's, the island's mirror, the laser modules' and the cell
states that the stash holds. -/
def keptReg (off : Nat) : Bool :=
  (decide (0x100000 ≤ off) && decide (off < 0x200000)) || (decide (0x1500000 ≤ off) && decide (off < 0x1501000)) ||
    (decide (0x1200000 ≤ off) && decide (off < 0x1200400)) ||
    (decide (0x800000 ≤ off) && decide (off < 0x1000000) && decide (0x120000 ≤ off % 0x200000) && decide (off % 0x200000 < 0x120024))

/-- The module with every hub, cell and memory domain as after power-up. What stands outside them stays: the supervisor, the stash, the
island, the laser modules, the host's memory, and the output logs. -/
def State.hubLost (s : State) : State :=
  { State.reset with
    part := s.part, hclk := s.hclk, draws := s.draws, regs := s.regs.filter fun e => keptReg e.1
    host := s.host, power := { s.power with descent := false }, portOut := s.portOut, lasers := s.lasers, shutters := s.shutters
    station := { StationSt.empty with tclk := s.station.tclk }, mboxOut := s.mboxOut, mediaOut := s.mediaOut, boot := s.boot
    stash := s.stash, island := s.island, msix := s.msix, alerts := s.alerts, pending := s.pending, linkUp := s.linkUp }

/-- A register of the cells, which loses its value with slab logic (R496, R580). -/
def cellReg (off : Nat) : Bool := decide (0x800000 ≤ off) && decide (off < 0x1000000) && decide (off % 0x200000 < 0x120000)

/-- Hub store (R247). -/
def hubStoreAt (a : Nat) : Bool := decide (0x300080000000 ≤ a) && decide (a < 0x300086000000)

/-- What Firn loses (R496, R497): cell memory and stores, scale, fused and pattern tables, function table banks, hub store, table store,
pools, and what slab logic, the coding complex and the sequencers hold. -/
def State.firnLost (s : State) : State :=
  let s := { s with
    cells := [], mem := s.mem.filter fun e => !hubStoreAt e.1
    ftb0 := FtbBank.empty, ftb1 := FtbBank.empty, tableLoad := none, tables := [], kblocks := [], jobs := []
    seqs := [], remaps := [], regs := s.regs.filter fun e => !cellReg e.1 }
  let s := s.queues.foldl (fun s e => s.setStaged e.1 []) s
  allCtxs.foldl State.clearPool s

/-! Lasers and ports (R496, R498, R500). -/

/-- Every module that its state lights takes a bias; one that cross-feeds takes its own. -/
def State.biasLasers (s : State) (b : Option Nat) : State :=
  (List.range 16).foldl (fun s m =>
    if s.lasLit m then s.setBias m (match b with
      | some v => v
      | none => if s.lasState m = lasCross then s.crossBias m else 1000)
    else s) s

/-- The groups that are attached park their links and keep what they hold (R498). -/
def State.parkShelves (s : State) : State :=
  [0, 1].foldl (fun s g =>
    if s.shelfState g = shelfAttachedSt then
      let kept := (s.fld .shelfStatusSize [g], s.fld .shelfStatusEnginesUp [g])
      let s := (s.setShelfState g shelfAbsent).setShelf g { s.shelf g with parked := some kept, txns := [] }
      (s.setFld .shelfStatusEnginesUp 0 [g]).setFld .shelfStatusSize 0 [g]
    else s) s

/-- They become attached again (R500). -/
def State.unparkShelves (s : State) : State :=
  [0, 1].foldl (fun s g => match (s.shelf g).parked with
    | some (size, engines) =>
      let s := s.setShelf g { s.shelf g with parked := none }
      ((s.setFld .shelfStatusSize size [g]).setFld .shelfStatusEnginesUp engines [g]).setShelfState g shelfAttachedSt
    | none => s) s

/-! Plans (R1, R494, R495, R583). -/

/-- The grade's limit of CCLK in MHz (R1). -/
def cclkLimit : Grade → Nat
  | .evs9410 => 1600
  | .evs9408 => 1500

/-- The pending plans take effect, or are refused (R495). -/
def State.applyPlans (s : State) : State :=
  let c := s.fld .pwrClockPlanPendingId
  let s := if c = s.fld .pwrClockPlanPlanId then s
    else if s.stash.clockPlans.any (fun e => e.1 == c && decide (e.2 ≤ cclkLimit s.part.grade)) then s.setFld .pwrClockPlanPlanId c
    else s.raise .pwrStatusPlanRefused
  let p := s.fld .pwrPowerPlanPendingId
  if p = s.fld .pwrPowerPlanPlanId then s
  else if s.stash.powerPlans.any (fun e => e.1 == p) then s.setFld .pwrPowerPlanPlanId p
  else s.raise .pwrStatusPlanRefused

/-- Cap in W, warning and trip in °C of the power plan in force (R494). -/
def State.planLimits (s : State) : Nat × Nat × Nat :=
  match s.stash.powerPlans.find? fun e => e.1 == s.fld .pwrPowerPlanPlanId with
  | some e => e.2
  | none => (2400, 95, 105)

/-! Requests (R498, R503, R518, R571, R576). -/

/-- A request is refused (R503, R518, R571). -/
def State.targetRefused (s : State) (t : Nat) : Bool :=
  decide (4 < t) || (s.flag .pwrStateProtective && t == psFlow) || (!s.power.input && decide (t < s.psNow))

/-- An exit from Firn completes at the state that the module heads for, and ready sets with it (R500). -/
def State.finishExit (s : State) : State :=
  if s.boot.firn ∧ s.psNow ≤ s.heading then ({ s with boot := { s.boot with firn := false } } : State).becomeReady else s

/-- The supervisor takes a ladder request (R498, R503). -/
def State.requestState (s : State) (t : Nat) : State :=
  if s.targetRefused t then s.raise .pwrStateTargetRefused
  else (({ s with power := { s.power with held := false } } : State).setFld .pwrStateTarget t).showMoving.finishExit

/-- LADDER_REQUEST (R498, R576): in Glacier the host link is down, and only the sideband asks. -/
def execLadderRequest (src : LadderSource) (target : BitVec 3) (s : State) : Host.Outcome State Fault Refusal :=
  .next (if src = .register then
      s.hostWriteAt (RegId.addr .pwrState []) fun s => if s.psNow = psGlacier then s else s.requestState target.toNat
    else s.requestState target.toNat)

/-- PLDM_SET_STATE (R576). -/
def execPldmSetState (_bus : SidebandBus) (target : BitVec 3) (s : State) : Host.Outcome State Fault Refusal :=
  .next (s.requestState target.toNat)

/-! Moves (R498 to R500). -/

/-- Nothing of R498 keeps the module in Flow. -/
def State.quiet (s : State) : Bool := allCtxs.all (fun c => (s.ctx c).frames.isEmpty) && s.jobs.all (fun e => e.2.isNone)

/-- Below Slush the ports park, lasers go to keep-warm bias, and PTP's reference is lost with the media ports (R496, R498, R499). -/
def State.enterFrost (s : State) : State :=
  let s := ((s.setPs psFrost).biasLasers (some Config.keepWarm)).lightPorts false
  if s.station.source = 1 then s.loseReference else s

def State.enterFirn (s : State) : State :=
  let s := (((s.setPs psFirn).biasLasers (some 0)).parkShelves.clearReady).firnLost
  { s with boot := { s.boot with firn := false } }

/-- Firn to Glacier, and the shutdown of R504: all volatile state is lost and the link is down (R497). -/
def State.enterGlacier (s : State) : State := { (s.biasLasers (some 0)).hubLost with
    linkUp := false, hclk := 0, boot := { s.boot with running := false, firn := false } }.setPs psGlacier

/-- No frame is in flight. -/
def State.noFrames (s : State) : Bool := allCtxs.all fun c => (s.ctx c).frames.isEmpty

/-- Everything still running is abandoned (R503, R504, R530): frames with their contexts, and commands of no frame with their queues, which halt
so that a flush gives back the credits. -/
def State.abandonAll (s : State) : State :=
  let s := allCtxs.foldl (fun s c => ((s.ctx c).frames.map (·.id)).foldl (fun s f => s.abandonFrame c f) s) s
  let s := (s.queues.map (·.1)).foldl (fun s q =>
    if (s.queue q).staged.any fun e => e.phase == .running && !e.abandoned then
      (s.abandonEntries q fun e => e.phase == .running).haltQueue q
    else s) s
  { s with jobs := [] }

/-- Flow to Slush (R498, R503): in a protective descent, from its boundary on, once no frame is in flight, with what still runs abandoned; else at a
station frame boundary once nothing runs, where a target below Flow was requested. -/
def State.leaveFlow (s : State) : State :=
  if s.power.descent then (if s.noFrames then s.abandonAll.setPs psSlush else s)
  else if psFlow < s.psTarget ∧ s.station.boundary ∧ s.quiet then s.setPs psSlush
  else s

/-- LADDER_MOVE_DOWN (R498, R503): `l12` says that the host has enabled PCIe L1.2. -/
def execLadderMoveDown (l12 : Bool) (s : State) : Host.Outcome State Fault Refusal :=
  .next (if s.heading ≤ s.psNow then s
    else if s.psNow = psFlow then s.leaveFlow
    else if s.psNow = psSlush then s.enterFrost
    else if s.psNow = psFrost then
      (if l12 && allCtxs.all (fun c => s.ctxState c == ctxIdle) then s.enterFirn else s)
    else s.enterGlacier)

/-- Frost to Slush (R500): ports relock from stored settings, and PTP's reference is there again. -/
def State.leaveFrost (s : State) : State :=
  let s := ((s.setPs psSlush).biasLasers none).lightPorts false
  if s.fld .sttStatusLock = lockHoldover ∧ s.station.source = 1 then s.setLock lockAcquiring else s

/-- Firn to Frost (R495, R500): plans, the task-1 check and then the lasers, shelves, and a source of station time that is acquired afresh. -/
def State.leaveFirn (s : State) (readings : List LaserReading) : State :=
  let s := (((s.safetyCheck readings).applyPlans.setPs psFrost).biasLasers (some Config.keepWarm)).unparkShelves
  let s := s.setLock (firstLock s.station.source)
  { s with boot := { s.boot with firn := true }, station := { s.station with counted := false } }

/-- A wake from Glacier starts bring-up and moves the module one state up (R495, R498, R501), towards Flow where no request has named a state; under
a protective descent the module stays below Flow (R503). -/
def State.wakeUp (s : State) : State :=
  if s.psNow = psGlacier ∧ s.power.input then
    let s := s.applyPlans
    let t := if s.flag .pwrStateProtective then psSlush else psFlow
    let s : State := { s with power := { s.power with held := false } }
    let s := (if s.psTarget = psGlacier then s.setFld .pwrStateTarget t else s).setPs psFirn
    { s with boot := { s.boot with running := true, wake := true }, linkUp := true }
  else s

/-- LADDER_MOVE_UP (R498, R500, R501): one state; `readings` are what the task-1 check of an exit from Firn finds. While bring-up runs, its stages
light the lasers and start the ports. -/
def execLadderMoveUp (readings : List LaserReading) (s : State) : Host.Outcome State Fault Refusal :=
  .next (if s.psNow ≤ s.heading then s.finishExit
    else if s.boot.running && decide (s.psNow < psGlacier) then s.setPs (s.psNow - 1)
    else if s.psNow = psSlush then (s.setPs psFlow).finishExit
    else if s.psNow = psFrost then s.leaveFrost.finishExit
    else if s.psNow = psFirn then (s.leaveFirn readings).finishExit
    else s.wakeUp)

/-- FIRN_REQUEST_TIMEOUT (R498). -/
def execFirnRequestTimeout (s : State) : Host.Outcome State Fault Refusal :=
  .next (if s.psNow = psFrost ∧ psFrost < s.psTarget then
      ((s.raise .pwrStateTargetRefused).setFld .pwrStateTarget psFrost).setFld .pwrStateMoving 0
    else s)

/-- The TAP returns to Test-Logic-Reset when PERST# deasserts (R577). -/
def State.releasePerst (s : State) : State :=
  { s with boot := { s.boot with perst := false }, power := { s.power with jtag := none } }

/-- GLACIER_WAKE (R501). -/
def execGlacierWake (src : WakeSource) (s : State) : Host.Outcome State Fault Refusal :=
  .next ((if src = .perst then s.releasePerst else s).wakeUp)

/-! Sensors and the protective descent (R502, R503, R571, R573). -/

/-- A protective descent begins (R503). -/
def State.protect (s : State) : State :=
  if s.flag .pwrStateProtective then s
  else ((({ s with power := { s.power with held := true } } : State).raise .pwrStateProtective).showMoving).pldmEvent 3

/-- A flag of PWR_STATUS sets, with its event when it was clear (R502). -/
def State.raiseEvent (s : State) (f : Fld) (e : Nat) : State := if s.flag f then s else (s.raise f).pldmEvent e

/-- The input lies between 38 V and 40 V (R571). -/
def lowInput (v : Nat) : Bool := decide (152 ≤ v) && decide (v < 160)

/-- SENSOR_SAMPLE (R502, R503, R571): volts in units of 0.25 V, powers in W, one temperature per die in °C. -/
def execSensorSample (volts power avg1ms avg100ms : Nat) (dies : List Nat) (s : State) : Host.Outcome State Fault Refusal :=
  .next (
    let lim := s.planLimits
    let hot := dies.foldl Nat.max 0
    let low := lowInput volts && !lowInput (s.fld .pwrSenseVoltage)
    let s := (s.setFld .pwrSensePower (Nat.min 4095 power)).setFld .pwrSenseTemperature (Nat.min 255 hot)
    let s := s.setFld .pwrSenseVoltage (Nat.min 255 volts)
    let s := if low then s.pldmEvent 5 else s
    let s := if lim.1 < avg1ms then s.raiseEvent .pwrStatusOverPower 1 else s
    let s := if lim.2.1 ≤ hot then s.raiseEvent .pwrStatusTempWarn 2 else s
    let s := if lim.2.2 ≤ hot then (s.raise .pwrStatusThermalTrip).protect else s
    if lim.1 < avg100ms then s.protect else s)

/-- DESCENT_TIMEOUT (R503). -/
def execDescentTimeout (s : State) : Host.Outcome State Fault Refusal :=
  .next (if s.power.descent ∧ s.psNow = psFlow then s.abandonAll.setPs psSlush else s)

/-- PROTECTIVE_CLEAR (R503, R573). -/
def execProtectiveClear (powerBelow tempBelow : Bool) (s : State) : Host.Outcome State Fault Refusal :=
  .next (if powerBelow ∧ tempBelow ∧ !s.power.wet then
      (({ s with power := { s.power with descent := false } } : State).setFld .pwrStateProtective 0).showMoving
    else s)

/-- LEAK_DETECTED (R573): `wet` is what the sensor reads. -/
def execLeakDetected (wet : Bool) (s : State) : Host.Outcome State Fault Refusal :=
  .next (
    let s := { s with power := { s.power with wet := wet } }
    if wet then (s.pldmEvent 6).protect else s)

/-! Shutdown and the input (R504, R508, R571). -/

/-- The code of a cause (R519). -/
def shutdownCode : ShutdownCause → Nat
  | .temperature => 1
  | .inputLow => 2
  | .inputHigh => 3

/-- HARDWARE_SHUTDOWN (R504, R508). -/
def execHardwareShutdown (cause : ShutdownCause) (s : State) : Host.Outcome State Fault Refusal :=
  .next (
    let s := s.enterGlacier
    let s := ((s.setFld .pwrStateTarget psGlacier).setFld .pwrStateMoving 0).setFld .pwrStatusLastShutdown (shutdownCode cause)
    let s := s.pldmEvent 4
    if cause = .temperature then s else ({ s with power := { s.power with input := false } } : State).islandDown)

/-- INPUT_POWER_RESTORED (R512, R571). -/
def execInputPowerRestored (s : State) : Host.Outcome State Fault Refusal :=
  .next (if s.power.input then s else ({ s with power := { s.power with input := true } } : State).islandUp)

/-! Power-up, reset and bring-up (R473 to R475, R505, R577). -/

/-- The supervisor's registers with their reset values, the plans apart (R505, R517 to R520). -/
def State.resetPwr (s : State) : State :=
  { s with regs := s.regs.filter fun e => !(decide (0x100008 ≤ e.1) && decide (e.1 < 0x200000)) }

/-- SUPERVISOR_POWER_UP (R505, R506, R571): `ccal` and `millivolts` are the bank's capacitance and voltage as measured. With the input absent
the module reads as Glacier. -/
def execSupervisorPowerUp (ccal : BitVec 16) (millivolts : Nat) (s : State) : Host.Outcome State Fault Refusal :=
  .next (
    let boot := (s.stash.boot + 1) % 2 ^ 32
    let s := (s.biasLasers (some 0)).hubLost.resetPwr
    let s := { s with stash := { s.stash with boot := boot, waiting := [] }, boot := ⟨true, false, false, false⟩, linkUp := true, hclk := 0
                      power := { PowerSt.empty with input := s.power.input, wet := s.power.wet, events := s.power.events } }
    let s := ((s.setReg .pwrBoot (BitVec.ofNat 64 boot)).measureBank millivolts).setCcal ccal.toNat
    if s.power.input then s else (s.setFld .pwrStateTarget psGlacier).setPs psGlacier)

/-- COLD_START (R473, R501, R577): in Glacier the deassertion of PERST# is a wake. -/
def execColdStart (s : State) : Host.Outcome State Fault Refusal :=
  .next (
    let s := s.releasePerst
    if s.psNow = psGlacier then s.wakeUp
    else if s.ready ∨ !s.power.input then s
    else { s with boot := { s.boot with running := true, wake := false } })

/-- The field and the failure code of a stage (R487). -/
def stageField : BootStage → Fld
  | .config => .hubReadyConfig
  | .memory => .hubReadyMemory
  | .cells => .hubReadyCells
  | .optics => .hubReadyOptics
def stageCode : BootStage → Nat
  | .config => 1
  | .memory => 2
  | .cells => 3
  | .optics => 4

/-- What a stage does: cells are cleared and table banks empty; lasers are lit and Shodo training begins (R473). -/
def State.runStage (s : State) : BootStage → State
  | .cells => { s with cells := [], ftb0 := FtbBank.empty, ftb1 := FtbBank.empty }
  | .optics => (s.biasLasers none).lightPorts true
  | _ => s

/-- The domains that a stage brings up are on (R473, R496): the hub for the configuration stage, and from Slush up all others. -/
def State.stageOn (s : State) (stage : BootStage) : Bool := stage == .config || decide (s.psNow ≤ psSlush)

/-- READY_SET (R473, R475, R487): a stage ends, and ready sets with the last one; `readings` are what the task-1 check finds that goes before
the lasers are lit. -/
def execReadySet (stage : BootStage) (passed : Bool) (readings : List LaserReading) (s : State) : Host.Outcome State Fault Refusal :=
  .next (if !s.boot.running || !s.stageOn stage then s
    else if passed then
      let s := if stage = .optics then s.safetyCheck readings else s
      let s := (((s.raise (stageField stage)).alert 4).runStage stage)
      if s.flag .hubReadyConfig ∧ s.flag .hubReadyMemory ∧ s.flag .hubReadyCells ∧ s.flag .hubReadyOptics then
        ({ s with boot := { s.boot with running := false } } : State).becomeReady
      else s
    else ({ s with boot := { s.boot with running := false } } : State).setFld .hubReadyFailStage (stageCode stage) |>.alert 4)

/-- PERST_ASSERTION (R475): device memory keeps its bytes (log entry 70). -/
def execPerstAssertion (s : State) : Host.Outcome State Fault Refusal :=
  .next { s.hubLost with mem := s.mem, boot := ⟨true, false, false, false⟩ }

/-- JTAG_INSTRUCTION (R577): anything else than boundary scan under PERST# in Glacier selects BYPASS. -/
def execJtagInstruction (code : BitVec 8) (s : State) : Host.Outcome State Fault Refusal :=
  .next { s with power := { s.power with jtag := if s.boot.perst ∧ s.psNow = psGlacier then some code else none } }

end Sys2Proof.Machine
end

