-- ==== Sys2Proof/Machine/RegView.lean ====
section
/-! DEFINITION. What a register reads as (R6, R11, R15, R98, R152, R154, R169, R209, R488, R549, R558 to R560, R564): its stored value, or for
some registers a view of what the module holds. -/

namespace Sys2Proof.Machine

/-- The physical cell of a register copy in a cell block. -/
def ixCell (ix : List Nat) : Nat := 9 * ix.headD 0 + ix.getD 1 0

/-- The state code of a bank (R98). -/
def BankState.code : BankState → Nat
  | .idle => 0
  | .accumulating => 1
  | .draining => 2
  | .held => 3

/-- CEL_ACC_STATUS (R98): the port reads the bank at the head of the drain queue. -/
def Cell.accStatus (c : Cell) : Nat :=
  32 * b2n (!c.drains.isEmpty) + 8 * c.bank1.state.code + 2 * c.bank0.state.code + c.active % 2

def Hold.code : Hold → Nat
  | .none => 0
  | .wait => 1
  | .fence => 2
  | .full => 3

def RunState.code : RunState → Nat
  | .idle => 0
  | .running => 1
  | .completing => 3

/-- CEL_SEQ_STATUS (R209). -/
def State.cseqView (s : State) (p : Nat) : Nat :=
  let r := s.run p
  let st := if s.halted p then 2 else r.state.code
  st * 2 ^ 30 + b2n r.half * 2 ^ 29 + r.hold.code * 2 ^ 16 + r.loops.length * 2 ^ 12 + r.bundle % 4096

/-- CEL_DBG_STATUS with the depths of the unit queues (R558). -/
def State.dbgView (s : State) (p : Nat) (w : DWord) : DWord :=
  let c := s.cell p
  w ||| BitVec.ofNat 64 (c.arrayQ.length * 2 ^ 22 + c.vectorQ.length * 2 ^ 18 + c.agQ.length * 2 ^ 14 + c.dmaQ.length * 2 ^ 10)

/-- CEL_DBG_LOOP (R549, R559): 0 while the cell is not halted. -/
def State.loopView (s : State) (p : Nat) : Nat :=
  if s.halted p then ((List.range 4).map fun i => ((s.run p).loops.getD i ⟨0, 0, 0, 0⟩).ctr % 2 ^ 13 * 2 ^ (16 * i)).sum else 0

/-- A word of the store window (R549, R557): the page of the selected store, 0 beyond its end and while the cell is not halted. -/
def State.storeView (s : State) (p i : Nat) : Nat :=
  let c := s.cell p
  let a := s.cfld .dbgCtrlPage p * 32768 + 4 * i
  if !s.halted p then 0
  else if s.cflag .dbgCtrlStoreSel p then
    (if a < 262144 then (tabGet (fun _ => 0) c.rstore (a / 64)).toNat / 2 ^ (8 * (a % 64)) % 2 ^ 32 else 0)
  else if a < 131072 then (tabGet (fun _ => 0) c.istore (a / 16)).toNat / 2 ^ (8 * (a % 16)) % 2 ^ 32 else 0

/-- A word of the tag counter store (R560). -/
def Cell.tagView (c : Cell) (i : Nat) : Nat :=
  let e := tabGet tagReset c.tags (i / 4)
  match i % 4 with
  | 0 => e.inv
  | 1 => e.sat
  | 2 => e.flu
  | _ => b2n e.collision * 2 ^ 31 + e.layer % 512 * 2 ^ 16 + e.opTag % 65536

def FtbState.code : FtbState → Nat
  | .empty => 0
  | .loading => 1
  | .ready => 2
  | .digestFault => 3

/-- CEL_FTB_BANK (R152). -/
def FtbBank.view (b : FtbBank) : Nat := b.state.code * 2 ^ 30 + b.pins % 128 * 2 ^ 16 + b.profile % 65536

/-- HST_TALLY_SUM (R488). -/
def State.tallySumView (s : State) (v : Nat) : Nat :=
  ((List.range 64).map fun j => s.fld .talStatusReached [64 * j + v] * 2 ^ j).sum

/-- The bits of a register that a read shows: WO fields and reserved bits read 0 (R11, R15). -/
def RegId.readMask (r : RegId) : DWord :=
  r.row.fields.foldl (fun m f => if f.acc = .wo then m else m ||| maskBits f.hi f.lo) 0

/-- The value of a register copy before the mask. -/
def State.regRaw (s : State) (r : RegId) (ix : List Nat) : DWord :=
  let n (v : Nat) : DWord := BitVec.ofNat 64 v
  match r with
  | .hubIdentity => n s.part.identity
  | .accStatus => n (s.cell (ixCell ix)).accStatus
  | .cseqStatus => n (s.cseqView (ixCell ix))
  | .dbgStatus => s.dbgView (ixCell ix) (s.reg r ix)
  | .dbgLoop => n (s.loopView (ixCell ix))
  | .ftbBank => n (s.ftb (ix.getD 2 0)).view
  | .srfEntry => (s.cell (ixCell ix)).srfWord (ix.getD 2 0 / 1024) (ix.getD 2 0 % 1024)
  | .fusedLo => fusedLo ((s.cell (ixCell ix)).fusedWord (ix.getD 2 0))
  | .fusedHi => fusedHi ((s.cell (ixCell ix)).fusedWord (ix.getD 2 0))
  | .tagStore => n ((s.cell (ixCell ix)).tagView (ix.getD 2 0))
  | .storeWindow => n (s.storeView (ixCell ix) (ix.getD 2 0))
  | .tallySum => n (s.tallySumView (ix.headD 0))
  | .dbgTime => n s.hclk
  | .traceBuf => n ((tabGet (fun _ => 0) s.trace.buffer (ix.headD 0 / 8)).toNat / 2 ^ (32 * (ix.headD 0 % 8)) % 2 ^ 32)
  | _ => s.reg r ix

/-- What a read of a register copy returns (R11, R15). -/
def State.regRead (s : State) (r : RegId) (ix : List Nat) : DWord := s.regRaw r ix &&& r.readMask

end Sys2Proof.Machine
end

