-- ==== Sys2Proof/Machine/Thaw.lean ====
section
/-! DEFINITION. Thaw windows and the switch of the numerics profile (R402 to R409, R420 to R425, R443, R499). -/

namespace Sys2Proof.Machine

/-- PROFILE_SWITCH (R409, R420, R421). -/
def execProfileSwitch (s : State) : Host.Outcome State Fault Refusal :=
  .next (if s.station.boundary ∧ s.flag .hubNumStatusSwitchPending ∧ s.fld .sttPositionFrame = s.fld .hubProfileSwitchFrame then
      let s := s.setFld .hubNumStatusSwitchPending 0
      let p := s.fld .hubProfilePendingId
      if (s.profileBank p).isSome then s.setFld .hubProfileActiveId p else s.raise .hubNumStatusSwitchRefused
    else s)

/-! Configuration (R402, R422, R423). -/

def thawRegOf : ThawReg → RegId
  | .cfg => .thawCfg
  | .pos => .thawPos
  | .len => .thawLen

/-- A target lies outside its range (R402). -/
def targetBad (task target : Nat) : Bool :=
  (task == 3 && decide (32 ≤ target)) || (task == 4 && decide (2 ≤ target)) || (task == 5 && decide (4 ≤ target))

/-- THAW_CFG_WRITE (R422). -/
def execThawCfgWrite (n : Fin 16) (reg : ThawReg) (val : BitVec 32) (s : State) : Host.Outcome State Fault Refusal :=
  .next (s.hostWriteAt ((thawRegOf reg).addr [n]) fun s =>
    let v := val.toNat
    if (n : Nat) < 2 ∨ (reg = .cfg ∧ bitOf v 31 ∧ (bitsOf v 27 20 = 0 ∨ targetBad (bitsOf v 30 28) (bitsOf v 11 0))) then
      s.raise .thawStatCfgRefused [n]
    else s.writeRw (thawRegOf reg) [n] (val.setWidth 64))

/-! Units (R402, R403, R407). -/

def State.setThaw (s : State) (n : Nat) (v : ThawSt) : State := { s with thaw := tabSet thawReset s.thaw n v }

/-- Foreground work runs or waits on logical cell l (R403). -/
def State.cellUsed (s : State) (l : Nat) : Bool :=
  (match s.cellOf l with
    | some p => (s.cell p).cmd.isSome || (s.cell p).loaded.isSome
    | none => false) ||
    s.queues.any fun v => v.2.staged.any fun e => !e.past && e.kind == 1 && bitOf (s.waitMask e) l

/-- An engine's calibration path is in foreground use (R403, R443): a segment is due, a handover is under way, or its port relocks. -/
def State.pathUsed (s : State) (e : Nat) : Bool :=
  s.lasState (primaryOf e) == lasHanding || ((s.laser (primaryOf e)).takeUp && !s.flag .lasCtrlHold [primaryOf e]) ||
    (decide (e < 24) && (s.portState e == portTraining || (s.sendChans e).any s.segReady)) ||
    (decide (24 ≤ e) && decide (e < 30) && !(s.shelf ((e - 24) / 3)).txns.isEmpty)

/-- A unit that a deferrable window claims is in foreground use (R402, R403). -/
def State.claimsUsed (s : State) (task target : Nat) : Bool :=
  if task = 3 then s.pathUsed target
  else if task = 4 then !(s.shelf target).txns.isEmpty
  else if task = 5 then s.remaps.any fun r => r.spare / 9 == target
  else if task = 6 then (List.range 32).any fun l => s.ctxHas (s.qCtx target) l && s.cellUsed l
  else false

/-- Two windows claim one unit (R402): the same task on the same unit, or maintenance frames whose cells meet. -/
def State.claimsMeet (s : State) (n m : Nat) : Bool :=
  s.thawTask n == s.thawTask m &&
    (if s.thawTask n = 6 then
      s.ctxMeet (s.qCtx (s.fld .thawCfgTarget [n])) (s.qCtx (s.fld .thawCfgTarget [m]))
    else decide (s.thawTask n = 7 ∨ s.thawTask n ≤ 2) || s.fld .thawCfgTarget [n] == s.fld .thawCfgTarget [m])

/-- An entry opens a window in this frame (R402, R423). -/
def State.thawDue (s : State) (n : Nat) : Bool :=
  decide (n < 2) || (s.flag .thawCfgEnable [n] &&
    s.fld .sttPositionFrame % (s.fld .thawCfgPeriodM1 [n] + 1) == s.fld .thawLenPhase [n] % (s.fld .thawCfgPeriodM1 [n] + 1))

/-- The first and last HCLK cycle of a window from the frame start; a forced one opens at line 0 and subline tick 0 (R405). -/
def State.thawSpan (s : State) (n : Nat) : Nat × Nat :=
  let line := s.fld .thawPosLine [n]
  let tick := if s.thawForced n then 0 else (if line = 0 then 0 else s.station.lineStart line) + s.fld .thawPosSubline [n]
  (5 * tick, 5 * tick + s.fld .thawLenLength [n])

/-- A window of a lower entry that runs, or is still to come in this frame, claims the unit with overlapping lengths (R407). -/
def State.thawYields (s : State) (n : Nat) : Bool :=
  (List.range n).any fun m => s.claimsMeet n m &&
    (s.thawRuns m || ((s.thawDue m || s.thawForced m) && !s.thawCame m && decide (2 ≤ m) &&
      decide ((s.thawSpan n).1 < (s.thawSpan m).2) && decide ((s.thawSpan m).1 < (s.thawSpan n).2)))

/-! Opening (R402 to R407, R499). -/

/-- A window is deferred or aborted (R403, R404); at max_defer the next one is forced (R405). -/
def State.deferThaw (s : State) (n : Nat) : State :=
  let d := Nat.min 255 (s.fld .thawStatDeferCount [n] + 1)
  let s := (s.count .thawCountDeferred 1).setFld .thawStatOutcome 2 [n]
  let s := (s.setFld .thawStatDeferCount d [n]).setFld .thawStatRunning 0 [n]
  s.setThaw n { s.thawEntry n with force := decide (s.fld .thawCfgMaxDefer [n] ≤ d), work := ThawSt.noWork }

/-- Task 6 admits its queue as one frame of its context (R402), whose ingress it leaves alone. -/
def State.takeMaintenance (s : State) (n : Nat) : State :=
  let q := s.fld .thawCfgTarget [n]
  let c := s.qCtx q
  if s.ctxState c = ctxActive ∧ s.qEnabled q ∧ s.flag .queCfgAdmitMode [q] ∧ s.fld .queTailTail [q] ≠ (s.queue q).admitted then
    let id := (s.ctx c).nextFrame
    let s := s.takeFrame c [(q, s.fld .queTailTail [q])] true ((s.ing c).next + 2)
    s.setThaw n { s.thawEntry n with frame := some id }
  else s

/-- Commands that could have started in the state before and now wait for a maintenance frame cost their frames the flag (R404, R405). -/
def State.clearStopped (s before : State) : State :=
  s.queues.foldl (fun s v => match s.nextOf v.1 with
    | some e => if before.mayStart v.1 e && s.maintained v.1 e.frame then s.clearEntryTiming v.1 e.index else s
    | none => s) s

/-- A window opens. -/
def State.openThaw (s : State) (n : Nat) (work : ThawWork) (forced : Bool) : State :=
  let s := s.raise .thawStatRunning [n]
  let s := s.setThaw n { s.thawEntry n with force := forced, frame := none, work := work }
  let s := if forced then s.count .thawCountForced 1 else s
  if s.thawTask n = 6 then (s.takeMaintenance n).clearStopped s else s

/-- The ladder state lets a window of a task open (R499). -/
def State.thawAllowed (s : State) (task : Nat) : Bool :=
  if task = 1 then (List.range 16).any fun m => s.lasLit m && s.fld .pwrStateCurrent ≤ 2
  else if task = 2 then decide (s.fld .pwrStateCurrent ≤ 2)
  else s.inFlow

/-- An entry comes to its window of this station frame. -/
def State.cameThaw (s : State) (n : Nat) : State := s.setThaw n { s.thawEntry n with last := some (s.fld .sttPositionFrame) }

/-- A window of an entry comes to its position, or to the boundary that forces it, once in a station frame (R402, R403, R405 to R407). -/
def State.startThaw (s : State) (n : Nat) (work : ThawWork) (forced : Bool) : State :=
  let task := s.thawTask n
  let yields := s.thawYields n
  let s := s.cameThaw n
  if decide (3 ≤ task) && ((!forced && s.claimsUsed task (s.fld .thawCfgTarget [n])) || yields) then
    (s.rrLog 5 n 1 0 0).deferThaw n
  else ((s.rrLog 5 n (if forced then 2 else 0) 0 0).openThaw n work forced).freshTries

/-- The station position is that of an entry (R402, R423). -/
def State.thawHere (s : State) (n : Nat) : Bool := s.atPosition (s.fld .thawPosLine [n]) (s.fld .thawPosSubline [n])

/-- THAW_WINDOW_OPEN (R402, R403, R406, R407): a replay takes it from its log (R417); an entry to be forced waits for its boundary. -/
def execThawWindowOpen (n : Fin 16) (work : ThawWork) (s : State) : Host.Outcome State Fault Refusal :=
  .next (if s.thawDue n && s.thawHere n && !s.thawCame n && !s.thawRuns n && s.thawAllowed (s.thawTask n) && !s.replaying &&
        !(s.thawEntry n).force then
      s.startThaw n work false
    else s)

/-- A cell that a task-6 entry claims runs a command (R405). -/
def State.claimRuns (s : State) (n : Nat) : Bool :=
  s.thawTask n == 6 && (List.range 32).any fun l => s.ctxHas (s.qCtx (s.fld .thawCfgTarget [n])) l &&
    match s.cellOf l with
    | some p => (s.cell p).cmd.isSome
    | none => false

/-- THAW_WINDOW_FORCED (R405): at the boundary after the deferral, and for task 6 once the claimed cells have ended their commands. -/
def execThawWindowForced (n : Fin 16) (work : ThawWork) (s : State) : Host.Outcome State Fault Refusal :=
  .next (if s.thawForced n && !s.thawCame n && (s.station.boundary || s.thawTask n == 6) && !s.thawRuns n && s.inFlow && !s.replaying && !s.claimRuns n then
      s.startThaw n work true
    else s)

/-- THAW_WINDOW_ABORT (R404, R406): tasks 3, 4, 5 and 7, where the window is not forced. -/
def execThawWindowAbort (n : Fin 16) (s : State) : Host.Outcome State Fault Refusal :=
  .next (if s.thawRuns n ∧ 3 ≤ s.thawTask n ∧ s.thawTask n ≠ 6 ∧ !(s.thawEntry n).force then s.deferThaw n else s)

/-! The work (R402, R443, R455, R506, R513, R540). -/

/-- Task 5 (R402, R540): a spare that fails is spare failed, and an untested one that passes is ready. -/
def State.testSpares (s : State) (slab : Nat) (failed : List Nat) : State :=
  ((List.range 9).map fun i => 9 * slab + i).foldl (fun s p =>
    let st := s.cfld .slbCellState p
    if st = slbSpareReady ∨ st = slbSpareUntested then
      s.csetFld .slbCellState (if failed.contains p then slbSpareFailed else slbSpareReady) p
    else s) s

/-- What a window has done when it ends. -/
def State.thawWorkDone (s : State) (task target : Nat) (w : ThawWork) : State :=
  if task = 1 then s.safetyCheck w.lasers
  else if task = 2 then s.snapshot
  else if task = 3 then s.biasCalibrate target w.biasPermil
  else if task = 5 then s.testSpares target w.failedSpares
  else if task = 7 then
    let s := s.telemetry w.lasers
    match w.ccal with
    | some c => (s.measureBank c.2).setCcal c.1.toNat
    | none => s
  else s

/-- THAW_WINDOW_END (R402, R405, R424). -/
def execThawWindowEnd (n : Fin 16) (s : State) : Host.Outcome State Fault Refusal :=
  .next (if s.thawRuns n then
      let v := s.thawEntry n
      let s := s.setFld .thawStatRunning 0 [n]
      let s := (s.setFld .thawStatOutcome (if v.force then 3 else 1) [n]).setFld .thawStatDeferCount 0 [n]
      let s := s.setThaw n { v with force := false, work := ThawSt.noWork }
      s.thawWorkDone (s.thawTask n) (s.fld .thawCfgTarget [n]) v.work
    else s)

end Sys2Proof.Machine
end

