-- ==== Sys2Proof/Machine/Replay.lean ====
section
/-! DEFINITION. Record and replay: modes, logged inputs and missed completions (R414 to R419, R427, R428). -/

namespace Sys2Proof.Machine

/-- STT_RR_STATUS.state (R428). -/
def rrOff : Nat := 0
def rrRecording : Nat := 1
def rrReplaying : Nat := 2
def rrWaiting : Nat := 3

/-- RR_CTRL_WRITE (R417, R427): a new mode waits for the boundary. -/
def execRrCtrlWrite (val : BitVec 32) (s : State) : Host.Outcome State Fault Refusal :=
  .next (s.hostWriteAt (RegId.addr .rrCtrl []) fun s =>
    let v := val.toNat
    let on := s.fld .rrStatusState ≠ rrOff
    let changes := bitsOf v 28 23 ≠ getBits (s.reg .rrCtrl) 28 23
    if bitsOf v 31 30 = 3 ∨ (on ∧ changes) then s
    else
      let s := s.setReg .rrCtrl (BitVec.ofNat 64 (bitsOf v 31 23 * 2 ^ 23))
      if s.fld .rrStatusState = rrOff ∧ bitsOf v 31 30 ≠ 0 then s.setFld .rrStatusState rrWaiting
      else if s.fld .rrStatusState = rrWaiting ∧ bitsOf v 31 30 = 0 then s.setFld .rrStatusState rrOff
      else s)

/-- The type of log record i (R415). -/
def State.rrType (s : State) (i : Nat) : Nat := s.rrField i 0 1

/-- A run begins at this boundary: cycle 0 (R417). -/
def State.rrBegin (s : State) (st : Nat) : State :=
  let s := { s with rr := { RrSt.empty with start := s.hclk, doorbells := s.rr.doorbells } }
  (s.setFld .rrStatusState st).setFld .rrStatusRecords 0

/-- The start record (R416). -/
def State.rrStart (s : State) : State :=
  let p := s.part
  let arg2 := s.fld .pwrClockPlanPlanId + 2 ^ 16 * s.fld .hubProfileActiveId + 2 ^ 40 * p.steppingMinor.toNat + 2 ^ 44 * p.steppingMajor.toNat +
    2 ^ 48 * (p.identity / 65536)
  s.rrLog 1 0 0 arg2 (s.fld .pwrPowerPlanPlanId)

/-- A replay is over (R417, R428): the end record is consumed where it has been reached. -/
def State.rrStop (s : State) : State := (s.count .rrStatusRecords (b2n s.rrEnd.isSome)).setFld .rrStatusState rrOff

/-- RR_MODE_START (R417): what waits for the station frame boundary. A recording that ends writes its end record, and a replay ends with the
log's. -/
def execRrModeStart (s : State) : Host.Outcome State Fault Refusal :=
  .next (
    let st := s.fld .rrStatusState
    let mode := s.fld .rrCtrlMode
    if st = rrOff ∨ !s.station.boundary then s
    else if st = rrRecording ∧ mode = 0 then (s.rrLog 0x0F 0 0 0 0).setFld .rrStatusState rrOff
    else if st = rrReplaying ∧ (mode = 0 ∨ (mode = 2 ∧ s.rrEnd.isSome)) then s.rrStop
    else if mode = 1 ∧ st ≠ rrRecording then (s.rrBegin rrRecording).rrStart
    else if mode = 2 ∧ st ≠ rrReplaying then
      let s := s.rrBegin rrReplaying
      if s.rrType 0 = 1 then ({ s with rr := { s.rr with next := 1 } } : State).count .rrStatusRecords 1 else s
    else s)

/-! Completions (R418). -/

/-- The first completion from record i on, among `n`, that has no match and whose cycle has passed. -/
def State.rrMissed (s : State) : Nat → Nat → Option Nat
  | 0, _ => none
  | n + 1, i =>
    if s.rrType i = 0x0F ∨ s.rrCycle ≤ s.rrField i 8 8 then none
    else if s.rrType i = 8 ∧ !s.rr.matched.contains i then some i
    else s.rrMissed n (i + 1)

/-- LOGGED_COMPLETION_MISSED (R418). -/
def execLoggedCompletionMissed (s : State) : Host.Outcome State Fault Refusal :=
  .next (if s.replaying then
      match s.rrMissed (2 ^ s.fld .rrCtrlLog2Size) 0 with
      | some i => s.diverge i
      | none => s
    else s)

/-! Logged inputs (R399, R416, R417). -/

/-- A record type that is an input (R417). -/
def rrInput (t : Nat) : Bool := (decide (2 ≤ t) && decide (t ≤ 7)) || t == 9

/-- The next input of the log from record i on, among `n`. -/
def State.rrNextInput (s : State) : Nat → Nat → Option Nat
  | 0, _ => none
  | n + 1, i => if s.rrType i = 0x0F then none else if rrInput (s.rrType i) then some i else s.rrNextInput n (i + 1)

/-- The admission records from i on of one context and cycle, among `n`: queue and tail of each (R416). -/
def State.rrAdmission (s : State) (c cycle : Nat) : Nat → Nat → List (Nat × Nat)
  | 0, _ => []
  | n + 1, i =>
    if s.rrType i = 2 ∧ s.rrField i 4 4 = c ∧ s.rrField i 8 8 = cycle then
      (s.rrField i 2 2 % 4096, s.rrField i 0x10 8 % 2 ^ 32) :: s.rrAdmission c cycle n (i + 1)
    else []

/-- Records from rr.next up to one, but for completions, which count when they are met (R418, R428). -/
def State.rrPassed (s : State) (upTo : Nat) : Nat :=
  ((List.range (upTo - s.rr.next)).filter fun i => s.rrType (s.rr.next + i) != 8).length

/-- The next record to look at, and the records consumed (R428). -/
def State.rrConsume (s : State) (upTo : Nat) : State :=
  ({ s with rr := { s.rr with next := upTo } } : State).count .rrStatusRecords (s.rrPassed upTo)

/-- The engine of a source code (R416). -/
def ringOf (src : Nat) : RingEngine := if src = 1 then .bce else if src = 2 then .kcx else .mot

/-- An input other than an admission is taken from record i (R416, R417). -/
def State.rrTake (s : State) (i : Nat) : State :=
  let arg0 := s.rrField i 2 2
  let arg1 := s.rrField i 4 4
  let arg2 := s.rrField i 0x10 8
  match s.rrType i with
  | 3 => s.ringDoorbell (arg0 % 4096) (arg2 % 2 ^ 32)
  | 4 => if arg1 = 2 then s.setTally (arg0 % 4096) arg2 else s.addTally (arg0 % 4096) arg2
  | 5 =>
    let n := arg0 % 16
    let s := s.cameThaw n
    if arg1 = 1 then s.deferThaw n else s.openThaw n ThawSt.noWork (arg1 == 2)
  | 6 => s.barrierArrive
  | 7 => match (s.shelf (arg0 % 2)).txns.find? (·.late) with
    | some t => s.shelfLate (arg0 % 2) t
    | none => s
  | 9 => s.writeRingTail (ringOf (arg0 / 4096)) (arg0 % 4096 % 16) (arg2 % 2 ^ 32)
  | _ => s

/-- REPLAY_LOGGED_INPUT (R417, R418): the next logged input, once its cycle has come; the records of one admission together, with their
ingress digest compared where the replay computes one. -/
def execReplayLoggedInput (s : State) : Host.Outcome State Fault Refusal :=
  .next (if s.replaying then
      match s.rrNextInput (2 ^ s.fld .rrCtrlLog2Size) s.rr.next with
      | some i =>
        if s.rrCycle < s.rrField i 8 8 then s
        else if s.rrType i = 2 then
          let c := s.rrField i 4 4 % 64
          let tails := s.rrAdmission (s.rrField i 4 4) (s.rrField i 8 8) (2 ^ s.fld .rrCtrlLog2Size) i
          let same := s.rrField i 0x18 8 = s.ingressDigest c ∨ !s.flag .rrCtrlIngressDigest
          let s := s.rrConsume (i + tails.length)
          let s := if s.ctxState c = ctxPending then s.reachPosition c else s
          (if same then s else s.diverge i).admissionAt c tails
        else (s.rrConsume (i + 1)).rrTake i
      | none => s
    else s)

end Sys2Proof.Machine
end

