-- ==== Sys2Proof/Machine/RegBus.lean ====
section
/-! DEFINITION. Host accesses to BAR0 and BAR2: the effect of a write on each register, 32-bit and 64-bit accesses, halves, reserved and
misaligned accesses, and the aperture (R11 to R17, R250, R255, R464, R471, R474, R578 to R582). -/

namespace Sys2Proof.Machine

/-- The state after a command that answers one, here a command that a register write stands for. -/
def State.after (s : State) (o : Host.Outcome State Fault Refusal) : State :=
  match o with
  | .next t => t
  | _ => s

/-- What happens where a condition holds. -/
def State.doIf (s : State) (b : Bool) (f : State → State) : State := if b then f s else s

/-! Writes that do more than store (R11). -/

/-- TRACE_CLEAR (R564): the buffer is empty, the index 0, and writing goes on. -/
def State.clearTrace (s : State) : State :=
  { (s.setReg .traceStatus 0) with trace := { s.trace with buffer := [], stopping := false } }

/-- A write of SEQ_CELL_OWNER (R213, R245): each field that it changes waits for its boundary, and a field written back to the owner in
force has nothing to wait for. -/
def State.writeOwners (s : State) (w : Nat) (v : DWord) : State :=
  (List.range 8).foldl (fun s k =>
    let new := getBits v (4 * k + 3) (4 * k)
    let old := getBits (s.reg .cellOwner [w]) (4 * k + 3) (4 * k)
    { s with owners := tabSet ownerReset s.owners (8 * w + k) (if new = old then .empty else ⟨some new, false⟩) }) s

/-- A write of an MSI-X vector control (R464, R578): a vector that is unmasked with its pending bit set fires. -/
def State.writeVector (s : State) (i : Nat) (v : DWord) : State :=
  let s := s.writeRw .msixCtrl [i] v
  let pba := s.reg .msixPba [i / 32]
  if !bitOf v.toNat 0 && bitOf pba.toNat (i % 32) then
    { (s.setReg .msixPba (putBits pba (i % 32) (i % 32) 0) [i / 32]) with msix := s.msix ++ [i] }
  else s

/-- A write of a ring's control register (R243): a flush before a resume. -/
def State.writeRingCtrl (s : State) (e : RingEngine) (i : Nat) (v : DWord) : State :=
  let n := Fin.ofNat 16 i
  (s.doIf (bitOf v.toNat 1) fun s => s.after (execRingFlush e n s)).doIf (bitOf v.toNat 0) fun s => s.after (execRingResume e n s)

/-- A write of CEL_DBG_CTRL (R543 to R546, R551, R557). -/
def State.writeDbgCtrl (s : State) (ix : List Nat) (v : DWord) : State :=
  let p := Fin.ofNat 36 (ixCell ix)
  let b := bitOf v.toNat
  let s := (s.writeRw .dbgCtrl ix v).doIf (b 28) fun s => s.after (execClearTags p s)
  let s := s.doIf (b 30) fun s => s.after (execCellResume p s)
  (s.doIf (b 29) fun s => s.after (execCellStep p s)).doIf (b 31) fun s => s.after (execCellHalt p s)

/-- A write of SEQ_CTX_CTRL (R362, R363, R370, R391). -/
def State.writeCtxCtrl (s : State) (i : Nat) (v : DWord) : State :=
  let c := Fin.ofNat 64 i
  let b := bitOf v.toNat
  let s := s.doIf (b 0) fun s => s.after (execCtxCreate c s)
  (s.doIf (b 1) fun s => s.after (execCtxRelease c s)).doIf (b 2) fun s => s.after (execCtxResume c s)

/-- The context registers that CTX_CFG_WRITE stores. -/
def ctxRegIx : RegId → List Nat → Option CtxReg
  | .ctxCfg, _ => some .cfg
  | .ctxAdmit, _ => some .admitAt
  | .ctxPeriod, _ => some .period
  | .ctxLoad, _ => some .load
  | .ctxCells, _ => some .cells
  | .ctxScope, _ => some .scope
  | .ctxFirst, _ => some .first
  | .ctxGuard, ix => some (if ix.getD 1 0 = 0 then .guard0 else if ix.getD 1 0 = 1 then .guard1 else .guard2)
  | _, _ => none

/-- The value of a register copy after a write, by the access codes alone, with the hardware events of the same cycle (R11, R12): a
hardware clear comes before the write, so a W1S set keeps its bit. -/
def State.storedValue (s : State) (r : RegId) (ix : List Nat) (v hwSet hwClear : DWord) : DWord :=
  r.written (s.reg r ix &&& ~~~ (hwClear &&& (r.mask .w1c ||| r.mask .w1s))) v hwSet

/-- A register of the MTR_ window, which no write reaches (R24, R513). -/
def RegId.islandOnly : RegId → Bool
  | .mtrSnap | .mtrReg | .mtrTotal | .mtrUptime | .mtrFw | .mtrStatus => true
  | _ => false

/-- A write of a whole register copy that reaches the register. -/
def State.regWrite (s : State) (r : RegId) (ix : List Nat) (v hwSet hwClear : DWord) : State :=
  let new := s.storedValue r ix v hwSet hwClear
  let plain (s : State) : State := s.setReg r new ix
  let lockedBy (b : Bool) : State := if b then s else plain s
  let i := ix.headD 0
  let w : BitVec 32 := v.setWidth 32
  let b := bitOf v.toNat
  match r with
  | .hubProfile => (plain s).raise .hubNumStatusSwitchPending
  | .pwrState =>
    let keep := (v &&& ~~~ r.mask .rw) ||| (s.reg r &&& r.mask .rw)
    let s := s.setReg r (s.storedValue r ix keep hwSet hwClear)
    s.after (execLadderRequest .register (BitVec.ofNat 3 (getBits v 31 29)) s)
  | .sttCtrl => s.after (execStationStep w s)
  | .thawCfg => s.after (execThawCfgWrite (Fin.ofNat 16 i) .cfg w s)
  | .thawPos => s.after (execThawCfgWrite (Fin.ofNat 16 i) .pos w s)
  | .thawLen => s.after (execThawCfgWrite (Fin.ofNat 16 i) .len w s)
  | .thawStat => if i < 2 then s.raise .thawStatCfgRefused [i] else plain s
  | .rrCtrl => s.after (execRrCtrlWrite w s)
  | .rrBase => lockedBy (s.fld .rrCtrlMode != 0)
  | .cellOwner => s.writeOwners i v
  | .fwCtrl => (s.doIf (b 31) fun s => s.after (execSeqFwLoad s)).doIf (b 30) fun s => s.after (execSeqFwSwitch s)
  | .ctxCtrl => s.writeCtxCtrl i v
  | .talValue => s.after (execTalValueWrite (Fin.ofNat 4096 i) ⟨w, 0, []⟩ s)
  | .talAdd => s.after (execTalAddWrite (Fin.ofNat 4096 i) ⟨w, 0, []⟩ s)
  | .talThresh => s.tallyChange i plain
  | .talCtrl => s.tallyChange i plain
  | .queBase => lockedBy (s.flag .queCfgEnable [i])
  | .queCfg => s.after (execQueCfgWrite (Fin.ofNat 4096 i) w s)
  | .queCtrl =>
    (s.doIf (b 1) fun s => s.after (execQueueFlush (Fin.ofNat 4096 i) s)).doIf (b 0) fun s =>
      s.after (execQueueResume (Fin.ofNat 4096 i) s)
  | .kcxRingBase => lockedBy (s.flag .kcxRingCfgEnable [i])
  | .bceRingBase => lockedBy (s.flag .bceRingCfgEnable [i])
  | .motRingBase => lockedBy (s.flag .motRingCfgEnable [i])
  | .kcxRingCfg => s.after (execRingCfgWrite .kcx (Fin.ofNat 16 i) w s)
  | .bceRingCfg => s.after (execRingCfgWrite .bce (Fin.ofNat 16 i) w s)
  | .motRingCfg => s.after (execRingCfgWrite .mot (Fin.ofNat 16 i) w s)
  | .kcxRingCtrl => s.writeRingCtrl .kcx i v
  | .bceRingCtrl => s.writeRingCtrl .bce i v
  | .motRingCtrl => s.writeRingCtrl .mot i v
  | .slbRemapCtrl => s.after (execCellRetire (Fin.ofNat 4 i) w s)
  | .chkInject => s.after (execChkInjectArm (Fin.ofNat 36 (ixCell ix)) w s)
  | .memCtrl => s.after (execMemClear (Fin.ofNat 36 (ixCell ix)) w s)
  | .dbgCtrl => s.writeDbgCtrl ix v
  | .srfEntry => s.after (execScaleWindowWrite (Fin.ofNat 36 (ixCell ix)) (Fin.ofNat 4096 (ix.getD 2 0)) v s)
  | .fusedLo => s.after (execFusedTableWrite (Fin.ofNat 36 (ixCell ix)) (Fin.ofNat 1024 (ix.getD 2 0)) false v s)
  | .fusedHi => s.after (execFusedTableWrite (Fin.ofNat 36 (ixCell ix)) (Fin.ofNat 1024 (ix.getD 2 0)) true v s)
  | .shelfCtrl =>
    (s.doIf (b 0) fun s => s.after (execShelfAttach (Fin.ofNat 2 i) s)).doIf (b 1) fun s => s.after (execShelfDetach (Fin.ofNat 2 i) s)
  | .portCtrl =>
    (s.doIf (b 0 != s.flag .portCtrlEnable [i]) fun s => s.after (execFabPortEnable (Fin.ofNat 24 i) (b 0) s)).doIf (b 1) fun s =>
      s.after (execPortRetrain (Fin.ofNat 24 i) s)
  | .chanCfg => s.after (execChannelEnable (Fin.ofNat 256 i) w s)
  | .chanBuf | .chanSeg | .chanTally =>
    if s.flag .chanCfgEnable [i] && new != s.reg r ix then s.raise .chanStatusCfgRefused [i] else plain s
  | .lasCtrl => (plain s).doIf (b 0) fun s => s.after (execLaserRemove (Fin.ofNat 16 i) s)
  | .mboxCfg => s.after (execMboxCfgWrite v s)
  | .mboxMap => s.after (execMboxMapWrite (Fin.ofNat 256 i) w s)
  | .outRing | .outRec | .outSpill | .outEgress => lockedBy (s.flag .outCfgEnable [i])
  | .outCfg =>
    let started := !s.flag .outCfgEnable [i]
    (plain s).doIf (b 31) fun s => if started then s.startEgress i else (s.showSpill i).egressRun i
  | .msixCtrl => s.writeVector i v
  | .strmCommit => s.after (execStreamCommit (Fin.ofNat 128 i) v s)
  | .strmLatch => if s.station.lines ≤ getBits v 15 0 then s.raise .mdpCountCfgRefused else plain s
  | .mtrSnap | .mtrReg | .mtrTotal | .mtrUptime | .mtrFw | .mtrStatus => s.countReserved true false (r.addr ix)
  | .dseqCtrl =>
    (s.doIf (b 30) fun s => s.after (execSeqResume (Fin.ofNat 8 i) s)).doIf (b 31) fun s => s.after (execSeqHalt (Fin.ofNat 8 i) .request s)
  | .traceCtrl => (plain s).doIf (b 28) State.clearTrace
  | .kcxRingTail => s.after (execKcxRingTail (Fin.ofNat 16 i) w s)
  | .bceRingTail => s.after (execBceRingTail (Fin.ofNat 8 i) w s)
  | .motRingTail => s.after (execMotRingTail (Fin.ofNat 8 i) w s)
  | r => match ctxRegIx r ix with
    | some c => s.after (execCtxCfgWrite (Fin.ofNat 64 i) c v s)
    | none => plain s

/-! Words of BAR0 (R13, R14, R16). -/

/-- What a word of BAR0 belongs to: a 32-bit register, a half of a 64-bit one, a doorbell, or reserved space. -/
inductive BarWord where
  | single (r : RegId) (ix : List Nat)
  | low (r : RegId) (ix : List Nat)
  | high (r : RegId) (ix : List Nat)
  | doorbell (q : Nat)
  | reserved
  deriving DecidableEq, Repr

/-- The word at an aligned offset (R218, R579 to R581). -/
def barWord (off : Nat) : BarWord :=
  if 0x2000000 ≤ off then
    (if off < 0x3000000 ∧ off % 0x1000 = 0 then .doorbell ((off - 0x2000000) / 0x1000) else .reserved)
  else match regAt off with
    | some (r, ix) => if r.row.wide then .low r ix else .single r ix
    | none => match regAt (off - 4) with
      | some (r, ix) => if r.row.wide && decide (4 ≤ off) then .high r ix else .reserved
      | none => .reserved

/-- The low and the high half of a register. -/
def lowHalf : DWord := 0xFFFFFFFF
def highHalf : DWord := 0xFFFFFFFF00000000

/-- The register at an offset is in reach: ready reads 1, or its block is open (R474). -/
def State.inReach (s : State) (off : Nat) : Bool := s.ready || hostOpen off

/-- What a host read of a register copy returns (R11, R474). -/
def State.regSeen (s : State) (r : RegId) (ix : List Nat) : DWord :=
  if s.inReach (r.addr ix) then s.regRead r ix else regReset (r.addr ix) &&& r.readMask

/-- A read clears the RC fields of the bits it reads, but for the events `late` that land in its cycle (R11, R12). -/
def State.readClears (s : State) (r : RegId) (ix : List Nat) (half late : DWord) : State :=
  let m := r.mask .rc &&& half
  if s.inReach (r.addr ix) && m != 0 then s.setReg r ((s.reg r ix &&& ~~~ m) ||| (late &&& m)) ix else s

def State.setLatch (s : State) (l : Option (Nat × BitVec 32)) : State := { s with bus := { s.bus with latch := l } }
def State.setHeld (s : State) (h : Option (Nat × BitVec 32)) : State := { s with bus := { s.bus with held := h } }

/-- The model's output port of the bus: what a read returned (log entry 5). -/
def State.answerRead (s : State) (bs : List Byte) : State := { s with bus := { s.bus with lastRead := bs } }

def lowOf (v : DWord) : BitVec 32 := v.setWidth 32
def highOf (v : DWord) : BitVec 32 := (v >>> 32).setWidth 32
def joinHalves (h l : BitVec 32) : DWord := h ++ l

/-- A 32-bit read (R11, R14, R16, R218): the word, and the state after. -/
def State.read32 (s : State) (off : Nat) (late : DWord) : BitVec 32 × State :=
  match barWord off with
  | .single r ix => (lowOf (s.regSeen r ix), (s.readClears r ix lowHalf late).setLatch none)
  | .low r ix =>
    (lowOf (s.regSeen r ix), (s.readClears r ix lowHalf late).setLatch (some (r.addr ix, highOf (s.regSeen r ix))))
  | .high r ix =>
    let h := match s.bus.latch with
      | some (a, h) => if a = r.addr ix then h else highOf (s.regSeen r ix)
      | none => highOf (s.regSeen r ix)
    (h, (s.readClears r ix highHalf late).setLatch none)
  | .doorbell _ | .reserved => (0, s.countReserved false false off)

/-- A write of a register copy that is in reach, or is discarded and counted (R474). -/
def State.reachWrite (s : State) (off : Nat) (f : State → State) : State :=
  if s.inReach off then f s else s.countReserved true false off

/-- A 32-bit write (R11, R14, R16, R218, R474). A high word with no low word held keeps the RW fields of the low word and writes 0 to the
others. -/
def State.write32 (s : State) (off : Nat) (v : BitVec 32) (hwSet hwClear : DWord) : State :=
  match barWord off with
  | .single r ix => match r with
    | .kcxRingTail | .bceRingTail | .motRingTail => s.dropHeld.regWrite r ix (v.setWidth 64) hwSet hwClear
    | _ => s.dropHeld.reachWrite off fun s => s.regWrite r ix (v.setWidth 64) hwSet hwClear
  | .low r ix =>
    if r.islandOnly then s.dropHeld.countReserved true false off
    else s.dropHeld.reachWrite off fun s => s.setHeld (some (r.addr ix, v))
  | .high r ix =>
    if r.islandOnly then s.dropHeld.countReserved true false off else
    let low := s.regRead r ix &&& r.mask .rw
    match s.bus.held with
    | some (a, l) =>
      if a = r.addr ix then (s.setHeld none).reachWrite off fun s => s.regWrite r ix (joinHalves v l) hwSet hwClear
      else s.dropHeld.reachWrite off fun s => s.regWrite r ix (joinHalves v (lowOf low)) hwSet hwClear
    | none => s.reachWrite off fun s => s.regWrite r ix (joinHalves v (lowOf low)) hwSet hwClear
  | .doorbell q => s.dropHeld.liveDoorbell q v.toNat
  | .reserved => s.dropHeld.countReserved true false off

/-- A 64-bit read (R13, R14). -/
def State.read64 (s : State) (off : Nat) (late : DWord) : DWord × State :=
  match barWord off with
  | .low r ix => (s.regSeen r ix, (s.readClears r ix (BitVec.allOnes 64) late).setLatch none)
  | _ =>
    let a := (s.setLatch none).read32 off (late &&& lowHalf)
    let b := a.2.read32 (off + 4) (late >>> 32)
    (joinHalves b.1 a.1, b.2.setLatch none)

/-- A 64-bit write (R13, R14). -/
def State.write64 (s : State) (off : Nat) (v hwSet hwClear : DWord) : State :=
  match barWord off with
  | .low r ix => s.dropHeld.reachWrite off fun s => s.regWrite r ix v hwSet hwClear
  | _ => (s.dropHeld.write32 off (lowOf v) (hwSet &&& lowHalf) (hwClear &&& lowHalf)).write32 (off + 4) (highOf v) (hwSet >>> 32)
    (hwClear >>> 32)

/-- The MSI-X table and its pending bits (R578). -/
def inMsix (off : Nat) : Bool := decide (0x1308000 ≤ off ∧ off < 0x1308810) || decide (0x1309000 ≤ off ∧ off < 0x1309014)

/-- An access of the wrong width or alignment (R17). In the MSI-X structures R17 does not apply and the manual states no result: a read is
a free value there. The read latch of R14 stays as it is: neither rule says that such a read discards it (DESIGN CHOICE, log entry
57). -/
def State.badRead (s : State) (off bytes : Nat) : State :=
  if inMsix off then
    let d := s.draw
    d.2.answerRead (leBytes bytes d.1.toNat)
  else (s.answerRead (List.replicate bytes 0xFF)).countReserved false true off

def State.badWrite (s : State) (off : Nat) : State := if inMsix off then s.dropHeld else s.dropHeld.countReserved true true off

/-- The width and the alignment that BAR0 takes (R13, R17). -/
def goodAccess (off bytes : Nat) : Bool := (bytes == 4 || bytes == 8) && off % bytes == 0

/-- A host read of BAR0 of any width (R13 to R17). -/
def State.barRead (s : State) (off bytes : Nat) (late : DWord) : State :=
  if !s.hostUp then s
  else if !goodAccess off bytes then s.badRead off bytes
  else if bytes = 8 then
    let r := s.read64 off late
    r.2.answerRead (leBytes 8 r.1.toNat)
  else
    let r := s.read32 off late
    r.2.answerRead (leBytes 4 r.1.toNat)

/-- A host write of BAR0 of any width (R13 to R17). -/
def State.barWrite (s : State) (off bytes : Nat) (v hwSet hwClear : DWord) : State :=
  if !s.hostUp then s
  else if !goodAccess off bytes then s.badWrite off
  else if bytes = 8 then s.write64 off v hwSet hwClear
  else s.write32 off (lowOf v) hwSet hwClear

def accessBytes (wide : Bool) : Nat := if wide then 8 else 4

/-- REGISTER_WRITE (R11, R12): `hwSet` and `hwClear` are the hardware events in the cycle of the write. -/
def execRegisterWrite (off : BitVec 28) (wide : Bool) (val hwSet hwClear : BitVec 64) (s : State) : Host.Outcome State Fault Refusal :=
  .next (s.barWrite off.toNat (accessBytes wide) val hwSet hwClear)

/-- READ_CLEAR (R11, R12): `late` are the events in the cycle of the read. A register without RC fields reads the same way. -/
def execReadClear (off : BitVec 28) (wide : Bool) (late : BitVec 64) (s : State) : Host.Outcome State Fault Refusal :=
  .next (s.barRead off.toNat (accessBytes wide) late)

/-- SPLIT_64_ACCESS (R14). -/
def execSplit64Access (off : BitVec 28) (write : Bool) (val : BitVec 32) (s : State) : Host.Outcome State Fault Refusal :=
  .next (if write then s.barWrite off.toNat 4 (val.setWidth 64) 0 0 else s.barRead off.toNat 4 0)

/-- RESERVED_ACCESS (R13, R16). -/
def execReservedAccess (off : BitVec 28) (wide write : Bool) (val : BitVec 64) (s : State) : Host.Outcome State Fault Refusal :=
  .next (if write then s.barWrite off.toNat (accessBytes wide) val 0 0 else s.barRead off.toNat (accessBytes wide) 0)

/-- MISALIGNED_ACCESS (R17): an access of a good width and alignment is none of these. -/
def execMisalignedAccess (off : BitVec 28) (bytes : Nat) (write : Bool) (s : State) : Host.Outcome State Fault Refusal :=
  .next (if goodAccess off.toNat bytes then s
    else if write then s.barWrite off.toNat bytes 0 0 0 else s.barRead off.toNat bytes 0)

/-- TRACE_CLEAR (R564). -/
def execTraceClear (s : State) : Host.Outcome State Fault Refusal :=
  .next (s.hostWriteAt (RegId.addr .traceCtrl []) State.clearTrace)

/-! BAR2 (R250, R255, R582). -/

/-- The first device address of a BAR2 access, by the base in force. -/
def State.bar2Base (s : State) (off : Nat) : Nat := s.fld .apertureBase * 2 ^ 30 + off

/-- A byte that a BAR2 access treats as a hole (R250, R260, R582). -/
def State.bar2Hole (s : State) (a : Nat) : Bool :=
  decide (2 ^ 48 ≤ a) || match s.place a with
    | .hole => true
    | .window c _ => (match s.cellOf c with | some p => !(s.cell p).idle && !s.halted p | none => true)
    | .tier3 g _ => s.shelfShut g
    | _ => false

/-- The bytes of a BAR2 read from address a upwards. -/
def State.bar2Read (s : State) : Nat → Nat → List Byte
  | _, 0 => []
  | a, n + 1 => (if s.bar2Hole a then 0 else s.devByte a) :: s.bar2Read (a + 1) n

/-- The state after a BAR2 write from address a upwards. -/
def State.bar2Write (s : State) : Nat → List Byte → State
  | _, [] => s
  | a, b :: bs => (if s.bar2Hole a then s else s.devSet a b).bar2Write (a + 1) bs

/-- The cell whose window holds an address. -/
def State.windowCell (s : State) (a : Nat) : Option Nat :=
  match s.place a with
  | .window c _ => s.cellOf c
  | _ => none

/-- A zero clear goes on while the host's access is on its way: by the time it comes, the clear has made a number of steps that the manual does
not tie to the host's clock (R107, log entry 21). -/
def State.clearPass (s : State) (p : Nat) : State :=
  if s.cflag .memStatusClearBusy p then
    let d := s.draw
    d.2.onCell p fun c => c.clearTo (d.1.toNat % (clearSteps + 1))
  else s

/-- The clears of the cells whose windows an access touches. -/
def State.clearUnder (s : State) (addrs : List Nat) : State := (addrs.filterMap s.windowCell).eraseDups.foldl State.clearPass s

/-- The tier-3 transaction of 256 bytes of a BAR2 access that begin at address a, where the group takes it (R259). -/
def State.hostTxn (t s : State) (a : Nat) : State :=
  match s.place a with
  | .tier3 g _ => if s.shelfShut g then t else t.shelfTxn g none 0
  | _ => t

/-- BAR2_ACCESS (R250): `data` is what a write carries, and a read has none. A shelf group that refuses the access flags it (R258, R260), and one
that takes it holds transactions until their deadline (R259). -/
def execBar2Access (off : BitVec 36) (len : Nat) (data : Option (List (BitVec 8))) (s : State) : Host.Outcome State Fault Refusal :=
  .next (if !s.hostUp then s else
    let a := s.bar2Base off.toNat
    let n := match data with | some bs => bs.length | none => len
    let addrs := (List.range n).map (a + ·)
    let s := s.clearUnder addrs
    let s1 := match data with
      | some bs => s.bar2Write a bs
      | none => s.answerRead (s.bar2Read a len)
    let shut := [0, 1].filter fun g => addrs.any fun x => shelfWindow x == some g && (s.shelfShut g || s.place x == .hole)
    let s1 := shut.foldl State.shelfRefuse s1
    let s1 := (List.range (ceilDiv n 256)).foldl (fun t i => t.hostTxn s (a + 256 * i)) s1
    if addrs.any s.bar2Hole then s1.countBar2 data.isSome off.toNat else s1)

end Sys2Proof.Machine
end

