-- ==== Sys2Proof/Machine/Transform.lean ====
section
/-! DEFINITION. The 3 × 3 transforms of the address generator (R116 to R119). -/

namespace Sys2Proof.Machine

/-- The matrices of R116. -/
def bt2 : List (List Int) := [[1, 0, -1, 0], [0, 1, 1, 0], [0, -1, 1, 0], [0, 1, 0, -1]]
def at2 : List (List Int) := [[1, 1, 1, 0], [0, 1, -1, -1]]
def bt4 : List (List Int) :=
  [[4, 0, -5, 0, 1, 0], [0, -4, -4, 1, 1, 0], [0, 4, -4, -1, 1, 0], [0, -2, -1, 2, 1, 0], [0, 2, -1, -2, 1, 0],
   [0, 4, 0, -5, 0, 1]]
def at4 : List (List Int) := [[1, 1, 1, 1, 1, 0], [0, 1, -1, 2, -2, 0], [0, 1, 1, 4, 4, 0], [0, 1, -1, 8, -8, 1]]

/-- The rows of a matrix as its columns. -/
def colsOf {α : Type} (z : α) (n : Nat) (m : List (List α)) : List (List α) :=
  (List.range n).map fun j => m.map (·.getD j z)

/-- The exact sum of a row of coefficients and a column. -/
def dotInt (r c : List Int) : Int := (List.zipWith (· * ·) r c).sum

/-- M x Mᵀ, exact. -/
def sandwichInt (m : List (List Int)) (x : List (List Int)) : List (List Int) :=
  let n := x.length
  let left := m.map fun r => (colsOf 0 n x).map (dotInt r)
  left.map fun row => m.map fun r => dotInt r row

/-- A sum of A32 products from left to right, each product and sum rounded to nearest even; terms of coefficient 0 take no
part (R119, log entry 18). -/
def dotA32 (r : List Int) (c : List FEv) : FEv :=
  let terms := (r.zip c).filterMap fun x =>
    if x.1 = 0 then none else
    let y := a32Mul (.fin ⟨x.1, 0⟩) x.2.1
    some (y.1, Ev.max x.2.2 y.2)
  match terms with
  | [] => (.zero, .none)
  | t :: ts => ts.foldl (fun a b => let z := a32Add a.1 b.1; (z.1, Ev.max (Ev.max a.2 b.2) z.2)) t

/-- M x Mᵀ in A32: the left product by rows first, then the columns (R119). -/
def sandwichA32 (m : List (List Int)) (x : List (List FEv)) : List (List FEv) :=
  let n := x.length
  let left := m.map fun r => (colsOf (.zero, .none) n x).map (dotA32 r)
  left.map fun row => m.map fun r => dotA32 r row

/-- What differs between F(2×2,3×3) and F(4×4,3×3) (R116, R117): tile step, patch size, matrices, and the output scale as a
power of two. -/
structure Winograd where
  t : Nat
  n : Nat
  bt : List (List Int)
  atm : List (List Int)
  scale : Int
  deriving DecidableEq, Repr

def wino2 : Winograd := ⟨2, 4, bt2, at2, -2⟩
def wino4 : Winograd := ⟨4, 6, bt4, at4, 0⟩

/-- The pattern entry that a transform accepts (R117). -/
def PatF.winograd (t : PatF) : Bool :=
  t.ok && decide (t.kh = 3) && decide (t.kw = 3) && decide (t.sx = 1) && decide (t.sy = 1) && decide (t.dx = 1) &&
    decide (t.dy = 1) && decide (1 ≤ t.ho) && decide (1 ≤ t.wo)

/-- Rows and colsOf of tiles (R117). -/
def Winograd.tiles (w : Winograd) (ho wo : Nat) : Nat × Nat := (ceilDiv ho w.t, ceilDiv wo w.t)

/-- The V tensor of position ξ (R117): its planes are the input channels and its rows the tile rows. -/
def Winograd.vTensor (w : Winograd) (r : AgRec) (t : PatF) (f : Fmt) (base : Int) (xi : Nat) : Planar :=
  let tl := w.tiles t.ho.toNat t.wo.toNat
  ⟨f, base + xi * r.group, r.dPlane, r.dRow, t.ci, tl.1, tl.2⟩

def Winograd.inOk (w : Winograd) (cmd : CellCmd) (t : PatF) (r : AgRec) : Bool :=
  let fits := fun f base => (List.range (w.n * w.n)).all fun xi => (w.vTensor r t f base xi).ok
  t.winograd && decide (w.t = 2 ∨ cmd.mode = .fast) &&
  match r.dFmt with
  | none => false
  | some f =>
    if cmd.mode = .freeze then
      (t.fmt == some .i4 || t.fmt == some .i8) && f == .i8 && fits .i8 r.dBase && fits .i8 r.xBase
    else (f == .f12 || f == .f16) && fits f r.dBase

/-- The value of the input at row iy and column ix of a plane, or pad_value (R112, R117). Neither the record's words that R201 lets
XIN2 and XIN4 use nor the pattern entry says whether I4 and I8 input is signed: it is a constant of the part (log entry 18). -/
def patchVal (t : PatF) (f : Fmt) (cl : Cell) (ch : Nat) (iy ix : Int) : Val :=
  if iy < t.rowLo ∨ (t.rowHi : Int) ≤ iy ∨ ix < 0 ∨ (t.wi : Int) ≤ ix then f.decode Config.xinUnsigned t.padValue
  else f.decode Config.xinUnsigned (cl.elem f ((t.base + ch * t.planeStride : Nat) + iy * t.rowStride).toNat ix.toNat)

/-- The input patch of tile (ty, tx) of a channel (R117). -/
def Winograd.patch (w : Winograd) (t : PatF) (f : Fmt) (cl : Cell) (ch ty tx : Nat) : List (List Val) :=
  (List.range w.n).map fun u => (List.range w.n).map fun v =>
    patchVal t f cl ch (t.rowLo + (w.t * ty + u : Nat) - t.padTop) ((w.t * tx + v : Nat) - (t.padLeft : Int))

/-- V of every channel, tile row and tile, computed once: [channel][tile row][tile]. -/
def Winograd.eachTile {α : Type} (w : Winograd) (t : PatF) (f : Nat → Nat → Nat → α) : List (List (List α)) :=
  let tl := w.tiles t.ho.toNat t.wo.toNat
  (List.range t.ci).map fun ch => (List.range tl.1).map fun ty => (List.range tl.2).map fun tx => f ch ty tx

/-- The rows that write element (u, v) of every tile's matrix to the tensor of ξ = u × n + v (R117). -/
def Winograd.vRows {α : Type} (w : Winograd) (r : AgRec) (t : PatF) (f : Fmt) (base : Int) (d : List (List (List α)))
    (code : Nat → Nat → α → Nat) : List (Nat × List Byte) :=
  (List.range (w.n * w.n)).flatMap fun xi =>
    let v := w.vTensor r t f base xi
    ((List.range v.c).zip d).flatMap fun pl => ((List.range v.h).zip pl.2).map fun row =>
      (v.rowAt pl.1 row.1, packElems f (row.2.map (code (xi / w.n) (xi % w.n))))

def at2d {α : Type} (z : α) (m : List (List α)) (u v : Nat) : α := (m.getD u []).getD v z

def Winograd.inRun (w : Winograd) (p : Nat) (s : State) (cmd : CellCmd) (q : QIns) (t : PatF) (r : AgRec) : State :=
  match t.fmt, r.dFmt with
  | some sf, some df =>
    let cl := s.cell p
    if cmd.mode = .freeze then
      let d := w.eachTile t fun ch ty tx => sandwichInt w.bt ((w.patch t sf cl ch ty tx).map (·.map (·.toI)))
      let hi := w.vRows r t .i8 r.dBase d fun u v m => ofSigned 8 (at2d 0 m u v / 32)
      let lo := w.vRows r t .i8 r.xBase d fun u v m => (at2d 0 m u v % 32).toNat
      s.onCell p (·.writes (hi ++ lo))
    else
      let d := w.eachTile t fun ch ty tx =>
        (sandwichA32 w.bt ((w.patch t sf cl ch ty tx).map (·.map fun x => (x.toA32, Ev.none)))).map (·.map fun x =>
          let o := convElem df false r.propagate (.flt x.1)
          (o.1, Ev.max x.2 o.2))
      let s := s.onCell p (·.writes (w.vRows r t df r.dBase d fun u v m => (at2d (0, Ev.none) m u v).1))
      s.countElems p q.id q.tag q.layer (countEvs (d.flatMap fun a => a.flatMap fun b => b.flatMap fun m => m.flatMap fun e => e.map (·.2)))
  | _, _ => s

/-- XIN2 (R116 to R119). -/
def execXin2 (p : Fin 36) (s : State) : Host.Outcome State Fault Refusal :=
  .next (s.agIssue p 0x05 (Winograd.inOk wino2) (Winograd.inRun wino2 p))
/-- XIN4 (R116 to R119). -/
def execXin4 (p : Fin 36) (s : State) : Host.Outcome State Fault Refusal :=
  .next (s.agIssue p 0x06 (Winograd.inOk wino4) (Winograd.inRun wino4 p))

/-- The drained result at position ξ, tile and output channel lies at base + ξ × s_plane_stride + tile × s_row_stride, at the
place of the channel in its row (R117, R201). -/
def AgRec.drained (r : AgRec) (base : Int) (xi tile : Nat) : Nat := base.toNat + xi * r.sPlane + tile * r.sRow

/-- The drained results of one base lie in cell memory and their strides hold (R102, R108). -/
def Winograd.drainedOk (w : Winograd) (r : AgRec) (f : Fmt) (base : Int) : Bool :=
  let tl := w.tiles r.height r.width
  (Planar.mk f base r.sPlane r.sRow (w.n * w.n) (tl.1 * tl.2) r.planes).ok

def Winograd.outOk (w : Winograd) (cmd : CellCmd) (_ : PatF) (r : AgRec) : Bool :=
  decide (w.t = 2 ∨ cmd.mode = .fast) &&
  match r.sFmt, r.dFmt with
  | some sf, some df =>
    (r.dst df r.planes r.height r.width).ok && w.drainedOk r sf r.sBase &&
      (if cmd.mode = .freeze then sf == .i32 && df == .i32 && w.drainedOk r sf r.xBase
       else vecFmt (some sf) && vecFmt (some df) && df != .s8)
  | _, _ => false

/-- One drained value. -/
def AgRec.drainedVal (r : AgRec) (cl : Cell) (f : Fmt) (base : Int) (xi tile oc : Nat) : Val :=
  f.decode r.uns (cl.elem f (r.drained base xi tile) oc)

/-- The outputs of every channel and tile by a function, as the codes of element (channel, y, x) with their results. -/
def Winograd.outRows {α : Type} (w : Winograd) (r : AgRec) (z : α) (f : Nat → Nat → List (List α)) :
    List (List (List α)) :=
  let tl := w.tiles r.height r.width
  (List.range r.planes).map fun oc =>
    let ts := (List.range (tl.1 * tl.2)).map (f oc)
    (List.range r.height).map fun y => (List.range r.width).map fun x =>
      at2d z (ts.getD (y / w.t * tl.2 + x / w.t) []) (y % w.t) (x % w.t)

/-- The integer output of R118: quotient toward negative infinity, saturated, and whether a remainder was left. -/
def outInt (y : Int) : Nat × Ev × Bool :=
  let r := saturate .i32 false (y / 4)
  (ofSigned 32 r.1, r.2, decide (y % 4 ≠ 0))

def Winograd.outRun (w : Winograd) (p : Nat) (s : State) (cmd : CellCmd) (q : QIns) (_ : PatF) (r : AgRec) : State :=
  match r.sFmt, r.dFmt with
  | some sf, some df =>
    let cl := s.cell p
    let dst := r.dst df r.planes r.height r.width
    let mat := fun {α : Type} (g : Nat → α) => (List.range w.n).map fun u => (List.range w.n).map fun v => g (u * w.n + v)
    let put := fun (s : State) (rows : List (List (List (Nat × Ev)))) =>
      let ws := ((List.range r.planes).zip rows).flatMap fun pl => ((List.range r.height).zip pl.2).map fun row =>
        (dst.rowAt pl.1 row.1, packOut df row.2)
      (s.onCell p (·.writes ws)).countElems p q.id q.tag q.layer
        (countEvs (rows.flatMap fun pl => pl.flatMap fun row => row.map (·.2)))
    if cmd.mode = .freeze then
      let rows := w.outRows r (0, Ev.none, false) fun oc tile =>
        (sandwichInt w.atm (mat fun xi =>
          32 * (r.drainedVal cl sf r.sBase xi tile oc).toI + (r.drainedVal cl sf r.xBase xi tile oc).toI)).map (·.map outInt)
      let s := put s (rows.map (·.map (·.map fun e => (e.1, e.2.1))))
      let residue := (rows.flatMap fun pl => pl.flatMap fun row => row.filter (·.2.2)).length
      if 0 < residue then
        ((s.craise .agFlagsTransformResidue p).ccount .agCountTransformResidue residue p).endCmd p 4
      else s
    else
      put s (w.outRows r (0, Ev.none) fun oc tile =>
        (sandwichA32 w.atm (mat fun xi => ((r.drainedVal cl sf r.sBase xi tile oc).toA32, Ev.none))).map (·.map fun x =>
          let y := if w.scale = 0 then (x.1, Ev.none) else a32Mul (.fin ⟨1, w.scale⟩) x.1
          let o := convElem df false r.propagate (.flt y.1)
          (o.1, Ev.max x.2 (Ev.max y.2 o.2))))
  | _, _ => s

/-- XOUT2 (R116 to R119). -/
def execXout2 (p : Fin 36) (s : State) : Host.Outcome State Fault Refusal :=
  .next (s.agIssue p 0x07 (Winograd.outOk wino2) (Winograd.outRun wino2 p))
/-- XOUT4 (R116 to R119). -/
def execXout4 (p : Fin 36) (s : State) : Host.Outcome State Fault Refusal :=
  .next (s.agIssue p 0x08 (Winograd.outOk wino4) (Winograd.outRun wino4 p))

end Sys2Proof.Machine
end

