-- ==== Sys2Proof/Machine/Dispatch.lean ====
section
/-! DEFINITION. The dispatch of a command to its meaning, one arm per row of spec/opcode_table.json. -/

namespace Sys2Proof.Machine

/-- The effect of a command on everything but the queue of commands. -/
def exec (i : Instr) (s : State) : Host.Outcome State Fault Refusal :=
  match i with
  | .registerWrite off wide val hwSet hwClear => Sys2Proof.Machine.execRegisterWrite off wide val hwSet hwClear s
  | .readClear off wide late => Sys2Proof.Machine.execReadClear off wide late s
  | .split64Access off write val => Sys2Proof.Machine.execSplit64Access off write val s
  | .reservedAccess off wide write val => Sys2Proof.Machine.execReservedAccess off wide write val s
  | .misalignedAccess off bytes write => Sys2Proof.Machine.execMisalignedAccess off bytes write s
  | .bar2Access off len data => Sys2Proof.Machine.execBar2Access off len data s
  | .doorbell q tail => Sys2Proof.Machine.execDoorbell q tail s
  | .queueEntryFetch q => Sys2Proof.Machine.execQueueEntryFetch q s
  | .commandLoad q => Sys2Proof.Machine.execCommandLoad q s
  | .commandReady q => Sys2Proof.Machine.execCommandReady q s
  | .commandStart n => Sys2Proof.Machine.execCommandStart n s
  | .bundleDispatch p => Sys2Proof.Machine.execBundleDispatch p s
  | .nop p => Sys2Proof.Machine.execNop p s
  | .mma p => Sys2Proof.Machine.execMma p s
  | .arrayPass p => Sys2Proof.Machine.execArrayPass p s
  | .arrayDrain p => Sys2Proof.Machine.execArrayDrain p s
  | .chkInjectArm p val => Sys2Proof.Machine.execChkInjectArm p val s
  | .memClear p val => Sys2Proof.Machine.execMemClear p val s
  | .memClearDone p => Sys2Proof.Machine.execMemClearDone p s
  | .patternLoad p => Sys2Proof.Machine.execPatternLoad p s
  | .s2d p => Sys2Proof.Machine.execS2d p s
  | .d2s p => Sys2Proof.Machine.execD2s p s
  | .transpose p => Sys2Proof.Machine.execTranspose p s
  | .xin2 p => Sys2Proof.Machine.execXin2 p s
  | .xin4 p => Sys2Proof.Machine.execXin4 p s
  | .xout2 p => Sys2Proof.Machine.execXout2 p s
  | .xout4 p => Sys2Proof.Machine.execXout4 p s
  | .crop p => Sys2Proof.Machine.execCrop p s
  | .dma p => Sys2Proof.Machine.execDma p s
  | .dmaComplete p id => Sys2Proof.Machine.execDmaComplete p id s
  | .add p => Sys2Proof.Machine.execAdd p s
  | .sub p => Sys2Proof.Machine.execSub p s
  | .mul p => Sys2Proof.Machine.execMul p s
  | .madd p => Sys2Proof.Machine.execMadd p s
  | .min p => Sys2Proof.Machine.execMin p s
  | .max p => Sys2Proof.Machine.execMax p s
  | .abs p => Sys2Proof.Machine.execAbs p s
  | .neg p => Sys2Proof.Machine.execNeg p s
  | .shift p => Sys2Proof.Machine.execShift p s
  | .select p => Sys2Proof.Machine.execSelect p s
  | .convert p => Sys2Proof.Machine.execConvert p s
  | .rsum p => Sys2Proof.Machine.execRsum p s
  | .rmin p => Sys2Proof.Machine.execRmin p s
  | .rmax p => Sys2Proof.Machine.execRmax p s
  | .rmean p => Sys2Proof.Machine.execRmean p s
  | .rvar p => Sys2Proof.Machine.execRvar p s
  | .norm p => Sys2Proof.Machine.execNorm p s
  | .softmax p => Sys2Proof.Machine.execSoftmax p s
  | .tanh p => Sys2Proof.Machine.execTanh p s
  | .logistic p => Sys2Proof.Machine.execLogistic p s
  | .exp p => Sys2Proof.Machine.execExp p s
  | .log p => Sys2Proof.Machine.execLog p s
  | .argmax p => Sys2Proof.Machine.execArgmax p s
  | .scaleLoad p => Sys2Proof.Machine.execScaleLoad p s
  | .derive p => Sys2Proof.Machine.execDerive p s
  | .blockConvert p => Sys2Proof.Machine.execBlockConvert p s
  | .loop p countM1 lengthM1 => Sys2Proof.Machine.execLoop p countM1 lengthM1 s
  | .wait p tally k => Sys2Proof.Machine.execWait p tally k s
  | .waitRelease p => Sys2Proof.Machine.execWaitRelease p s
  | .signal p tally incM1 => Sys2Proof.Machine.execSignal p tally incM1 s
  | .signalDone p tally incM1 => Sys2Proof.Machine.execSignalDone p tally incM1 s
  | .signalDoneEffect p => Sys2Proof.Machine.execSignalDoneEffect p s
  | .fence p array vector ag dma => Sys2Proof.Machine.execFence p array vector ag dma s
  | .tag p tag layer => Sys2Proof.Machine.execTag p tag layer s
  | .endStream p => Sys2Proof.Machine.execEndStream p s
  | .instructionComplete p id => Sys2Proof.Machine.execInstructionComplete p id s
  | .cellCommandComplete p => Sys2Proof.Machine.execCellCommandComplete p s
  | .commandComplete q => Sys2Proof.Machine.execCommandComplete q s
  | .recoveryCommand q => Sys2Proof.Machine.execRecoveryCommand q s
  | .commandRetry q => Sys2Proof.Machine.execCommandRetry q s
  | .scaleWindowWrite p entry val => Sys2Proof.Machine.execScaleWindowWrite p entry val s
  | .fusedTableWrite p entry high val => Sys2Proof.Machine.execFusedTableWrite p entry high val s
  | .tableLoad q => Sys2Proof.Machine.execTableLoad q s
  | .tableLoadDone => Sys2Proof.Machine.execTableLoadDone s
  | .regulatorTick q => Sys2Proof.Machine.execRegulatorTick q s
  | .queCfgWrite q val => Sys2Proof.Machine.execQueCfgWrite q val s
  | .queueFlush q => Sys2Proof.Machine.execQueueFlush q s
  | .queueResume q => Sys2Proof.Machine.execQueueResume q s
  | .talValueWrite t w => Sys2Proof.Machine.execTalValueWrite t w s
  | .talAddWrite t w => Sys2Proof.Machine.execTalAddWrite t w s
  | .tallyUpdate t count arrivals => Sys2Proof.Machine.execTallyUpdate t count arrivals s
  | .cellOwnerChange c => Sys2Proof.Machine.execCellOwnerChange c s
  | .shelfAttach g => Sys2Proof.Machine.execShelfAttach g s
  | .shelfAttached g sizeGiB engines => Sys2Proof.Machine.execShelfAttached g sizeGiB engines s
  | .shelfDetach g => Sys2Proof.Machine.execShelfDetach g s
  | .shelfPark g => Sys2Proof.Machine.execShelfPark g s
  | .shelfDeadline g txn arrived => Sys2Proof.Machine.execShelfDeadline g txn arrived s
  | .shelfLateCompletion g txn cycles => Sys2Proof.Machine.execShelfLateCompletion g txn cycles s
  | .shelfLost g => Sys2Proof.Machine.execShelfLost g s
  | .shelfEngineFail g e => Sys2Proof.Machine.execShelfEngineFail g e s
  | .bceRingTail n tail => Sys2Proof.Machine.execBceRingTail n tail s
  | .kcxRingTail n tail => Sys2Proof.Machine.execKcxRingTail n tail s
  | .motRingTail n tail => Sys2Proof.Machine.execMotRingTail n tail s
  | .ringCfgWrite e n val => Sys2Proof.Machine.execRingCfgWrite e n val s
  | .ringFlush e n => Sys2Proof.Machine.execRingFlush e n s
  | .ringResume e n => Sys2Proof.Machine.execRingResume e n s
  | .bceCompress n => Sys2Proof.Machine.execBceCompress n s
  | .bceDecompress n => Sys2Proof.Machine.execBceDecompress n s
  | .bceJobComplete n => Sys2Proof.Machine.execBceJobComplete n s
  | .openEnc n => Sys2Proof.Machine.execOpenEnc n s
  | .openDec n => Sys2Proof.Machine.execOpenDec n s
  | .passEnc n => Sys2Proof.Machine.execPassEnc n s
  | .passDec n => Sys2Proof.Machine.execPassDec n s
  | .closeEnc n => Sys2Proof.Machine.execCloseEnc n s
  | .closeDec n => Sys2Proof.Machine.execCloseDec n s
  | .wrap n => Sys2Proof.Machine.execWrap n s
  | .unwrap n => Sys2Proof.Machine.execUnwrap n s
  | .kcxJobComplete n => Sys2Proof.Machine.execKcxJobComplete n s
  | .search n => Sys2Proof.Machine.execSearch n s
  | .compensate n => Sys2Proof.Machine.execCompensate n s
  | .pool n => Sys2Proof.Machine.execPool n s
  | .poolClear n => Sys2Proof.Machine.execPoolClear n s
  | .motJobComplete n => Sys2Proof.Machine.execMotJobComplete n s
  | .ctxCreate c => Sys2Proof.Machine.execCtxCreate c s
  | .ctxRelease c => Sys2Proof.Machine.execCtxRelease c s
  | .ctxIdle c => Sys2Proof.Machine.execCtxIdle c s
  | .ctxResume c => Sys2Proof.Machine.execCtxResume c s
  | .ctxCfgWrite c reg val => Sys2Proof.Machine.execCtxCfgWrite c reg val s
  | .admissionPosition c => Sys2Proof.Machine.execAdmissionPosition c s
  | .deferredFrameTaken c => Sys2Proof.Machine.execDeferredFrameTaken c s
  | .frameWatchdog c => Sys2Proof.Machine.execFrameWatchdog c s
  | .guardCheck c k => Sys2Proof.Machine.execGuardCheck c k s
  | .profileSwitch => Sys2Proof.Machine.execProfileSwitch s
  | .thawWindowOpen n work => Sys2Proof.Machine.execThawWindowOpen n work s
  | .thawWindowForced n work => Sys2Proof.Machine.execThawWindowForced n work s
  | .thawWindowAbort n => Sys2Proof.Machine.execThawWindowAbort n s
  | .thawWindowEnd n => Sys2Proof.Machine.execThawWindowEnd n s
  | .thawCfgWrite n reg val => Sys2Proof.Machine.execThawCfgWrite n reg val s
  | .barrierPosition => Sys2Proof.Machine.execBarrierPosition s
  | .barrierArrival src members settings => Sys2Proof.Machine.execBarrierArrival src members settings s
  | .barrierRelease seq r above => Sys2Proof.Machine.execBarrierRelease seq r above s
  | .barrierReleaseAct => Sys2Proof.Machine.execBarrierReleaseAct s
  | .barrierTimeout => Sys2Proof.Machine.execBarrierTimeout s
  | .rrModeStart => Sys2Proof.Machine.execRrModeStart s
  | .rrCtrlWrite val => Sys2Proof.Machine.execRrCtrlWrite val s
  | .channelEnable c val => Sys2Proof.Machine.execChannelEnable c val s
  | .segmentSend c => Sys2Proof.Machine.execSegmentSend c s
  | .segmentComplete c seq g => Sys2Proof.Machine.execSegmentComplete c seq g s
  | .readyState src ready completed => Sys2Proof.Machine.execReadyState src ready completed s
  | .calibrationReport src lane report => Sys2Proof.Machine.execCalibrationReport src lane report s
  | .spareSwitch src lane frame => Sys2Proof.Machine.execSpareSwitch src lane frame s
  | .spareSwitchTake a => Sys2Proof.Machine.execSpareSwitchTake a s
  | .laneFailure a lane symbols => Sys2Proof.Machine.execLaneFailure a lane symbols s
  | .portDegrade a => Sys2Proof.Machine.execPortDegrade a s
  | .controlWordFault a => Sys2Proof.Machine.execControlWordFault a s
  | .portRetrain a => Sys2Proof.Machine.execPortRetrain a s
  | .fabPortEnable a enable => Sys2Proof.Machine.execFabPortEnable a enable s
  | .portReady a peerFloe peerPos peerPort latency peerReady => Sys2Proof.Machine.execPortReady a peerFloe peerPos peerPort latency peerReady s
  | .laserRemove m => Sys2Proof.Machine.execLaserRemove m s
  | .laserHandover m => Sys2Proof.Machine.execLaserHandover m s
  | .laserReleased m => Sys2Proof.Machine.execLaserReleased m s
  | .laserInsert m ident => Sys2Proof.Machine.execLaserInsert m ident s
  | .laserTakeUp m => Sys2Proof.Machine.execLaserTakeUp m s
  | .laserFailure m removed => Sys2Proof.Machine.execLaserFailure m removed s
  | .interlockOpen m => Sys2Proof.Machine.execInterlockOpen m s
  | .connectorOpen e => Sys2Proof.Machine.execConnectorOpen e s
  | .laserCommand m word => Sys2Proof.Machine.execLaserCommand m word s
  | .wearTick => Sys2Proof.Machine.execWearTick s
  | .wearStashWrite => Sys2Proof.Machine.execWearStashWrite s
  | .coldStart => Sys2Proof.Machine.execColdStart s
  | .readySet stage passed readings => Sys2Proof.Machine.execReadySet stage passed readings s
  | .mboxCfgWrite val => Sys2Proof.Machine.execMboxCfgWrite val s
  | .mboxMapWrite n val => Sys2Proof.Machine.execMboxMapWrite n val s
  | .snpInv n => Sys2Proof.Machine.execSnpInv n s
  | .snpData n => Sys2Proof.Machine.execSnpData n s
  | .snpCur n => Sys2Proof.Machine.execSnpCur n s
  | .mailboxReadData n data => Sys2Proof.Machine.execMailboxReadData n data s
  | .headLineUpdate n => Sys2Proof.Machine.execHeadLineUpdate n s
  | .goWritePull n => Sys2Proof.Machine.execGoWritePull n s
  | .goWritePullDrop n => Sys2Proof.Machine.execGoWritePullDrop n s
  | .hostPageWrite c credits => Sys2Proof.Machine.execHostPageWrite c credits s
  | .linkDown => Sys2Proof.Machine.execLinkDown s
  | .mediaPacketReceive n port path seqNo stamp place payload => Sys2Proof.Machine.execMediaPacketReceive n port path seqNo stamp place payload s
  | .houseRtpPacket c packet => Sys2Proof.Machine.execHouseRtpPacket c packet s
  | .streamCommit n val => Sys2Proof.Machine.execStreamCommit n val s
  | .mediaLatch n => Sys2Proof.Machine.execMediaLatch n s
  | .mediaFrameSend n => Sys2Proof.Machine.execMediaFrameSend n s
  | .stationFrameBoundary => Sys2Proof.Machine.execStationFrameBoundary s
  | .stationStep val => Sys2Proof.Machine.execStationStep val s
  | .referenceLoss => Sys2Proof.Machine.execReferenceLoss s
  | .timeLock => Sys2Proof.Machine.execTimeLock s
  | .exposurePulse widthNs => Sys2Proof.Machine.execExposurePulse widthNs s
  | .ptpMessage port head kind masterNs stampNs => Sys2Proof.Machine.execPtpMessage port head kind masterNs stampNs s
  | .ladderRequest src target => Sys2Proof.Machine.execLadderRequest src target s
  | .ladderMoveDown l12 => Sys2Proof.Machine.execLadderMoveDown l12 s
  | .ladderMoveUp readings => Sys2Proof.Machine.execLadderMoveUp readings s
  | .firnRequestTimeout => Sys2Proof.Machine.execFirnRequestTimeout s
  | .glacierWake src => Sys2Proof.Machine.execGlacierWake src s
  | .sensorSample volts power avg1ms avg100ms dies => Sys2Proof.Machine.execSensorSample volts power avg1ms avg100ms dies s
  | .descentTimeout => Sys2Proof.Machine.execDescentTimeout s
  | .protectiveClear powerBelow tempBelow => Sys2Proof.Machine.execProtectiveClear powerBelow tempBelow s
  | .hardwareShutdown cause => Sys2Proof.Machine.execHardwareShutdown cause s
  | .stashSession millivolts pages page0 data => Sys2Proof.Machine.execStashSession millivolts pages page0 data s
  | .stashRetry millivolts => Sys2Proof.Machine.execStashRetry millivolts s
  | .meterInterval microWh => Sys2Proof.Machine.execMeterInterval microWh s
  | .tagMessage noise => Sys2Proof.Machine.execTagMessage noise s
  | .tagTimeout => Sys2Proof.Machine.execTagTimeout s
  | .meterSummary => Sys2Proof.Machine.execMeterSummary s
  | .islandFirmwareUpdate ident image sigOk => Sys2Proof.Machine.execIslandFirmwareUpdate ident image sigOk s
  | .sealOpen => Sys2Proof.Machine.execSealOpen s
  | .sealClose => Sys2Proof.Machine.execSealClose s
  | .verificationRead item => Sys2Proof.Machine.execVerificationRead item s
  | .cellRetire slab val => Sys2Proof.Machine.execCellRetire slab val s
  | .cellRemap p => Sys2Proof.Machine.execCellRemap p s
  | .remapComplete p => Sys2Proof.Machine.execRemapComplete p s
  | .seqFwLoad => Sys2Proof.Machine.execSeqFwLoad s
  | .seqFwLoadDone sigOk => Sys2Proof.Machine.execSeqFwLoadDone sigOk s
  | .seqFwSwitch => Sys2Proof.Machine.execSeqFwSwitch s
  | .fwSlotSwitch => Sys2Proof.Machine.execFwSlotSwitch s
  | .cellHalt p => Sys2Proof.Machine.execCellHalt p s
  | .cellHalted p => Sys2Proof.Machine.execCellHalted p s
  | .cellResume p => Sys2Proof.Machine.execCellResume p s
  | .cellStep p => Sys2Proof.Machine.execCellStep p s
  | .clearTags p => Sys2Proof.Machine.execClearTags p s
  | .seqHalt n cause => Sys2Proof.Machine.execSeqHalt n cause s
  | .seqResume n => Sys2Proof.Machine.execSeqResume n s
  | .traceClear => Sys2Proof.Machine.execTraceClear s
  | .leakDetected wet => Sys2Proof.Machine.execLeakDetected wet s
  | .pldmSetState bus target => Sys2Proof.Machine.execPldmSetState bus target s
  | .pldmFirmwareUpdate update => Sys2Proof.Machine.execPldmFirmwareUpdate update s
  | .hostLinkReturn => Sys2Proof.Machine.execHostLinkReturn s
  | .perstAssertion => Sys2Proof.Machine.execPerstAssertion s
  | .supervisorPowerUp ccal millivolts => Sys2Proof.Machine.execSupervisorPowerUp ccal millivolts s
  | .inputPowerRestored => Sys2Proof.Machine.execInputPowerRestored s
  | .referenceRestored => Sys2Proof.Machine.execReferenceRestored s
  | .connectorClose e => Sys2Proof.Machine.execConnectorClose e s
  | .cacheEnableWrite enable => Sys2Proof.Machine.execCacheEnableWrite enable s
  | .jtagInstruction code => Sys2Proof.Machine.execJtagInstruction code s
  | .meterCalibrationChange data => Sys2Proof.Machine.execMeterCalibrationChange data s
  | .loggedCompletionMissed => Sys2Proof.Machine.execLoggedCompletionMissed s
  | .replayLoggedInput => Sys2Proof.Machine.execReplayLoggedInput s

end Sys2Proof.Machine
end

