-- ==== Sys2Proof/Machine/Tick.lean ====
section
/-! DEFINITION. What one HCLK cycle does with no command (R414, R482, R505, R554, R564; log entry 9). -/

namespace Sys2Proof.Machine

/-- Half a nanosecond for the supervisor: PWR_UPTIME advances by 10 in each AONCLK cycle, which is 20 HCLK cycles (R493, R505). -/
def State.passAon (s : State) : State :=
  if s.power.half + 1 < 20 then { s with power := { s.power with half := s.power.half + 1 } }
  else ({ s with power := { s.power with half := 0 } } : State).setFld .pwrUptimeUptime ((s.fld .pwrUptimeUptime + 10) % 2 ^ 64)

/-- Millionths of a TCLK phase that an HCLK cycle brings, and the state after (R483, R493): TCLK is a fifth of HCLK, and while the module slews
it, it runs off that by a free amount of at most 20 ppm towards the reference. -/
def State.tclkRate (s : State) : Nat × State :=
  match s.flag .sttStatusSlewing, s.station.offset with
  | true, some d => let r := s.draw; (if 0 < d then 1000000 - r.1.toNat % 21 else 1000000 + r.1.toNat % 21, r.2)
  | _, _ => (1000000, s)

/-- TCLK advances with HCLK. -/
def State.turnTclk (s : State) : State :=
  let r := s.tclkRate
  let p := r.2.station.phase + r.1
  if p < 5000000 then { r.2 with station := { r.2.station with phase := p, starts := false } }
  else ({ r.2 with station := { r.2.station with phase := p - 5000000, starts := true } } : State).passTclk

/-- What comes round with the cycle count: in Flow, where the hub's clocks run (R496), the trace and a log record every 16 HCLK cycles while one
waits; and TCLK. -/
def State.passHclk (s : State) : State :=
  let s := { s with hclk := s.hclk + 1 }
  let s := if s.inFlow then s.traceMove else s
  (if s.inFlow && s.hclk % 16 == 0 then s.rrMove else s).turnTclk

/-- One HCLK cycle: the hub's clocks stand still below Frost (R496). -/
def State.tick (s : State) : State := if s.psNow ≤ psFrost then s.passAon.passHclk else s.passAon

end Sys2Proof.Machine
end

