-- ==== Sys2Proof/Safety.lean ====
section
/-! DEFINITION. The terms of the statements: the canonical form of memory, what a command leaves unchanged, and the state of the host path
in which a register write is taken as it comes. -/

namespace Sys2Proof.Machine

/-- The canonical form of a memory. -/
abbrev Memory.wf (m : Tab Byte) : Prop := tabWf memReset m = true

/-- Device memory, host memory and the memory of every listed cell are in canonical form. -/
def State.MemOk (s : State) : Prop := Memory.wf s.mem ∧ Memory.wf s.host ∧ ∀ c ∈ s.cells, Memory.wf c.2.mem

/-- A run of the block is safe when each of its steps answers a next state. -/
def Safe (s : State) : Prop := ∃ t, step s = .next t

/-- The host path takes a write as it comes: the link is up after the configuration stage, the module is ready, and no low word is held (R14,
R471, R473, R474). -/
abbrev State.HostUp (s : State) : Prop := s.hostUp = true ∧ s.ready = true ∧ s.bus.held = none

/-- Bit i of the register at BAR0 offset a. -/
def State.regBit (s : State) (a i : Nat) : Bool := (tabGet regReset s.regs a).getLsbD i

/-- Every bit of every register outside the listed fields is as before. -/
def RegsBut (l : List (Fld × List Nat)) (s t : State) : Prop :=
  ∀ a i, (∀ x ∈ l, x.1.reg.addr x.2 = a → i < x.1.lo ∨ x.1.hi < i) → t.regBit a i = s.regBit a i

/-- The registers of t are those of s. -/
def RegsSame (s t : State) : Prop := ∀ a, tabGet regReset t.regs a = tabGet regReset s.regs a

/-- From s to t the listed fields take the listed values, and every other bit of every register is as before. -/
def RegsSet (l : List (Fld × List Nat × Nat)) (s t : State) : Prop :=
  (∀ x ∈ l, t.fld x.1 x.2.1 = x.2.2) ∧ RegsBut (l.map fun x => (x.1, x.2.1)) s t

/-- From s to t the listed fields take the listed values, and nothing else of the module changes. -/
def SetsOnly (l : List (Fld × List Nat × Nat)) (s t : State) : Prop := t = { s with regs := t.regs } ∧ RegsSet l s t

/-- What the reserved-access counter and its two registers take when one access is counted (R16, R17, R250, R564). -/
def counted (s : State) (n : Nat) (write misaligned bar2 : Bool) (off addr : Nat) : List (Fld × List Nat × Nat) :=
  [(.rsvCountCount, [], satAdd 32 (s.fld .rsvCountCount) n),
   (⟨.rsvLast, 63, 0⟩, [], b2n write * 2 ^ 31 + b2n misaligned * 2 ^ 30 + b2n bar2 * 2 ^ 29 + off), (⟨.rsvAddr, 63, 0⟩, [], addr)]

/-- The registers whose fields a host write stores, sets or clears by their access codes alone: they have no rule of their own for writes. -/
def storedRegs : List RegId :=
  [.hubIdentity, .hubNumStatus, .hubReady, .pwrClockPlan, .pwrPowerPlan, .pwrStatus, .pwrSense, .pwrBoot, .pwrHoldup, .pwrMeterTag,
   .pwrCount, .sttCfg, .sttRate, .sttVline, .sttStatus, .thawCount, .barrierStatus, .seqLoad, .fwStatus, .fwSwitch,
   .ctxStatus, .ctxCount, .ctxLate, .rcvCfg, .rcvStatus, .rcvCount, .talStatus, .queRate, .queBurst, .queTail, .queHead, .queStatus,
   .queCount, .kcxRingHead, .kcxRingStatus, .bceRingHead, .bceRingStatus, .motRingHead, .motRingStatus, .kcxCount, .kcxFaultCount,
   .bceCount, .motCount, .slbCell, .slbRetireCfg, .arithFlags, .accCtrl, .chkStatus, .chkCount, .memStatus, .memCount, .agFlags,
   .agCount, .vecCount, .srfStatus, .scaleFlags, .scaleCount, .scaleLast, .cseqFault, .cseqCount, .dmaFault, .dmaCount, .dbgBp,
   .cmdInvalid, .cmdSaturated, .cmdFlushed, .shelfStatus, .shelfCount, .portStatus, .portCount, .fabNode, .fabTree, .fabMembers,
   .fabTreeStatus, .chanStatus, .lasStatus, .lasWear, .lasRating, .outTail, .outStatus, .mdpCount, .dseqStatus, .dseqTrace,
   .traceStatus, .traceLost, .rsvCount, .rsvLast, .txnWait]

/-- A word that has come on a port is the next of its sequence, or the first since the port came up: it takes effect (R437). -/
def State.WordNext (s : State) (a : Nat) (seq : BitVec 16) : Prop :=
  s.portUp a = true ∧ ∀ l, (s.port a).got = some l → (seq.toNat + 65536 - l) % 65536 = 1

/-- A word on a port that is not up, or one of a sequence already acted on, is lost (R437, R441). -/
def State.WordLost (s : State) (a : Nat) (seq : BitVec 16) : Prop :=
  s.portUp a = false ∨ ∃ l, (s.port a).got = some l ∧
    ((seq.toNat + 65536 - l) % 65536 = 0 ∨ 32768 ≤ (seq.toNat + 65536 - l) % 65536)

/-- Bit i of a field after a host write of v with hardware events in the same cycle, by the field's access code (R11, R12). -/
def bitAfterWrite (acc : Access) (old v hwSet hwClear : Bool) : Bool :=
  match acc with
  | .rw => v
  | .w1c => (old && !hwClear && !v) || hwSet
  | .w1s => (old && !hwClear) || v || hwSet
  | _ => old

/-- Every cell but p is as before. -/
def CellsBut (p : Nat) (s t : State) : Prop := ∀ p', p' ≠ p → t.cell p' = s.cell p'

/-- Every byte of device memory outside the span of n bytes from a is as before. -/
def DevBut (a n : Nat) (s t : State) : Prop := ∀ x, (x < a ∨ a + n ≤ x) → t.devByte x = s.devByte x

/-- Every byte of device memory is as before. -/
def DevSame (s t : State) : Prop := ∀ x, t.devByte x = s.devByte x

/-- Every byte of a cell's memory outside the span of n bytes from a is as before. -/
def CellBut (a n : Nat) (c d : Cell) : Prop := ∀ x, (x < a ∨ a + n ≤ x) → tabGet memReset d.mem x = tabGet memReset c.mem x

/-- The fields that counted elements change on their cell (R68 to R70, R550). -/
def countFlds : List Fld :=
  [.arithFlagsInvalid, .arithFlagsSaturated, .arithFlagsFlushed, .cmdInvalidCount, .cmdSaturatedCount, .cmdFlushedCount]

/-- From s to t only cell p, the listed fields of its registers, the trace with its lost count, and the free-value counter change. -/
def CellOnly (p : Nat) (l : List Fld) (s t : State) : Prop :=
  t = { s with regs := t.regs, cells := t.cells, trace := t.trace, draws := t.draws } ∧ CellsBut p s t ∧
    RegsBut ((.traceLostCount, []) :: l.map fun f => (f, cellIx p)) s t

/-- Of a cell only its memory, its tag counters, the instructions in flight and the queues of its units may differ. -/
def UnitStep (c d : Cell) : Prop :=
  d = { c with mem := d.mem, tags := d.tags, inflight := d.inflight, arrayQ := d.arrayQ, vectorQ := d.vectorQ, agQ := d.agQ, dmaQ := d.dmaQ }

/-- The values and events of a bank have its size. -/
def Bank.shaped (k : Bank) : Prop :=
  k.data.length = k.m ∧ k.ev.length = k.m ∧ (∀ r ∈ k.data, r.length = k.n) ∧ ∀ r ∈ k.ev, r.length = k.n

/-- An integer bank whose checksum column, row and corner are the sums of what it holds (R88). -/
def Bank.sound (k : Bank) : Prop :=
  k.cls = .integer ∧ k.shaped ∧ k.chkCol = k.data.map List.sum ∧ k.chkRow.length = k.n ∧
    (∀ j, j < k.n → k.chkRow.getD j 0 = (k.data.map (·.getD j 0)).sum) ∧ k.corner = k.chkCol.sum ∧ k.magCol.length = k.m ∧
    k.magRow.length = k.n

/-- The fields that a drain changes on its cell (R68, R93 to R95, R99, R100). -/
def drainFlds : List Fld :=
  countFlds ++ [.chkStatusRowMismatch, .chkStatusColMismatch, .chkStatusUnchecked, .chkStatusFirstRow, .chkStatusFirstCol,
    .chkCountFailedDrains, .chkCountUnchecked, .arithFlagsFreezeOverflow, .dbgStatusByChecksum]

/-- Byte a of a cell's memory as a signed number. -/
def Cell.i8 (c : Cell) (a : Nat) : Int := (tabGet memReset c.mem a).toInt

/-- The unit queue u has given up its head, and the instruction is in flight or done; the other queues are as before. -/
def Issued (u : CellUnit) (q : QIns) (rest : List QIns) (c d : Cell) : Prop :=
  UnitStep c d ∧ d.queueOf u = rest ∧ (∀ u', u' ≠ u → d.queueOf u' = c.queueOf u') ∧
    d.inflight.map (·.id) = c.inflight.map (·.id) ++ [q.id]

/-- A refusal at issue on cell p (R67, R208, R210): nothing is written, operand_refused stands, every queue is empty, and the command
completes with at least status 0x02; the fault register takes the refusal where it holds no earlier fault. -/
def Refused (p slot : Nat) (q : QIns) (s t : State) : Prop :=
  t = { s with regs := t.regs, cells := t.cells } ∧ CellsBut p s t ∧
    RegsBut ([Fld.arithFlagsOperandRefused, .cseqFaultValid, .cseqFaultCause, .cseqFaultSlot, .cseqFaultRecord, .cseqFaultBundle].map
      fun f => (f, cellIx p)) s t ∧
    t.cflag .arithFlagsOperandRefused p = true ∧
    (s.cflag .cseqFaultValid p = false → t.cflag .cseqFaultValid p = true ∧ t.cfld .cseqFaultCause p = 9 ∧
      t.cfld .cseqFaultSlot p = slot ∧ (q.bundle < 4096 → t.cfld .cseqFaultBundle p = q.bundle)) ∧
    (t.cell p).mem = (s.cell p).mem ∧ (∀ u, (t.cell p).queueOf u = []) ∧ (t.cell p).signals = [] ∧
    (t.cell p).inflight = (s.cell p).inflight ∧ (t.cell p).run.state = .completing ∧ ∃ e, (t.cell p).ended = some e ∧ 2 ≤ e

/-- The fields that light and training change: of the ports, of fabric start, and of the tree where the root then releases (R412, R413, R440,
R441). -/
def lightFlds : List (Fld × List Nat) :=
  (Fld.barrierStatusFabricStarted, []) :: (.fabTreeStatusRootDelay, []) :: (.fabTreeStatusHorizonShort, []) ::
    (List.range 24).flatMap fun a => [(.portStatusState, [a]), (.portStatusLanesUp, [a]), (.portStatusSpareUsed, [a])]

/-- Every port follows its light (R440): a dark one that is lit trains, one without light is dark, and a lit one of the list
trains again (R441). -/
def PortsFollowLight (own : List Nat) (s t : State) : Prop :=
  ∀ a, a < 24 → t.portState a = if t.portLit a then (if s.portState a = 0 ∨ (a ∈ own ∧ s.portUp a = true) then 1 else s.portState a) else 0

/-- The fields of a laser module and its partner that a loss of light changes. -/
def shutFlds (m : Nat) : List (Fld × List Nat) :=
  lightFlds ++ [(.lasStatusState, [m]), (.lasStatusBias, [m]), (.lasStatusState, [partner m]), (.lasStatusBias, [partner m])]

/-- A lit laser module is dark and failed, its partner feeds its engines across where it was in service, and the ports of its own
engines relock (R452, R453, R455). -/
def LaserShut (m : Nat) (s t : State) : Prop :=
  t.lasState m = 6 ∧ t.fld .lasStatusBias [m] = 0 ∧
    t.laser m = { s.laser m with bias := 0, tries := (t.laser m).tries, removing := false, takeUp := false } ∧
    (s.lasState (partner m) = 2 → t.lasState (partner m) = 3 ∧
      t.fld .lasStatusBias [partner m] = s.fld .lasRatingCrossBias [partner m]) ∧
    (s.lasState (partner m) ≠ 2 → t.lasState (partner m) = s.lasState (partner m) ∧
      t.fld .lasStatusBias [partner m] = s.fld .lasStatusBias [partner m]) ∧ PortsFollowLight (ownPorts m) s t

/-- The island has logged a record of a type (R507, R512): it has the next sequence. While the hold-up line is asserted the 16 oldest buffered
records are in the log, this one among them where it is one of the 16; otherwise it waits behind those of the buffer. -/
def IslandLogged (type : Nat) (data : BitVec 64) (s t : State) : Prop :=
  let r := islandRecord s.island type data
  let l := s.island.buffer ++ [r]
  t.island.seq = (s.island.seq + 1) % 2 ^ 32 ∧
    (s.holdupLine = true → t.island.buffer = l.drop islandSession ∧
      (s.island.buffer.length < islandSession → tabGet recReset t.island.log (s.island.seq % islandRing) = r)) ∧
    (s.holdupLine = false → t.island.buffer = l ∧ t.island.log = s.island.log)

end Sys2Proof.Machine
end

