-- ==== Sys2Proof/Certificates/Slice0/Obligations.lean ====
section
/-! DEFINITION. The statements for the provers. Each says what commands do: the state they answer, what it holds, and what is unchanged. -/

open Sys2Proof Sys2Proof.Machine

/-- A step with a command at the front of the queue is that command on the state with the queue's rest (the block's form of a step, log entry 9). Rests on 08_sequencers_queues_and_streaming.md. -/
def Obligations.StepRunsFront : Prop :=
  ∀ (c : Instr) (rest : List Instr) (s : State), step { s with pending := c :: rest } = exec c { s with pending := rest }

/-- With no command waiting a step is one HCLK cycle: below Frost the cycle count stands still; only a log record on its way reaches memory, and only the frame of an exposure pulse reaches queues and contexts (the idle step is the model's choice, log entry 9). Rests on 19_debug_and_counters.md, 17_power_clocks_and_metering.md, 16_host_link_media_ports_station_time.md. -/
def Obligations.IdleStepIsOneCycle : Prop :=
  ∀ s : State, s.pending = [] →
    ∃ t, step s = .next t ∧ t.hclk = s.hclk + (if s.fld .pwrStateCurrent ≤ 2 then 1 else 0) ∧ t.host = s.host ∧ t.seqs = s.seqs ∧
      t.tallyPend = s.tallyPend ∧ t.jobs = s.jobs ∧ t.part = s.part ∧ t.pending = [] ∧
      (t.regRead .dbgTime []).toNat = t.hclk % 2 ^ 64 ∧
      (s.rr.buffer = [] → t.mem = s.mem ∧ t.cells = s.cells) ∧
      (s.station.edge ≠ some 1 → t.queues = s.queues ∧ t.ctxs = s.ctxs)

/-- What reset leaves, where the manual gives a value: no command waits, memory lists nothing, no cell is owned, the module is not ready, the PTP domain is 127, every register reads the reset value of its row, and each grade has its active and spare cells (which logical index an active cell serves is the model's choice, log entry 3). Rests on 00_scope.md, 01_architecture.md, 08_sequencers_queues_and_streaming.md, 16_host_link_media_ports_station_time.md. -/
def Obligations.ResetFollowsTheManual : Prop :=
  State.reset.pending = [] ∧ State.reset.mem = [] ∧ State.reset.host = [] ∧ State.reset.cells = [] ∧
    (∀ n : Fin 4, State.reset.regRead .cellOwner [n] = 0) ∧ State.reset.regRead .hubReady [] = 0 ∧
    State.reset.fld .sttCfgDomain = 127 ∧ State.reset.regRead .talValue [0] = 0 ∧ State.reset.flag .queCfgEnable [0] = false ∧
    (∀ off r ix, regAt off = some (r, ix) → r ≠ .slbCell → tabGet regReset State.reset.regs off = BitVec.ofNat 64 r.row.reset) ∧
    ∀ (part : Part) (p : Fin 36),
      let n := match part.grade with | .evs9410 => 8 | .evs9408 => 7
      (State.resetOf part).cfld .slbCellState p = (if (p : Nat) % 9 < n then slbActive else slbSpareReady) ∧
      ((p : Nat) % 9 < n → (State.resetOf part).cfld .slbCellLogical p = n * ((p : Nat) / 9) + (p : Nat) % 9)

/-- At reset device memory, host memory and every cell memory are in canonical form. Rests on 04_cell_memory_and_address_generation.md, 09_memory_tiers_and_integrity.md. -/
def Obligations.ResetMemoryIsCanonical : Prop :=
  State.reset.MemOk

/-- Every step keeps device memory, host memory and every cell memory in canonical form: addresses strictly rise and no listed byte equals what an unlisted one reads as (log entry 6 gives that value). Rests on 04_cell_memory_and_address_generation.md, 09_memory_tiers_and_integrity.md. -/
def Obligations.EveryStepKeepsMemoryCanonical : Prop :=
  ∀ s t : State, s.MemOk → step s = .next t → t.MemOk

/-- No command changes what the part is or touches the queue of waiting commands: HUB_IDENTITY reads the same after every step (R6). Rests on 01_architecture.md. -/
def Obligations.EveryCommandKeepsPartAndQueue : Prop :=
  ∀ (c : Instr) (s t : State), exec c s = .next t →
    t.part = s.part ∧ t.pending = s.pending ∧ t.regRead .hubIdentity [] = s.regRead .hubIdentity []

/-- REGISTER_WRITE of a 32-bit register that has no rule of its own: RW bits take the value, each 1 clears a W1C bit and sets a W1S bit, RO, WO and RC bits keep theirs, and a hardware event in the same cycle wins over the clear (R11, R12). Rests on 01_architecture.md, 16_host_link_media_ports_station_time.md. -/
def Obligations.RegisterWritesFollowTheAccessCodes : Prop :=
  ∀ (off : BitVec 28) (val hwSet hwClear : BitVec 64) (s : State) (r : RegId) (ix : List Nat),
    s.HostUp → off.toNat % 4 = 0 → barWord off.toNat = .single r ix → r ∈ storedRegs →
    ∃ t, exec (.registerWrite off false val hwSet hwClear) s = .next t ∧ t = { s with regs := t.regs } ∧
      (∀ f ∈ r.row.fields, ∀ i, f.lo ≤ i → i ≤ f.hi → t.regBit (r.addr ix) i =
        bitAfterWrite f.acc (s.regBit (r.addr ix) i) (val.getLsbD i) (hwSet.getLsbD i) (hwClear.getLsbD i)) ∧
      (∀ i, (∀ f ∈ r.row.fields, i < f.lo ∨ f.hi < i) → t.regBit (r.addr ix) i = s.regBit (r.addr ix) i) ∧
      ∀ a, a ≠ r.addr ix → tabGet regReset t.regs a = tabGet regReset s.regs a

/-- READ_CLEAR returns the register and leaves in its RC fields only the events that land in the cycle of the read; every other bit keeps its value (R11, R12). Rests on 01_architecture.md. -/
def Obligations.ReadsClearRcFields : Prop :=
  ∀ (off : BitVec 28) (late : BitVec 64) (s : State) (r : RegId) (ix : List Nat),
    s.hostUp = true → s.ready = true → off.toNat % 4 = 0 → barWord off.toNat = .single r ix →
    ∃ t, exec (.readClear off false late) s = .next t ∧ t = { s with regs := t.regs, bus := t.bus } ∧
      t.bus.lastRead = leBytes 4 ((s.regRead r ix).toNat % 2 ^ 32) ∧ t.bus.latch = none ∧ t.bus.held = s.bus.held ∧
      (∀ f ∈ r.row.fields, f.hi < 32 → ∀ i, f.lo ≤ i → i ≤ f.hi →
        t.regBit (r.addr ix) i = if f.acc = .rc then late.getLsbD i else s.regBit (r.addr ix) i) ∧
      (∀ i, (∀ f ∈ r.row.fields, i < f.lo ∨ f.hi < i) → t.regBit (r.addr ix) i = s.regBit (r.addr ix) i) ∧
      ∀ a, a ≠ r.addr ix → tabGet regReset t.regs a = tabGet regReset s.regs a

/-- SPLIT_64_ACCESS: writing the low word and then the high word of a 64-bit register is one atomic 64-bit write, and a high word read after its low word is the one latched with it (R14); a write of a half of an MTR_ register is discarded and counted (R513). Rests on 01_architecture.md, 17_power_clocks_and_metering.md. -/
def Obligations.HalvesOfARegisterActAsOne : Prop :=
  ∀ (lo hi : BitVec 28) (l h : BitVec 32) (s : State) (r : RegId) (ix : List Nat),
    s.HostUp → lo.toNat % 8 = 0 → hi.toNat = lo.toNat + 4 → barWord lo.toNat = .low r ix → barWord hi.toNat = .high r ix →
    (r.islandOnly = false →
      ∃ t, exec (.split64Access lo true l) s = .next t ∧ t = { s with bus := { s.bus with held := some (r.addr ix, l) } } ∧
        ∃ u, exec (.split64Access hi true h) t = .next u ∧ exec (.registerWrite lo true (h ++ l) 0 0) s = .next u) ∧
    (r.islandOnly = true →
      (∃ t, exec (.split64Access lo true l) s = .next t ∧ SetsOnly (counted s 1 true false false lo.toNat 0) s t) ∧
      ∃ t, exec (.split64Access hi true h) s = .next t ∧ SetsOnly (counted s 1 true false false hi.toNat 0) s t) ∧
    ∃ t, exec (.split64Access lo false l) s = .next t ∧ t = { s with regs := t.regs, bus := t.bus } ∧
      t.bus.lastRead = leBytes 4 ((s.regRead r ix).toNat % 2 ^ 32) ∧
      ∃ u, exec (.split64Access hi false h) t = .next u ∧ u.bus.lastRead = leBytes 4 ((s.regRead r ix).toNat / 2 ^ 32)

/-- RESERVED_ACCESS: a read of reserved BAR0 space returns zero, a write is discarded, and the access is counted; a 64-bit access is counted once for each of its words (R13). Rests on R16. -/
def Obligations.ReservedSpaceReadsZeroAndIsCounted : Prop :=
  ∀ (off : BitVec 28) (val : BitVec 64) (s : State), s.hostUp = true → s.bus.held = none → off.toNat % 4 = 0 →
    barWord off.toNat = .reserved →
    (∃ t, exec (.reservedAccess off false false val) s = .next t ∧
      t = { s with regs := t.regs, bus := { s.bus with lastRead := [0, 0, 0, 0] } } ∧
      RegsSet (counted s 1 false false false off.toNat 0) s t) ∧
    (∃ t, exec (.reservedAccess off false true val) s = .next t ∧ SetsOnly (counted s 1 true false false off.toNat 0) s t) ∧
    (off.toNat % 8 = 0 → barWord (off.toNat + 4) = .reserved →
      ∃ t, exec (.reservedAccess off true true val) s = .next t ∧
        SetsOnly (counted s 2 true false false (off.toNat + 4) 0) s t) ∧
    (off.toNat % 8 = 0 → barWord (off.toNat + 4) = .reserved →
      ∃ t, exec (.reservedAccess off true false val) s = .next t ∧ t = { s with regs := t.regs, bus := t.bus } ∧
        t.bus.lastRead = List.replicate 8 0 ∧ RegsSet (counted s 2 false false false (off.toNat + 4) 0) s t)

/-- MISALIGNED_ACCESS: a BAR0 access of another width or alignment reads 0xFF in every byte, writes nothing, and is counted with the reserved accesses; the MSI-X structures, to which R17 does not apply (R578), read a free value there and are not counted (log entry 58). Rests on R17. -/
def Obligations.MisalignedAccessesReadOnesAndAreCounted : Prop :=
  ∀ (off : BitVec 28) (bytes : Nat) (s : State), s.hostUp = true → s.bus.held = none →
    ((bytes ≠ 4 ∧ bytes ≠ 8) ∨ off.toNat % bytes ≠ 0) →
    (inMsix off.toNat = false →
      (∃ t, exec (.misalignedAccess off bytes false) s = .next t ∧
        t = { s with regs := t.regs, bus := { s.bus with lastRead := List.replicate bytes 0xFF } } ∧
        RegsSet (counted s 1 false true false off.toNat 0) s t) ∧
      ∃ t, exec (.misalignedAccess off bytes true) s = .next t ∧ SetsOnly (counted s 1 true true false off.toNat 0) s t) ∧
    (inMsix off.toNat = true →
      (∃ t, exec (.misalignedAccess off bytes false) s = .next t ∧
        t = { s with draws := s.draws + 1, bus := { s.bus with lastRead := t.bus.lastRead } } ∧ t.bus.lastRead.length = bytes) ∧
      exec (.misalignedAccess off bytes true) s = .next s)

/-- BAR2_ACCESS: a write stores its bytes at the base plus the offset and a read returns them, but for the bytes in holes, which read zero and are not written; an access with one is counted once with its BAR2 offset (R250). A shelf group that is not attached, ends below the access or waits for a detach refuses it with its flag and its count (R258, R260), and one that takes it has a transaction for each 256 bytes (R259). Rests on 09_memory_tiers_and_integrity.md, 20_connectors_ratings_and_address_map.md. -/
def Obligations.ApertureReachesMemoryAndSkipsHoles : Prop :=
  ∀ (off : BitVec 36) (len : Nat) (data : Option (List Byte)) (s : State),
    (s.hostUp = false → exec (.bar2Access off len data) s = .next s) ∧
    (s.hostUp = true →
      let a := s.bar2Base off.toNat
      let n := match data with | some bs => bs.length | none => len
      let hole := (List.range n).any fun i => s.bar2Hole (a + i)
      let refuses := fun g => (List.range n).any fun i => shelfWindow (a + i) == some g && (s.shelfShut g || s.place (a + i) == .hole)
      let takes := fun g i => match s.place (a + 256 * i) with | .tier3 g' _ => g' == g && !s.shelfShut g | _ => false
      ((∀ i, i < n → ∀ p, s.windowCell (a + i) = some p → s.cfld .memStatusClearBusy p = 0) →
        ∃ t, exec (.bar2Access off len data) s = .next t ∧
          t = { s with regs := t.regs, mem := t.mem, cells := t.cells, shelves := t.shelves, bus := t.bus } ∧
          RegsSet ((if hole then counted s 1 data.isSome false true 0 off.toNat else []) ++ ([0, 1].filter refuses).flatMap fun g =>
            [(.shelfStatusAccessRefused, [g], 1), (.shelfCountRefused, [g], satAdd 16 (s.fld .shelfCountRefused [g])
              (s.fld .shelfStatusDetachPending [g]))]) s t ∧
          (∀ bs, data = some bs → t.bus = s.bus ∧ ∀ x, t.devByte x =
            if a ≤ x ∧ x < a + n ∧ s.bar2Hole x = false then bs.getD (x - a) 0 else s.devByte x) ∧
          (data = none → t.mem = s.mem ∧ t.cells = s.cells ∧ t.bus = { s.bus with lastRead :=
            ((List.range n).map fun i => if s.bar2Hole (a + i) then 0 else s.devByte (a + i)) }) ∧
          ∀ g, g < 2 → ∃ new, (t.shelf g).txns = (s.shelf g).txns ++ new ∧ (t.shelf g).parked = (s.shelf g).parked ∧
            new.length = ((List.range (ceilDiv n 256)).filter (takes g)).length ∧ ∀ x ∈ new, x.owner = none ∧ x.late = false) ∧
      (∀ c o p, (∀ i, i < n → s.place (a + i) = .window c (o + i)) → s.cellOf c = some p → 0 < n →
        s.cfld .memStatusClearBusy p = 1 → (s.cell p).cmd = none →
        let gone := fun (k x : Nat) => decide (2048 * (s.cell p).cleared ≤ x) && decide (x < 2048 * k)
        ∃ t k, exec (.bar2Access off len data) s = .next t ∧ k ≤ Nat.max 12288 (s.cell p).cleared ∧ (s.cell p).cleared ≤ k ∧
          t = { s with draws := s.draws + 1, cells := t.cells, bus := t.bus } ∧ CellsBut p s t ∧
          t.cell p = { s.cell p with mem := (t.cell p).mem, cleared := k } ∧
          (∀ bs, data = some bs → t.bus = s.bus ∧ ∀ x, tabGet memReset (t.cell p).mem x =
            if o ≤ x ∧ x < o + n then bs.getD (x - o) 0 else if gone k x then 0 else tabGet memReset (s.cell p).mem x) ∧
          (data = none → t.bus = { s.bus with lastRead :=
            ((List.range n).map fun i => if gone k (o + i) then 0 else tabGet memReset (s.cell p).mem (o + i)) })))

/-- While ready reads 0 a host write of a register outside HUB_, PWR_, STT_ and HST_ is discarded and counted, and before the configuration stage or with the link down nothing arrives (R471, R473, R474). Rests on 16_host_link_media_ports_station_time.md. -/
def Obligations.UnreadyModuleDiscardsWrites : Prop :=
  ∀ (s : State) (q : Fin 4096) (p : Fin 36) (c : Fin 64) (g : Fin 2) (a : Fin 24) (h : Fin 256) (v : BitVec 32) (e : Fin 4096)
    (w : BitVec 64), s.bus.held = none →
    ∀ x ∈ ([(.queCfgWrite q v, RegId.addr .queCfg [(q : Nat)]), (.queueFlush q, RegId.addr .queCtrl [(q : Nat)]),
        (.talValueWrite e ⟨v, 0, []⟩, RegId.addr .talValue [(e : Nat)]), (.talAddWrite e ⟨v, 0, []⟩, RegId.addr .talAdd [(e : Nat)]),
        (.memClear p v, RegId.addr .memCtrl (cellIx p)), (.chkInjectArm p v, RegId.addr .chkInject (cellIx p)),
        (.cellHalt p, RegId.addr .dbgCtrl (cellIx p)), (.ctxCreate c, RegId.addr .ctxCtrl [(c : Nat)]),
        (.shelfAttach g, RegId.addr .shelfCtrl [(g : Nat)]), (.portRetrain a, RegId.addr .portCtrl [(a : Nat)]),
        (.channelEnable h v, RegId.addr .chanCfg [(h : Nat)]), (.scaleWindowWrite p e w, RegId.addr .srfEntry (cellIx p ++ [(e : Nat)])),
        (.traceClear, RegId.addr .traceCtrl [])] : List (Instr × Nat)),
      (s.hostUp = true → s.ready = false →
        ∃ t, exec x.1 s = .next t ∧ SetsOnly (counted s 1 true false false (x.2 % 2 ^ 28) 0) s t) ∧
      (s.hostUp = false → exec x.1 s = .next s)

/-- DOORBELL: a tail behind the current one, or one that would place more than 2^s entries between head and tail, or one for a disabled queue or an unready module, is discarded and recorded; any other becomes the tail (R218). A replay takes the doorbells of immediate queues from its log (R417), a recording logs them (R416), and one taken below Flow arrives with the re-entry (R499). Rests on 08_sequencers_queues_and_streaming.md, 14_determinism_and_freeze_mode.md, 17_power_clocks_and_metering.md. -/
def Obligations.DoorbellIsTakenOrRefused : Prop :=
  ∀ (q : Fin 4096) (tail : BitVec 32) (s : State), s.bus.held = none →
    let immediate := s.flag .queCfgAdmitMode [q] = false
    let bad := (tail - BitVec.ofNat 32 (s.fld .queTailTail [q])).toInt < 0 ∨
      2 ^ s.fld .queCfgLog2Size [q] < (tail - BitVec.ofNat 32 (s.fld .queHeadHead [q])).toNat ∨
      s.fld .queCfgEnable [q] = 0 ∨ s.ready = false
    (s.hostUp = false → exec (.doorbell q tail) s = .next s) ∧
    (s.hostUp = true → s.replaying = true → immediate → exec (.doorbell q tail) s = .next s) ∧
    (s.hostUp = true → (s.replaying = false ∨ ¬ immediate) →
      (bad → ∃ t, exec (.doorbell q tail) s = .next t ∧
        SetsOnly [(.queStatusDoorbellRefused, [(q : Nat)], 1),
          (.queCountDoorbellsRefused, [(q : Nat)], satAdd 16 (s.fld .queCountDoorbellsRefused [q]) 1)] s t) ∧
      (¬ bad → ∃ t, exec (.doorbell q tail) s = .next t ∧ t.fld .queTailTail [q] = tail.toNat ∧
        t = { s with regs := t.regs, rr := t.rr } ∧ RegsBut [(.queTailTail, [(q : Nat)]), (.rrStatusOverflow, [])] s t ∧
        (¬ immediate → t.rr = s.rr) ∧
        (immediate → s.inFlow = false → t.rr = { s.rr with doorbells := s.rr.doorbells ++ [((q : Nat), tail.toNat)] }) ∧
        (immediate → s.inFlow = true → s.recording = false → t.rr = s.rr) ∧
        (immediate → s.inFlow = true → s.recording = true → s.rr.lost = 0 → s.rr.buffer.length < rrDepth →
          t.rr = { s.rr with buffer := s.rr.buffer ++ [s.rrRecord 3 q 0 tail.toNat 0] })))

/-- QUEUE_ENTRY_FETCH: an entry that fails its check halts the queue with entry_fault and stays at the head; a NOP entry advances the head and takes no place; a command or table-load entry advances the head and is staged (R217, R220, R221). Rests on 08_sequencers_queues_and_streaming.md. -/
def Obligations.QueueFetchesItsNextEntry : Prop :=
  ∀ (q : Fin 4096) (s : State), s.mayFetch q = true →
    let head := s.fld .queHeadHead [q]
    let e := BitVec.ofNat 512 (s.devNat (s.fld .queBaseBase [q] * 64 + 64 * (head % 2 ^ s.fld .queCfgLog2Size [q])) 64)
    let a := (s.queue q).admitOf head
    ∃ t, exec (.queueEntryFetch q) s = .next t ∧ t.mem = s.mem ∧ t.cells = s.cells ∧ t.host = s.host ∧
      (∀ q' : Nat, q' ≠ (q : Nat) → t.queue q' = s.queue q') ∧
      (s.entryOk head e = false →
        t.fld .queHeadHead [q] = head ∧ t.flag .queStatusEntryFault [q] = true ∧ t.qHalted q = true ∧ t.queues = s.queues) ∧
      (s.entryOk head e = true → t.fld .queHeadHead [q] = (head + 1) % 2 ^ 32 ∧ t.qHalted q = false ∧
        RegsBut [(.queHeadHead, [(q : Nat)]), (.queStatusOutstanding, [(q : Nat)])] s t ∧
        (wordF e 0 7 0 = 0 → (t.queue q).staged = (s.queue q).staged) ∧
        (wordF e 0 7 0 ≠ 0 →
          (t.queue q).staged = (s.queue q).staged ++ [Staged.new head (wordF e 0 7 0) (wordF e 8 47 0) a.1 a.2]))

/-- COMMAND_LOAD takes a checked command into the free store halves of every cell of its mask, ends one whose descriptor fails or whose frame is dropped, and reads the images of a retry or a recovery command again; COMMAND_READY makes a command whose images pass their load checks and digests ready, and ends one whose images do not (R173, R187, R222, R224, R226, R371, R524). Rests on 08_sequencers_queues_and_streaming.md, 07_cell_instruction_set.md, 06_scales_and_quantisation.md. -/
def Obligations.CommandsAreLoadedAndMadeReady : Prop :=
  (∀ (q : Fin 4096) (s : State) (e : Staged), s.gated = false → s.loadNext q = some e → s.seqHalted (s.qSeq q) = false →
    s.loadBusy (s.qSeq q) = false →
    (e.recovering = false → e.reload = false →
      let w := BitVec.ofNat 1024 (s.devNat e.desc 128)
      let v := s.checkDesc q e.desc w
      let room := s.loadRoom ((maskCells (descMask w)).filterMap s.cellOf)
      (v.status ≠ 0 ∨ e.dropped = true → ∃ t, exec (.commandLoad q) s = .next t ∧ t = { s with queues := t.queues, regs := t.regs } ∧
        RegsBut [(.queStatusTokenWait, [(q : Nat)])] s t ∧
        ∃ x, t.stagedAt q e.index = some x ∧ x.phase = .done ∧ x.status = if v.status ≠ 0 then v.status else 10) ∧
      (v.status = 0 → e.dropped = false → room = true →
        ∃ t, exec (.commandLoad q) s = .next t ∧ t = { s with queues := t.queues, cells := t.cells } ∧
          (∀ l ∈ maskCells (descMask w), ∀ p, s.cellOf l = some p →
            ∃ m, (t.cell p).loaded = some m ∧ m.queue = (q : Nat) ∧ m.index = e.index ∧ (t.cell p).cmd = (s.cell p).cmd) ∧
          (∀ p : Nat, (∀ l ∈ maskCells (descMask w), s.cellOf l ≠ some p) → t.cell p = s.cell p) ∧
          ∃ x, t.stagedAt q e.index = some x ∧ x.phase = .loading) ∧
      (v.status = 0 → e.dropped = false → room = false → exec (.commandLoad q) s = .next s)) ∧
    (e.recovering = true ∨ e.reload = true →
      let st := if e.reload then 0 else s.checkRecovery q e.run e.word
      (st ≠ 0 → ∃ t, exec (.commandLoad q) s = .next t ∧ t = { s with queues := t.queues, regs := t.regs } ∧
        RegsBut [(.queStatusTokenWait, [(q : Nat)])] s t ∧
        ∃ x, t.stagedAt q e.index = some x ∧ x.phase = .done ∧ x.status = Nat.max 1 st) ∧
      (st = 0 → ∃ t, exec (.commandLoad q) s = .next t ∧ t = { s with queues := t.queues, cells := t.cells } ∧
        (∀ p : Nat, t.cell p = { s.cell p with istore := (t.cell p).istore, rstore := (t.cell p).rstore }) ∧
        ∃ x, t.stagedAt q e.index = some x ∧ x.phase = .loading ∧
          x.loads.map (·.1) = (maskCells (descMask e.run)).filterMap s.cellOf))) ∧
  ∀ (q : Fin 4096) (s : State) (e : Staged), s.gated = false →
    ((s.queue q).staged.find? fun e => e.phase == .loading && e.kind == 1) = some e →
    let code := fun l : Nat × CellCmd => Nat.max (if loadCheck ((s.cell l.1).image l.2).1 ((s.cell l.1).image l.2).2 = none then 0 else 6)
      (if digest64 (imageBytes ((s.cell l.1).image l.2)) = l.2.digest then 0 else 7)
    let worst := e.loads.foldl (fun a l => Nat.max a (code l)) 0
    (worst = 0 →
      ∃ t, exec (.commandReady q) s = .next t ∧ t = { s with queues := t.queues, ctxs := t.ctxs, regs := t.regs } ∧
        RegsBut [(.queStatusTokenWait, [(q : Nat)]), (.ctxLateTimingLost, [s.qCtx q])] s t ∧
        (∃ x, t.stagedAt q e.index = some x ∧ x.phase = .ready ∧ x.reload = false) ∧
        (s.maintained q e.frame = false → t.ctxs = s.ctxs ∧ (t.queue q).staged =
          updFirst (fun x => x.index == e.index) (fun x => { x with phase := .ready, reload := false }) (s.queue q).staged)) ∧
    (worst ≠ 0 →
      ∃ t, exec (.commandReady q) s = .next t ∧ t = { s with queues := t.queues, cells := t.cells, regs := t.regs } ∧
        (∀ p : Nat, t.cell p = { s.cell p with loaded := (t.cell p).loaded }) ∧
        ∃ x, t.stagedAt q e.index = some x ∧ x.phase = .done ∧ x.status = worst ∧ x.reload = false ∧ x.results = [])

/-- COMMAND_START: a sequencer starts the first command in scan order that may start: it runs on every cell it was loaded into, its entry runs, and the scan goes on from its queue (R206, R214, R228). Rests on 08_sequencers_queues_and_streaming.md, 13_streams_rate_and_partitioning.md. -/
def Obligations.CommandStartTakesItsCells : Prop :=
  ∀ (n : Fin 8) (s : State) (q : Nat) (e : Staged), s.seqHalted n = false → (∀ q' ∈ s.scanOrder n, s.costRefused q' = none) →
    s.scan (s.scanOrder n) = some (q, e) → s.bpEntry n q e.index none = none → (e.loads.map (·.1)).Nodup →
    ∃ t, exec (.commandStart n) s = .next t ∧ t.mem = s.mem ∧ t.host = s.host ∧ t.seq n = ⟨q, none⟩ ∧
      (∃ x, t.stagedAt q e.index = some x ∧ x.phase = .running ∧ x.status = 0) ∧
      (∀ l ∈ e.loads, (t.cell l.1).run.state = .running ∧ (t.cell l.1).run.bundle = 0 ∧ (t.cell l.1).mem = (s.cell l.1).mem ∧
        ∃ m, (t.cell l.1).cmd = some m ∧ m.queue = l.2.queue ∧ m.index = l.2.index ∧ m.half = l.2.half ∧ m.mode = l.2.mode) ∧
      ∀ p : Nat, (∀ l ∈ e.loads, l.1 ≠ p) → t.cell p = s.cell p

/-- COMMAND_COMPLETE: the record lies at the status address before the done tally is signalled, the entry gives back its place, the status is shown, and a halting status halts the queue; a command with last_of_frame ends its frame and is the boundary at which owners change (R213, R217, R224, R225, R584). Rests on 08_sequencers_queues_and_streaming.md. -/
def Obligations.CommandCompletionWritesItsRecord : Prop :=
  ∀ (q : Fin 4096) (s : State) (e : Staged), s.gated = false → s.headEntry q = some e → e.kind = 1 → e.concluded = true →
    s.retries q e = false → e.recovers = false →
    let a := wordF e.word 0x10 47 0
    let st := if e.recovering then Nat.max 1 e.status else e.status
    let plain := e.phase = .done ∨ e.results = [] ∨ descStatsMask e.run = 0
    ∃ t cycles, exec (.commandComplete q) s = .next t ∧ t.host = s.host ∧
      (e.noRecord = false → s.spanLoadable a 32 = true →
        (∀ i, i < 32 → t.devByte (a + i) = (s.completionRecord q e.index st cycles (commandClosing e) (s.timingOf q e)).getD i 0) ∧
        (plain → DevBut a 32 s t)) ∧
      (e.noRecord = true → plain → DevSame s t) ∧
      t.tallyPend = s.tallyPend ++ (if e.noRecord then [] else [⟨none, wordF e.word 0x34 11 0, wordF e.word 0x34 24 12 + 1⟩]) ∧
      (t.queue q).staged.map (·.index) = (dropFirst (fun x => x.index == e.index) (s.queue q).staged).map (·.index) ∧
      t.fld .queStatusLastStatus [q] = st % 256 ∧
      (t.qHalted q = true ↔ s.qHalted q = true ∨ (st ≠ 0 ∧ st ≠ 1 ∧ st ≠ 10)) ∧
      t.owners = (if descLast e.word then s.owners.map fun x => (x.1, { x.2 with due := t.ownerFree x.1 }) else s.owners) ∧
      (descLast e.word = true → e.frame ≠ 0 → ∀ f ∈ (t.ctx (s.qCtx q)).frames, f.id ≠ e.frame) ∧
      (descLast e.word = false → s.replaying = false → s.bpEntry (s.qSeq q) q e.index (some st) = none →
        (t.queue q).staged = dropFirst (fun x => x.index == e.index) (s.queue q).staged ∧
        (∀ q' : Nat, q' ≠ (q : Nat) → t.queue q' = s.queue q') ∧ t.ctxs = s.ctxs ∧
        (e.retried = false → RegsBut [(⟨.queStatus, 63, 0⟩, [(q : Nat)]), (.rrStatusOverflow, []), (⟨.msixPba, 63, 0⟩, [4])] s t))

/-- RECOVERY_COMMAND sends the entry back to the load engine with the recovery descriptor, once; COMMAND_RETRY counts a retry and, where the fault may lie in the images or the command never started, sends the entry back for its images, and else starts the command again (R173, R175, R524, R526). Rests on 06_scales_and_quantisation.md, 18_faults_recovery_and_live_service.md. -/
def Obligations.RecoveryAndRetryRunACommandAgain : Prop :=
  ∀ (q : Fin 4096) (s : State), s.gated = false →
    let lost := fun (t : State) (x : Staged) => (x.frame = 0 → x.timing = false) ∧
      (x.frame ≠ 0 → ∀ f ∈ (t.ctx (s.qCtx q)).frames, f.id = x.frame → f.timing = false)
    (∀ e, (s.queue q).staged.find? (·.recovers) = some e →
      ∃ t, exec (.recoveryCommand q) s = .next t ∧
        t = { s with mem := t.mem, cells := t.cells, regs := t.regs, ctxs := t.ctxs, queues := t.queues } ∧
        RegsBut [(.queStatusTokenWait, [(q : Nat)]), (.ctxLateTimingLost, [s.qCtx q])] s t ∧
        (e.results = [] ∨ descStatsMask e.run = 0 → t.mem = s.mem ∧ t.cells = s.cells) ∧
        (∀ q' : Nat, q' ≠ (q : Nat) → t.queue q' = s.queue q') ∧
        ∃ y x, s.stagedAt q e.index = some y ∧ t.stagedAt q e.index = some x ∧ lost t x ∧
          x = { y with
            phase := .fetched, recovering := true, retried := false, reload := false, status := 0, results := [], timing := x.timing
            run := BitVec.ofNat 1024 (t.devNat (wordF e.word 0x18 47 0) 128) }) ∧
    ((s.queue q).staged.find? (·.recovers) = none → exec (.recoveryCommand q) s = .next s) ∧
    (∀ e, (s.queue q).staged.find? (s.retries q) = some e →
      (e.status = 5 ∨ e.phase = .done →
        ∃ t, exec (.commandRetry q) s = .next t ∧ t = { s with regs := t.regs, ctxs := t.ctxs, queues := t.queues } ∧
          t.fld .rcvCountRetries [s.qCtx q] = satAdd 16 (s.fld .rcvCountRetries [s.qCtx q]) 1 ∧
          RegsBut [(.rcvCountRetries, [s.qCtx q]), (.queStatusTokenWait, [(q : Nat)]), (.ctxLateTimingLost, [s.qCtx q])] s t ∧
          ∃ y x, s.stagedAt q e.index = some y ∧ t.stagedAt q e.index = some x ∧ lost t x ∧
            x = { y with phase := .fetched, retried := true, reload := true, status := 0, results := [], timing := x.timing }) ∧
      (e.status ≠ 5 → e.phase ≠ .done → s.seqHalted (s.qSeq q) = false → (∀ l ∈ e.loads, s.cellFree l.1 = true) →
        ∃ t, exec (.commandRetry q) s = .next t ∧ t.mem = s.mem ∧ t.host = s.host ∧ t.seq (s.qSeq q) = ⟨q, none⟩ ∧
          t.fld .rcvCountRetries [s.qCtx q] = satAdd 16 (s.fld .rcvCountRetries [s.qCtx q]) 1 ∧
          (∃ y x, s.stagedAt q e.index = some y ∧ t.stagedAt q e.index = some x ∧ lost t x ∧
            x = { y with phase := .running, retried := true, status := 0, results := [], timing := x.timing }) ∧
          (∀ l ∈ e.loads, (t.cell l.1).run.state = .running ∧ (t.cell l.1).run.bundle = 0 ∧ (t.cell l.1).mem = (s.cell l.1).mem ∧
            ∃ m l', l' ∈ e.loads ∧ l'.1 = l.1 ∧ (t.cell l.1).cmd = some m ∧ m.queue = l'.2.queue ∧ m.index = l'.2.index ∧
              m.half = l'.2.half ∧ m.mode = l'.2.mode) ∧
          ∀ p : Nat, (∀ l ∈ e.loads, l.1 ≠ p) → t.cell p = s.cell p) ∧
      (e.status ≠ 5 → e.phase ≠ .done → (s.seqHalted (s.qSeq q) = true ∨ ∃ l ∈ e.loads, s.cellFree l.1 = false) →
        exec (.commandRetry q) s = .next s)) ∧
    ((s.queue q).staged.find? (s.retries q) = none → exec (.commandRetry q) s = .next s)

/-- TABLE_LOAD starts filling the function table bank of its descriptor in every cell, or ends without writing it where the descriptor fails or its frame is dropped; TABLE_LOAD_DONE makes the bank ready where the digest of the image is the descriptor's, and a digest fault otherwise (R148, R229, R371). Rests on 05_vector_unit_and_special_functions.md, 08_sequencers_queues_and_streaming.md. -/
def Obligations.TableLoadsFillABank : Prop :=
  (∀ (q : Fin 4096) (s : State) (e : Staged), s.gated = false → s.headEntry q = some e → e.kind = 2 → e.phase = .fetched →
    s.tableLoad = none → s.qHalted q = false →
    let w := BitVec.ofNat 1024 (s.devNat e.desc 128)
    let v := s.checkTable e.desc w
    (v.status = 0 → e.dropped = false →
      ∃ t, exec (.tableLoad q) s = .next t ∧ t = { s with queues := t.queues, ftb0 := t.ftb0, ftb1 := t.ftb1, tableLoad := some (q : Nat) } ∧
        (t.ftb (tableBank w)).state = .loading ∧ (t.ftb (tableBank w)).image = s.devRead (wordF w 8 47 0) (tableLength w) ∧
        (t.ftb (tableBank w)).profile = leNat ((s.devRead (wordF w 8 47 0) (tableLength w)).take 2) ∧
        t.ftb (1 - tableBank w) = s.ftb (1 - tableBank w) ∧
        ∃ x, t.stagedAt q e.index = some x ∧ x.phase = .running ∧ x.word = w) ∧
    (v.status ≠ 0 ∨ e.dropped = true →
      let st := if v.status ≠ 0 then v.status else 10
      let silent := if v.status ≠ 0 then v.noRecord else e.noRecord
      let a := wordF w 0x28 47 0
      ∃ t cycles, exec (.tableLoad q) s = .next t ∧ t.ftb0 = s.ftb0 ∧ t.ftb1 = s.ftb1 ∧ t.tableLoad = none ∧ t.host = s.host ∧
        t.fld .queStatusLastStatus [q] = st % 256 ∧ (t.qHalted q = true ↔ st ≠ 10 ∧ st ≠ 1) ∧
        (t.queue q).staged.map (·.index) = (dropFirst (fun x => x.index == e.index) (s.queue q).staged).map (·.index) ∧
        t.tallyPend = s.tallyPend ++ (if silent then [] else [⟨none, wordF w 0x30 11 0, wordF w 0x30 24 12 + 1⟩]) ∧
        (silent = true → t.mem = s.mem ∧ t.cells = s.cells) ∧
        (silent = false → s.spanLoadable a 32 = true → DevBut a 32 s t ∧ ∀ i, i < 32 → t.devByte (a + i) =
          (s.completionRecord q e.index st cycles (tableClosing w) (s.timingOf q e)).getD i 0))) ∧
  ∀ (q : Nat) (s : State) (e : Staged), s.gated = false → s.tableLoad = some q →
    ((s.queue q).staged.find? fun e => e.kind == 2 && e.phase == .running) = some e →
    let b := tableBank e.word
    let ok := digest64 (s.ftb b).image = wordF e.word 0x18 63 0
    let a := wordF e.word 0x28 47 0
    ∃ t cycles, exec .tableLoadDone s = .next t ∧ t.tableLoad = none ∧ t.host = s.host ∧
      (t.ftb b).state = (if ok then .ready else .digestFault) ∧ (t.ftb b).image = (s.ftb b).image ∧ t.ftb (1 - b) = s.ftb (1 - b) ∧
      t.tallyPend = s.tallyPend ++ (if e.noRecord then [] else [⟨none, wordF e.word 0x30 11 0, wordF e.word 0x30 24 12 + 1⟩]) ∧
      (t.queue q).staged.map (·.index) = (dropFirst (fun x => x.index == e.index) (s.queue q).staged).map (·.index) ∧
      t.fld .queStatusLastStatus [q] = (if ok then 0 else 7) ∧
      (e.noRecord = false → s.spanLoadable a 32 = true → DevBut a 32 s t ∧ ∀ i, i < 32 → t.devByte (a + i) =
        (s.completionRecord q e.index (if ok then 0 else 7) cycles (tableClosing e.word) (s.timingOf q e)).getD i 0)

/-- REGULATOR_TICK: a = acc + rate, L = min(L + a >> 16, burst), acc = a & 0xFFFF, and a tick in which a ready command waits only for tokens is counted (R237); CELL_OWNER_CHANGE: a pending owner that a frame boundary found free takes effect for a cell on which no command runs and none is loaded (R213). Rests on 08_sequencers_queues_and_streaming.md. -/
def Obligations.RegulatorsAndOwnersAct : Prop :=
  (∀ (q : Fin 4096) (s : State),
    (s.gated = false → s.fld .queCfgRegulated [q] = 1 → s.fld .queCfgEnable [q] = 1 →
      let a := (s.queue q).acc + s.fld .queRateRate [q]
      ∃ t, exec (.regulatorTick q) s = .next t ∧ t = { s with regs := t.regs, queues := t.queues } ∧
        (t.queue q).level = Nat.min ((s.queue q).level + a / 2 ^ 16) (s.fld .queBurstBurst [q]) ∧ (t.queue q).acc = a % 2 ^ 16 ∧
        (t.queue q).staged = (s.queue q).staged ∧ (∀ q' : Nat, q' ≠ (q : Nat) → t.queue q' = s.queue q') ∧
        RegsSet [(.queCountRegulatorWaits, [(q : Nat)], satAdd 16 (s.fld .queCountRegulatorWaits [q]) (b2n (t.onlyTokens q))),
          (.queStatusTokenWait, [(q : Nat)], b2n (t.tokenWait q))] s t) ∧
    ((s.gated = true ∨ s.fld .queCfgRegulated [q] = 0 ∨ s.fld .queCfgEnable [q] = 0) → exec (.regulatorTick q) s = .next s)) ∧
  ∀ (c : Fin 32) (s : State),
    let v := tabGet ownerReset s.owners c
    (∀ f, v.next = some f → v.due = true → s.ownerFree c = true →
      ∃ t, exec (.cellOwnerChange c) s = .next t ∧ t = { s with regs := t.regs, owners := t.owners } ∧
        RegsSet [(⟨.cellOwner, 4 * ((c : Nat) % 8) + 3, 4 * ((c : Nat) % 8)⟩, [(c : Nat) / 8], f % 16)] s t ∧
        tabGet ownerReset t.owners c = .empty ∧ ∀ c' : Nat, c' ≠ (c : Nat) → tabGet ownerReset t.owners c' = tabGet ownerReset s.owners c') ∧
    (v.next = none ∨ v.due = false ∨ s.ownerFree c = false → exec (.cellOwnerChange c) s = .next s)

/-- QUE_CFG_WRITE, QUEUE_FLUSH and QUEUE_RESUME: an enable sets the regulator to 0, a change of a fixed field of an enabled queue is refused, flush discards what has not started and takes head to tail, resume clears halted, and flush and resume act only while halted (R216, R219, R237, R239, R243). Rests on 08_sequencers_queues_and_streaming.md. -/
def Obligations.QueueControlsActAsWritten : Prop :=
  ∀ (q : Fin 4096) (val : BitVec 32) (s : State), s.HostUp →
    let on := bitsOf val.toNat 31 31 = 1
    let fits := s.ringOk (s.fld .queBaseBase [q] * 64) (bitsOf val.toNat 19 15) = true ∧ s.enabledOn (bitsOf val.toNat 30 28) < 512
    let changes := bitsOf val.toNat 30 21 ≠ getBits (s.reg .queCfg [q]) 30 21 ∨ bitsOf val.toNat 19 15 ≠ s.fld .queCfgLog2Size [q]
    let taken := fun t : State => RegsSet [(⟨.queCfg, 63, 0⟩, [(q : Nat)], bitsOf val.toNat 31 12 * 2 ^ 12),
      (.queStatusTokenWait, [(q : Nat)], b2n (t.tokenWait q))] s t
    (s.fld .queCfgEnable [q] = 0 → on → fits →
      ∃ t, exec (.queCfgWrite q val) s = .next t ∧ t = { s with regs := t.regs, queues := t.queues } ∧ taken t ∧
        t.queue q = { s.queue q with
          level := 0, acc := 0, admitted := if (s.queue q).admits = [] then s.fld .queHeadHead [q] else (s.queue q).admitted } ∧
        ∀ q' : Nat, q' ≠ (q : Nat) → t.queue q' = s.queue q') ∧
    ((s.fld .queCfgEnable [q] = 1 ∧ ¬ changes) ∨ (s.fld .queCfgEnable [q] = 0 ∧ ¬ on) →
      ∃ t, exec (.queCfgWrite q val) s = .next t ∧ t = { s with regs := t.regs } ∧ taken t) ∧
    ((s.fld .queCfgEnable [q] = 1 ∧ changes) ∨ (s.fld .queCfgEnable [q] = 0 ∧ on ∧ ¬ fits) →
      ∃ t, exec (.queCfgWrite q val) s = .next t ∧ SetsOnly [(.queStatusCfgRefused, [(q : Nat)], 1)] s t) ∧
    (s.fld .queStatusHalted [q] = 1 →
      (∃ t, exec (.queueResume q) s = .next t ∧ SetsOnly [(.queStatusHalted, [(q : Nat)], 0)] s t) ∧
      ∃ t, exec (.queueFlush q) s = .next t ∧ t = { s with regs := t.regs, queues := t.queues, cells := t.cells } ∧
        t.fld .queHeadHead [q] = s.fld .queTailTail [q] ∧
        t.queue q = { s.queue q with
          staged := (s.queue q).staged.filter (fun e => e.phase == .running && !e.abandoned), admits := []
          admitted := s.fld .queTailTail [q] } ∧
        (∀ q' : Nat, q' ≠ (q : Nat) → t.queue q' = s.queue q') ∧
        RegsBut [(.queHeadHead, [(q : Nat)]), (.queStatusOutstanding, [(q : Nat)]), (.queStatusTokenWait, [(q : Nat)])] s t ∧
        ∀ p : Nat, t.cell p = { s.cell p with loaded := (t.cell p).loaded }) ∧
    (s.fld .queStatusHalted [q] = 0 → exec (.queueResume q) s = .next s ∧ exec (.queueFlush q) s = .next s)

/-- TALLY_UPDATE, TAL_VALUE_WRITE and TAL_ADD_WRITE: a tally wraps modulo 2^32, all updates of one cycle change it once by their sum, a write comes before them, and a change to where its threshold condition first holds sets reached and fires its vector (R205, R235, R236, R417). Rests on 08_sequencers_queues_and_streaming.md, 16_host_link_media_ports_station_time.md, 14_determinism_and_freeze_mode.md. -/
def Obligations.TalliesChangeByTheirSum : Prop :=
  ∀ (k : Fin 4096) (v : BitVec 32) (n : Nat) (arr : List (BitVec 32)) (s : State),
    let p := takePending k n [] s.tallyPend
    let upd := p.1 + (arr.map (·.toNat)).sum
    let ended := fun (new : Nat) (t : State) => t.tally k = new % 2 ^ 32 ∧ t.tallyPend = p.2 ∧ t.host = s.host ∧
      (∀ c : Fin 36, (t.cell c).run = { (s.cell c).run with met := (s.cell c).run.met ||
        match (s.cell c).run.heldWait with | some h => h.1 == (k : Nat) && reaches (new % 2 ^ 32) h.2 | none => false }) ∧
      (s.tallyCond k = false → t.tallyCond k = true → t.flag .talStatusReached [k] = true ∧
        (s.flag .msixCtrlMask [64 + (k : Nat) % 64] = false → t.msix = s.msix ++ [64 + (k : Nat) % 64]) ∧
        (s.flag .msixCtrlMask [64 + (k : Nat) % 64] = true → t.msix = s.msix)) ∧
      ((s.tallyCond k = true ∨ t.tallyCond k = false) → t.msix = s.msix) ∧
      (s.egressOf k = [] → s.recording = false →
        t = { s with regs := t.regs, cells := t.cells, tallyPend := t.tallyPend, msix := t.msix } ∧
        ((s.tallyCond k = true ∨ t.tallyCond k = false) → RegsBut [(.talValueValue, [(k : Nat)])] s t))
    ((∀ x ∈ s.tallyPend, x.src = none) → s.tallyPend.length ≤ n →
      p.1 = ((s.tallyPend.filter fun x => x.tally == (k : Nat)).map (·.inc)).sum ∧ p.2 = s.tallyPend.filter fun x => x.tally != (k : Nat)) ∧
    (s.replaying = false → ∃ t, exec (.tallyUpdate k n arr) s = .next t ∧ ended (s.tally k + upd) t) ∧
    (s.replaying = true → ∃ t, exec (.tallyUpdate k n arr) s = .next t ∧ ended (s.tally k + p.1) t) ∧
    (s.HostUp → s.replaying = false →
      (∃ t, exec (.talValueWrite k ⟨v, n, arr⟩) s = .next t ∧ ended (v.toNat + upd) t) ∧
      ∃ t, exec (.talAddWrite k ⟨v, n, arr⟩) s = .next t ∧ ended (s.tally k + v.toNat + upd) t) ∧
    (s.HostUp → s.replaying = true → p.1 ≠ 0 →
      (∃ t, exec (.talValueWrite k ⟨v, n, arr⟩) s = .next t ∧ ended (s.tally k + p.1) t) ∧
      ∃ t, exec (.talAddWrite k ⟨v, n, arr⟩) s = .next t ∧ ended (s.tally k + p.1) t)

/-- BUNDLE_DISPATCH: a bundle dispatches whole or not at all: every slot that is not empty enters the queue of its unit with its record, tag and loop counter, its sync slot acts, a WAIT, a FENCE and a full queue hold it, a breakpoint halts the cell before it, and a bundle with a wrong check byte ends the command with status 0x05 (R186, R188, R190, R193, R205 to R207, R211, R544). Rests on 07_cell_instruction_set.md, 08_sequencers_queues_and_streaming.md. -/
def Obligations.BundlesDispatchWhole : Prop :=
  ∀ (p : Fin 36) (s : State) (m : CellCmd), s.dispatching p = true → (s.cell p).cmd = some m →
    let r := s.run p
    let w := (s.cell p).bundleAt m.half r.bundle
    let sync := slotOf w 3
    let op := slotOpcode sync
    let held := op = 5 ∧ (s.cell p).fencePending (bitOf sync 24) (bitOf sync 23) (bitOf sync 22) (bitOf sync 21) = true
    let full := b2n ((s.cell p).queueFull w)
    (s.bpHit p (tagAfter r sync).1 = true → bundleOk w = true →
      ∃ t, exec (.bundleDispatch p) s = .next t ∧ t = { s with regs := t.regs, cells := t.cells } ∧ CellsBut p s t ∧
        t.cell p = { s.cell p with run := { r with
          halting := true, stepping := false, hold := .none, heldWait := none, met := false, released := false } } ∧
        t.cfld .dbgStatusByBreakpoint p = 1 ∧
        RegsBut [(.dbgStatusByBreakpoint, cellIx p), (.dbgBpBundleEn, cellIx p), (.dbgBpTagEn, cellIx p)] s t) ∧
    (s.bpHit p (tagAfter r sync).1 = false →
    (bundleOk w = true → ∀ h, s.waitHolds p m sync = some h →
      ∃ t, exec (.bundleDispatch p) s = .next t ∧ t = { s with regs := t.regs, cells := t.cells } ∧ CellsBut p s t ∧
        t.cell p = { s.cell p with run := { r with
          hold := .wait, heldWait := some h, met := r.met && r.heldWait == some h, released := false } } ∧
        RegsSet [(.cseqCountWaitCycles, cellIx p, satAdd 16 (s.cfld .cseqCountWaitCycles p) 1),
          (.cseqCountQueueFull, cellIx p, satAdd 16 (s.cfld .cseqCountQueueFull p) full)] s t) ∧
    (bundleOk w = true → s.waitHolds p m sync = none → held →
      ∃ t, exec (.bundleDispatch p) s = .next t ∧ t = { s with regs := t.regs, cells := t.cells } ∧ CellsBut p s t ∧
        t.cell p = { s.cell p with run := { r with hold := .fence } } ∧
        RegsSet [(.cseqCountWaitCycles, cellIx p, satAdd 16 (s.cfld .cseqCountWaitCycles p) 1),
          (.cseqCountQueueFull, cellIx p, satAdd 16 (s.cfld .cseqCountQueueFull p) full)] s t) ∧
    (bundleOk w = true → s.waitHolds p m sync = none → ¬ held → (s.cell p).queueFull w = false →
      ∃ t, exec (.bundleDispatch p) s = .next t ∧ t = { s with regs := t.regs, cells := t.cells, tallyPend := t.tallyPend } ∧
        CellsBut p s t ∧ RegsBut [(.dbgStatusByStep, cellIx p)] s t ∧ (r.stepping = false → t.regs = s.regs) ∧
        (∀ k, k < 3 → slotOpcode (slotOf w k) ≠ 0 →
          ∃ q, (t.cell p).queueOf (slotUnit k (slotOpcode (slotOf w k))) =
              (s.cell p).queueOf (slotUnit k (slotOpcode (slotOf w k))) ++ [q] ∧
            q.opcode = slotOpcode (slotOf w k) ∧ q.record = (s.cell p).recordAt m.half k (slotRecord (slotOf w k)) ∧
            q.extra = slotOf w k % 2 ^ 25 ∧ (q.tag, q.layer) = tagAfter r sync ∧ q.bundle = r.bundle ∧ r.nextId ≤ q.id ∧
            q.id < (t.run p).nextId ∧ (q.ctr, q.ctrLast) = r.counter (slotLoop (slotOf w k))) ∧
        (∀ u, (∀ k, k < 3 → slotOpcode (slotOf w k) ≠ 0 → slotUnit k (slotOpcode (slotOf w k)) ≠ u) →
          (t.cell p).queueOf u = (s.cell p).queueOf u) ∧
        t.tallyPend = s.tallyPend ++ (if op = 3 then [⟨some (p : Nat), bitsOf sync 24 13, bitsOf sync 12 0 + 1⟩] else []) ∧
        (t.cell p).signals = (s.cell p).signals ++
          (if op = 4 then [⟨(t.run p).nextId, bitsOf sync 24 13, bitsOf sync 12 0 + 1⟩] else []) ∧
        ((t.run p).state = .completing ↔ op = 7) ∧ ((t.run p).tag, (t.run p).layer) = tagAfter r sync ∧
        (op = 1 → (t.run p).bundle = r.bundle + 1 ∧
          (t.run p).loops = ⟨r.bundle + 1, r.bundle + 1 + bitsOf sync 11 0, bitsOf sync 24 12 + 1, 0⟩ :: r.loops) ∧
        (op ≠ 1 → op ≠ 7 → r.loops = [] → (t.run p).bundle = r.bundle + 1 ∧ (t.run p).loops = []) ∧
        (t.cell p).mem = (s.cell p).mem ∧ (t.cell p).inflight = (s.cell p).inflight) ∧
    (bundleOk w = true → s.waitHolds p m sync = none → ¬ held → (s.cell p).queueFull w = true →
      ∃ t, exec (.bundleDispatch p) s = .next t ∧ t = { s with regs := t.regs, cells := t.cells } ∧ CellsBut p s t ∧
        t.cell p = { s.cell p with run := { r with hold := .full } } ∧
        RegsSet [(.cseqCountQueueFull, cellIx p, satAdd 16 (s.cfld .cseqCountQueueFull p) 1)] s t) ∧
    (bundleOk w = false →
      ∃ t, exec (.bundleDispatch p) s = .next t ∧ t = { s with regs := t.regs, cells := t.cells } ∧ CellsBut p s t ∧
        t.cell p = (s.cell p).endCmd 5 ∧ (t.cell p).mem = (s.cell p).mem ∧
        (s.cflag .cseqFaultValid p = true → t.regs = s.regs) ∧
        (s.cflag .cseqFaultValid p = false → r.bundle < 4096 →
          RegsSet [(.cseqFaultValid, cellIx p, 1), (.cseqFaultCause, cellIx p, 1), (.cseqFaultSlot, cellIx p, 0),
            (.cseqFaultRecord, cellIx p, 0), (.cseqFaultBundle, cellIx p, r.bundle)] s t)))

/-- NOP, LOOP, WAIT, FENCE, SIGNAL, SIGNAL_DONE, TAG and END: an empty slot does nothing; a loop opens; a WAIT goes on where the signed difference of the counters is at least 0 and is held and counted otherwise; a FENCE holds while a named queue has work; SIGNAL and SIGNAL_DONE leave their increment, now or armed; TAG sets tag and layer; END stops fetch; on a cell that does not dispatch none of them acts (R189, R193, R205 to R207). Rests on 07_cell_instruction_set.md. -/
def Obligations.SyncInstructionsAct : Prop :=
  ∀ (p : Fin 36) (s : State) (k : Fin 4096) (v : BitVec 13) (len : BitVec 12) (tag : BitVec 16) (layer : BitVec 9) (fa fv fg fd : Bool),
    exec (.nop p) s = .next s ∧
    (s.dispatching p = false → ∀ i ∈ ([.loop p v len, .wait p k v, .fence p fa fv fg fd, .tag p tag layer, .endStream p, .signal p k v,
      .signalDone p k v] : List Instr), exec i s = .next s) ∧
    ∀ m : CellCmd, s.dispatching p = true → (s.cell p).cmd = some m →
    let r := s.run p
    let value := BitVec.ofNat 32 m.waitBase + v.zeroExtend 32
    let met := 0 ≤ (BitVec.ofNat 32 (s.tally k) - value).toInt
    let work := ∃ u, ((u = .array ∧ fa = true) ∨ (u = .vector ∧ fv = true) ∨ (u = .ag ∧ fg = true) ∨ (u = .dma ∧ fd = true)) ∧
      ((s.cell p).queueOf u ≠ [] ∨ ∃ f ∈ (s.cell p).inflight, f.unit = u)
    let moves := fun (i : Instr) (r' : SeqRun) => ∃ t, exec i s = .next t ∧ t = { s with cells := t.cells } ∧ CellsBut p s t ∧
      t.cell p = { s.cell p with run := r' }
    let waits := fun (i : Instr) (r' : SeqRun) => ∃ t, exec i s = .next t ∧ t = { s with regs := t.regs, cells := t.cells } ∧
      CellsBut p s t ∧ t.cell p = { s.cell p with run := r' } ∧
      RegsSet [(.cseqCountWaitCycles, cellIx p, satAdd 16 (s.cfld .cseqCountWaitCycles p) 1)] s t
    moves (.loop p v len) { r with loops := ⟨r.bundle, r.bundle + len.toNat, v.toNat + 1, 0⟩ :: r.loops } ∧
    (met → moves (.wait p k v) { r with hold := .none, heldWait := none, met := false, released := false }) ∧
    (¬ met → waits (.wait p k v) { r with
      hold := .wait, heldWait := some (k, value.toNat), met := r.met && r.heldWait == some ((k : Nat), value.toNat), released := false }) ∧
    (¬ work → moves (.fence p fa fv fg fd) { r with hold := .none }) ∧
    (work → waits (.fence p fa fv fg fd) { r with hold := .fence }) ∧
    moves (.tag p tag layer) { r with tag := tag.toNat, layer := layer.toNat } ∧
    moves (.endStream p) { r with state := .completing } ∧
    exec (.signal p k v) s = .next { s with tallyPend := s.tallyPend ++ [⟨some (p : Nat), (k : Nat), v.toNat + 1⟩] } ∧
    ∃ t, exec (.signalDone p k v) s = .next t ∧ t = { s with cells := t.cells } ∧ CellsBut p s t ∧
      t.cell p = { s.cell p with signals := (s.cell p).signals ++ [⟨r.nextId, k, v.toNat + 1⟩] }

/-- WAIT_RELEASE, SIGNAL_DONE_EFFECT and INSTRUCTION_COMPLETE: a held WAIT is released once a change has satisfied it and not while its cell is halted; the oldest armed signal acts once every earlier instruction has completed; a completed instruction leaves the cell, and only where units met on the write ports do the port counts rise, by free values (log entry 8) (R104, R105, R205, R545, R556). Rests on 07_cell_instruction_set.md, 19_debug_and_counters.md, 04_cell_memory_and_address_generation.md. -/
def Obligations.ArmedSignalsAndHeldWaitsEnd : Prop :=
  (∀ (p : Fin 36) (s : State),
    let r := s.run p
    (s.dispatching p = true → r.heldWait ≠ none → r.met = true → r.released = false →
      ∃ t, exec (.waitRelease p) s = .next t ∧ CellOnly p [] s t ∧ t.cell p = { s.cell p with run := { r with released := true } }) ∧
    (s.dispatching p = false ∨ r.heldWait = none ∨ r.met = false ∨ r.released = true → exec (.waitRelease p) s = .next s)) ∧
  (∀ (p : Fin 36) (s : State),
    ((s.gated = true ∨ (s.cell p).signals = []) → exec (.signalDoneEffect p) s = .next s) ∧
    ∀ (a : Armed) (rest : List Armed), s.gated = false → (s.cell p).signals = a :: rest →
    let doneBefore := (∀ u, ∀ q ∈ (s.cell p).queueOf u, a.before ≤ q.id) ∧ ∀ f ∈ (s.cell p).inflight, a.before ≤ f.id
    (doneBefore → ∃ t, exec (.signalDoneEffect p) s = .next t ∧ t = { s with cells := t.cells, tallyPend := t.tallyPend } ∧
      CellsBut p s t ∧ t.cell p = { s.cell p with signals := rest } ∧ t.tallyPend = s.tallyPend ++ [⟨some (p : Nat), a.tally, a.inc⟩]) ∧
    (¬ doneBefore → exec (.signalDoneEffect p) s = .next s)) ∧
  ∀ (p : Fin 36) (id : Nat) (s : State),
    let ready := fun f : Flight => f.id == id && f.left == 0
    (∀ f, s.gated = false → (s.cell p).inflight.find? ready = some f →
      ∃ t, exec (.instructionComplete p id) s = .next t ∧
        t = { s with regs := t.regs, cells := t.cells, trace := t.trace, draws := t.draws } ∧ CellsBut p s t ∧
        t.cell p = { s.cell p with inflight := dropFirst (fun f => f.id == id) (s.cell p).inflight } ∧
        RegsBut ((.traceLostCount, []) :: (f.portCells p).flatMap fun c =>
          [(.memCountWriteWaits, cellIx c), (.memCountWriteOverlaps, cellIx c)]) s t ∧
        ((∀ c, c < 36 → ∀ g ∈ (s.cell c).inflight, g.unit = f.unit) → CellOnly p [] s t)) ∧
    (s.gated = true ∨ (s.cell p).inflight.find? ready = none → exec (.instructionComplete p id) s = .next s)

/-- CELL_COMMAND_COMPLETE: after END and with nothing left to do, the cell writes its records, reports its status to its queue and is free; a halted cell keeps its command until its resume (R164, R206, R224, R546). Rests on 07_cell_instruction_set.md, 08_sequencers_queues_and_streaming.md, 06_scales_and_quantisation.md. -/
def Obligations.CellReportsItsCommand : Prop :=
  ∀ (p : Fin 36) (s : State) (m : CellCmd), s.clockedCmd p = some m → (s.run p).state = .completing → (s.cell p).drained = true →
    (s.cell p).signals = [] → (s.cell p).done = none →
    ((s.run p).halting = false → ∃ t, exec (.cellCommandComplete p) s = .next t ∧
      t = { s with regs := t.regs, cells := t.cells, queues := t.queues, trace := t.trace } ∧
      (t.cell p).cmd = none ∧ (t.cell p).ended = none ∧ (t.cell p).done = none ∧ (t.run p).state = .idle ∧
      (∀ p' : Nat, p' ≠ p → t.cell p' = { s.cell p' with mem := (t.cell p').mem }) ∧
      (∀ q : Nat, q ≠ m.queue → t.queue q = s.queue q) ∧
      RegsBut ((.traceLostCount, []) :: ((p : Nat) :: ((s.stagedAt m.queue m.index).map fun e => e.results.map (·.phys)).getD []).flatMap
        fun (c : Nat) => [Fld.slbCellChkFaults, .slbCellState, .scaleFlagsOverflowFault, .scaleFlagsUnderuseFault,
          .scaleFlagsClipShareFault, .scaleFlagsFusedClip, .scaleLastOpTag, .scaleLastSlot, .scaleLastChannel,
          .scaleCountScaleFaults].map fun f => (f, cellIx c)) s t ∧
      (∀ e, s.stagedAt m.queue m.index = some e → ∃ x, t.stagedAt m.queue m.index = some x ∧
        x.results.map (·.phys) = e.results.map (·.phys) ++ [(p : Nat)] ∧
        (e.allDone = false → e.loads.any (fun l => l.1 != (p : Nat) && !e.results.any fun r => r.phys == l.1) = true →
          x.results = e.results ++ [⟨p, s.logical p, (s.cell p).ended.getD 0, (s.cell p).stats⟩]))) ∧
    ((s.run p).halting = true → ∃ t, exec (.cellCommandComplete p) s = .next t ∧ CellOnly p [] s t ∧
      t.cell p = { s.cell p with mem := (t.cell p).mem, done := some ((s.cell p).ended.getD 0) })

/-- CELL_HALT, CELL_HALTED, CELL_RESUME, CELL_STEP, CLEAR_TAGS and TRACE_CLEAR: a requested halt stops dispatch with its reason, the cell reads halted once everything dispatched has completed, a resume clears the halt and its reasons and reports a command that has ended, a step lets one bundle go, clear_tags empties the tag counters, and TRACE_CLEAR the trace buffer (R543, R544, R546, R551, R564). Rests on 19_debug_and_counters.md. -/
def Obligations.CellsHaltAndResume : Prop :=
  ∀ (p : Fin 36) (s : State), s.HostUp →
    let r := s.run p
    let halts := r.halting = true ∧ s.halted p = false ∧ (s.cell p).drained = true ∧ (r.state ≠ .completing ∨ (s.cell p).done ≠ none)
    let passed := s.cflag .dbgStatusByBreakpoint p && r.state == .running
    let reported := fun t : State => (t.cell p).cmd = none ∧ (t.cell p).ended = none ∧ (t.cell p).done = none ∧
      (t.run p).state = .idle ∧ (t.run p).halting = false ∧ t.reg .dbgStatus (cellIx p) = 0
    (∃ t, exec (.cellHalt p) s = .next t ∧ t = { s with regs := t.regs, cells := t.cells } ∧ CellsBut p s t ∧
      RegsSet [(.dbgStatusByRequest, cellIx p, 1)] s t ∧ t.cell p = { s.cell p with run := { r with
        halting := true, stepping := false, hold := .none, heldWait := none, met := false, released := false } } ∧
      t.dispatching p = false) ∧
    (halts → ∃ t, exec (.cellHalted p) s = .next t ∧ t.halted p = true ∧ t.cells = s.cells ∧ t.mem = s.mem ∧
      t.tallyPend = s.tallyPend ∧ t.seqs = s.seqs) ∧
    (¬ halts → exec (.cellHalted p) s = .next s) ∧
    (r.halting = true ∨ s.halted p = true → (s.cell p).done = none ∨ (s.cell p).cmd = none →
      ∃ t, exec (.cellResume p) s = .next t ∧ CellOnly p [⟨.dbgStatus, 63, 0⟩] s t ∧ t.reg .dbgStatus (cellIx p) = 0 ∧
        t.cell p = { s.cell p with run := { r with halting := false, passedBp := passed } }) ∧
    (r.halting = true ∨ s.halted p = true → (s.cell p).done ≠ none → (s.cell p).cmd ≠ none →
      ∃ t, exec (.cellResume p) s = .next t ∧ reported t) ∧
    (r.halting = false → s.halted p = false → exec (.cellResume p) s = .next s) ∧
    (s.halted p = true → (s.cell p).done = none ∨ (s.cell p).cmd = none →
      ∃ t, exec (.cellStep p) s = .next t ∧ CellOnly p [⟨.dbgStatus, 63, 0⟩] s t ∧ t.reg .dbgStatus (cellIx p) = 0 ∧
        t.cell p = { s.cell p with run := { r with halting := false, stepping := true, passedBp := passed } }) ∧
    (s.halted p = true → (s.cell p).done ≠ none → (s.cell p).cmd ≠ none → ∃ t, exec (.cellStep p) s = .next t ∧ reported t) ∧
    (s.halted p = false → exec (.cellStep p) s = .next s) ∧
    (∃ t, exec (.clearTags p) s = .next t ∧ t = { s with cells := t.cells } ∧ CellsBut p s t ∧ t.cell p = { s.cell p with tags := [] }) ∧
    ∃ t, exec .traceClear s = .next t ∧ t = { s with regs := t.regs, trace := { s.trace with buffer := [], stopping := false } } ∧
      RegsSet [(⟨.traceStatus, 63, 0⟩, [], 0)] s t

/-- MMA: an accepted array instruction leaves its queue and becomes ⌈M/256⌉ × ⌈N/256⌉ passes in its tile order, row blocks first unless col_order is set; it waits, counted, while a load or derive of its scale store is not complete (R80, R84, R156, R183, R195, R196). Rests on 03_outer_product_array.md, 06_scales_and_quantisation.md, 07_cell_instruction_set.md. -/
def Obligations.ArrayInstructionsIssueTheirPasses : Prop :=
  ∀ (p : Fin 36) (s : State) (q : QIns) (rest : List QIns) (m : CellCmd) (i : MmaIns), (s.cell p).arrayQ = q :: rest →
    s.clockedCmd p = some m → q.mma (s.cell p) m.mode = some i →
    let mb := (i.m + 255) / 256
    let nb := (i.n + 255) / 256
    ((s.cell p).storeLoading i.dst = true →
      ∃ t, exec (.mma p) s = .next t ∧ SetsOnly [(.scaleCountBankWaits, cellIx p, satAdd 16 (s.cfld .scaleCountBankWaits p) 1)] s t) ∧
    ((s.cell p).storeLoading i.dst = false → q.mmaClear = true → i.ok (s.cfld .srfStatusLoaded p) (s.cell p) = true →
    ∃ t ps, exec (.mma p) s = .next t ∧ CellOnly p [] s t ∧ (t.cell p).arrayQ = rest ∧ (t.cell p).passes = (s.cell p).passes ++ ps ∧
      ps.length = mb * nb ∧ i.m = q.f 0x30 9 0 + 1 ∧ i.n = q.f 0x30 19 10 + 1 ∧ i.k = q.f 0x34 15 0 + 1 ∧
      (∀ j, j < mb * nb → ∃ x, ps[j]? = some x ∧ x.ins = i ∧ (x.first = true ↔ j = 0) ∧ (x.last = true ↔ j + 1 = mb * nb) ∧
        (x.mb, x.nb) = if i.colOrder then (j % mb, j / mb) else (j / nb, j % nb)) ∧
      (t.cell p).inflight = (s.cell p).inflight ++ [⟨q.id, .array, mb * nb, q.tag, q.layer, q.bundle, 0, 0, 0, none⟩] ∧
      (t.cell p).mem = (s.cell p).mem ∧ (t.cell p).bank0 = (s.cell p).bank0 ∧ (t.cell p).bank1 = (s.cell p).bank1 ∧
      (t.cell p).drains = (s.cell p).drains ∧
      (t.cell p).prevHold = if i.hold then some ⟨i.m, i.n, i.cls, (if i.cont then ((s.cell p).prevHold.map (·.steps)).getD 0 else 0) + i.k⟩
        else none)

/-- ARRAY_PASS: a pass adds the outer products of its steps to its bank, from zero, from the preload row, or from what is held; with hold the bank is held, else the banks swap and the drain waits; a pass whose bank is not ready waits; in the integer class the sums are exact (R59, R71, R75 to R77, R83, R87). Rests on 03_outer_product_array.md, 02_number_formats.md. -/
def Obligations.PassesAddOuterProducts : Prop :=
  ∀ (p : Fin 36) (s : State) (x : Pass) (rest : List Pass), (s.cell p).passes = x :: rest → s.gated = false →
    let b := (s.cell p).passBank x
    let k := (s.cell p).bank b
    let term := fun r c => ((List.range x.ins.k).map fun i =>
      (((x.ins.a.vector (s.cell p) i (256 * x.mb) x.rows).getD r (.int 0)).toI *
       ((x.ins.b.vector (s.cell p) i (256 * x.nb) x.cols).getD c (.int 0)).toI)).sum
    ((s.cell p).passReady x = false →
      ∃ t, exec (.arrayPass p) s = .next t ∧ t = { s with cells := t.cells } ∧ ∀ p' : Nat, t.cell p' = s.cell p') ∧
    ((s.cell p).passReady x = true →
    ∃ t, exec (.arrayPass p) s = .next t ∧ t = { s with cells := t.cells } ∧ CellsBut p s t ∧
      t.cell p = { s.cell p with passes := rest, bank0 := (t.cell p).bank0, bank1 := (t.cell p).bank1, active := (t.cell p).active,
                                 drains := (t.cell p).drains, inflight := (t.cell p).inflight } ∧
      (x.ins.hold = true → ((t.cell p).bank b).state = .held ∧ (t.cell p).active = b ∧ (t.cell p).drains = (s.cell p).drains) ∧
      (x.ins.hold = false → ((t.cell p).bank b).state = .draining ∧ (t.cell p).active = (s.cell p).nextBank ∧
        (t.cell p).drains = (s.cell p).drains ++ [⟨x, b⟩] ∧ (t.cell p).inflight = (s.cell p).inflight) ∧
      (t.cell p).bank (1 - b) = (s.cell p).bank (1 - b) ∧
      ((t.cell p).bank b).steps = (if x.ins.cont then ((s.cell p).bank b).steps else 0) + x.ins.k ∧
      (x.ins.cls = .integer → (x.ins.cont = true → k.shaped ∧ k.m = x.rows ∧ k.n = x.cols) →
        ∀ r c, r < x.rows → c < x.cols → (((t.cell p).bank b).data.getD r []).getD c 0 = term r c +
          if x.ins.cont then (k.data.getD r []).getD c 0
          else if x.ins.preloadStart then toSigned 32 ((s.cell p).readNat (x.ins.preload + 1024 * x.nb + 4 * c) 4) else 0))

/-- The checksums of the integer class are exact: a pass without supplied sums leaves a bank whose column, row and corner are the sums of its values, so that its checks pass (R88 to R91). Rests on 03_outer_product_array.md. -/
def Obligations.IntegerPassesKeepTheirChecksums : Prop :=
  ∀ (p : Fin 36) (s : State) (x : Pass) (rest : List Pass), (s.cell p).passes = x :: rest → s.gated = false →
    (s.cell p).passReady x = true → x.ins.cls = .integer → x.ins.a.supplied = false → x.ins.b.supplied = false →
    let b := (s.cell p).passBank x
    (x.ins.cont = true → ((s.cell p).bank b).sound ∧ ((s.cell p).bank b).m = x.rows ∧ ((s.cell p).bank b).n = x.cols) →
    ∃ t, exec (.arrayPass p) s = .next t ∧ ((t.cell p).bank b).sound ∧ ((t.cell p).bank b).verdicts.failed = false

/-- ARRAY_DRAIN: the oldest swapped bank drains: raw sums as I32, or each sum scaled by its entry, rounded to nearest even, offset and saturated; a freeze-mode sum outside I32 writes nothing, sets freeze_overflow and ends the command with status 0x03 (R59, R83, R85, R93, R159). Rests on 03_outer_product_array.md, 06_scales_and_quantisation.md, 02_number_formats.md. -/
def Obligations.DrainsWriteTheirRows : Prop :=
  ∀ (p : Fin 36) (s : State) (j : DrainJob) (rest : List DrainJob), (s.cell p).drains = j :: rest → s.gated = false →
    let x := j.pass
    let d := x.ins.dst
    let k := (s.cell p).bank j.bank
    let row := fun r => d.base + (256 * x.mb + r) * d.rowStride + packedBytes d.fmt (256 * x.nb)
    ∃ t, exec (.arrayDrain p) s = .next t ∧ CellOnly p drainFlds s t ∧ (t.cell p).drains = rest ∧ (t.cell p).inject = none ∧
      ((t.cell p).bank j.bank).state = .idle ∧ (t.cell p).bank (1 - j.bank) = (s.cell p).bank (1 - j.bank) ∧
      (t.cell p).srf = (s.cell p).srf ∧ (t.cell p).passes = (s.cell p).passes ∧
      (x.ins.mode = .freeze → k.overflows = true →
        (t.cell p).mem = (s.cell p).mem ∧ t.cflag .arithFlagsFreezeOverflow p = true ∧ ∃ e, (t.cell p).ended = some e ∧ 3 ≤ e) ∧
      ((x.ins.mode = .freeze → k.overflows = false) → (s.cell p).inject = none → k.shaped → x.ins.cls = .integer → k.n ≤ 256 →
        (d.route = 0 → 4 * k.n ≤ d.rowStride →
          (∀ r c, r < k.m → c < k.n → (t.cell p).readNat (row r + 4 * c) 4 =
            ofSigned 32 (max (-2147483648) (min 2147483647 ((k.data.getD r []).getD c 0)))) ∧
          ∀ y, (∀ r, r < k.m → y < row r ∨ row r + 4 * k.n ≤ y) →
            tabGet memReset (t.cell p).mem y = tabGet memReset (s.cell p).mem y) ∧
        (d.route = 1 → d.fmt = .i8 → d.uns = false → k.n ≤ d.rowStride →
          (∀ r c, r < k.m → c < k.n →
            let e := (s.cell p).srfEntry d.bank
              (d.entryBase + if d.perChannel then (if d.axisCols then 256 * x.nb + c else 256 * x.mb + r) else 0)
            (tabGet memReset (t.cell p).mem (row r + c)).toInt =
              max (-128) (min 127 (rneDiv ((k.data.getD r []).getD c 0 * e.m) (2 ^ e.sh) + e.off))) ∧
          ∀ y, (∀ r, r < k.m → y < row r ∨ row r + k.n ≤ y) →
            tabGet memReset (t.cell p).mem y = tabGet memReset (s.cell p).mem y))

/-- ARRAY_DRAIN after CHK_INJECT_ARM: bit 0 of the named value is inverted for the checks, so the next drain of a sound integer bank fails, names that row and column, is counted, and ends the command with at least status 0x04 (R91, R94, R95, R99 to R101). Rests on 03_outer_product_array.md, 19_debug_and_counters.md. -/
def Obligations.AnInjectionIsFound : Prop :=
  ∀ (p : Fin 36) (s : State) (j : DrainJob) (rest : List DrainJob) (row col : Nat), (s.cell p).drains = j :: rest →
    s.gated = false → (s.cell p).inject = some (row, col) →
    let k := (s.cell p).bank j.bank
    k.sound → k.m ≤ 256 → k.n ≤ 256 → (row < k.m ∨ row = 0x100) → (col < k.n ∨ col = 0x100) →
    s.cfld .chkStatusRowMismatch p = 0 → s.cfld .chkStatusColMismatch p = 0 →
    ∃ t, exec (.arrayDrain p) s = .next t ∧ t.cfld .chkStatusFirstRow p = row ∧ t.cfld .chkStatusFirstCol p = col ∧
      (t.cflag .chkStatusRowMismatch p = true ∨ t.cflag .chkStatusColMismatch p = true) ∧
      t.cfld .chkCountFailedDrains p = satAdd 16 (s.cfld .chkCountFailedDrains p) 1 ∧ ∃ e, (t.cell p).ended = some e ∧ 4 ≤ e

/-- CHK_INJECT_ARM, MEM_CLEAR, MEM_CLEAR_DONE, SCALE_WINDOW_WRITE and FUSED_TABLE_WRITE: arm prepares one injection; a clear starts on an idle cell and is refused under a command, and at its end every byte reads 0 that it had not zeroed before; a window write stores the entry's fields on an idle cell and is refused and flagged under a command (R101, R107, R158, R169). Rests on 03_outer_product_array.md, 04_cell_memory_and_address_generation.md, 06_scales_and_quantisation.md. -/
def Obligations.HostWritesToACell : Prop :=
  ∀ (p : Fin 36) (val : BitVec 32) (e : Fin 4096) (f : Fin 1024) (v : BitVec 64) (high : Bool) (s : State), s.HostUp →
    (val.getLsbD 31 = true → ∃ t, exec (.chkInjectArm p val) s = .next t ∧ t = { s with cells := t.cells } ∧ CellsBut p s t ∧
      t.cell p = { s.cell p with inject := some (val.toNat / 512 % 512, val.toNat % 512) }) ∧
    (val.getLsbD 31 = false → exec (.chkInjectArm p val) s = .next s) ∧
    (val.getLsbD 0 = true → s.cfld .memStatusClearBusy p = 0 → (s.cell p).cmd = none →
      ∃ t, exec (.memClear p val) s = .next t ∧ t = { s with regs := t.regs, cells := t.cells } ∧ CellsBut p s t ∧
        RegsSet [(.memStatusClearBusy, cellIx p, 1)] s t ∧ t.cell p = { s.cell p with cleared := 0 }) ∧
    (val.getLsbD 0 = true → s.cfld .memStatusClearBusy p = 0 → (s.cell p).cmd ≠ none →
      ∃ t, exec (.memClear p val) s = .next t ∧ SetsOnly [(.memStatusClearRefused, cellIx p, 1)] s t) ∧
    (val.getLsbD 0 = false ∨ s.cfld .memStatusClearBusy p = 1 → exec (.memClear p val) s = .next s) ∧
    (s.gated = true ∨ s.cfld .memStatusClearBusy p = 0 → exec (.memClearDone p) s = .next s) ∧
    (s.gated = false → s.cfld .memStatusClearBusy p = 1 → ∃ t, exec (.memClearDone p) s = .next t ∧
      t = { s with regs := t.regs, cells := t.cells } ∧ CellsBut p s t ∧ RegsSet [(.memStatusClearBusy, cellIx p, 0)] s t ∧
      t.cell p = { s.cell p with mem := (t.cell p).mem, cleared := (t.cell p).cleared } ∧ ∀ x, x < cellBytes →
        tabGet memReset (t.cell p).mem x = if x < 2048 * (s.cell p).cleared then tabGet memReset (s.cell p).mem x else 0) ∧
    ((s.cell p).cmd = none →
      (∃ t, exec (.scaleWindowWrite p e v) s = .next t ∧ t = { s with cells := t.cells } ∧ CellsBut p s t ∧
        t.cell p = { s.cell p with srf := (t.cell p).srf } ∧
        (∀ i, i < 64 → ((t.cell p).srfWord ((e : Nat) / 1024) ((e : Nat) % 1024)).getLsbD i =
          (v.getLsbD i && (decide (i < 22) || (decide (32 ≤ i) && decide (i < 48))))) ∧
        ∀ a, a ≠ (e : Nat) → tabGet srfReset (t.cell p).srf a = tabGet srfReset (s.cell p).srf a) ∧
      ∃ t, exec (.fusedTableWrite p f high v) s = .next t ∧ t = { s with cells := t.cells } ∧ CellsBut p s t ∧
        t.cell p = { s.cell p with fused := (t.cell p).fused } ∧
        (∀ i, i < 22 → ((t.cell p).fusedWord f).getLsbD i = if high then ((s.cell p).fusedWord f).getLsbD i else v.getLsbD i) ∧
        (high = true → (t.cell p).fusedEntry f =
          ⟨((s.cell p).fusedEntry f).m, ((s.cell p).fusedEntry f).sh, toSigned 16 (v.toNat % 65536), v.toNat / 2 ^ 32⟩) ∧
        ∀ a, a ≠ (f : Nat) → (t.cell p).fusedWord a = (s.cell p).fusedWord a) ∧
    ((s.cell p).cmd ≠ none →
      (∃ t, exec (.scaleWindowWrite p e v) s = .next t ∧ SetsOnly [(.scaleFlagsHostWriteRefused, cellIx p, 1)] s t) ∧
      ∃ t, exec (.fusedTableWrite p f high v) s = .next t ∧ SetsOnly [(.scaleFlagsHostWriteRefused, cellIx p, 1)] s t)

/-- ADD, SUB, MUL, MADD, MIN, MAX, ABS, NEG, SHIFT and SELECT: every element of the destination is the operation on the elements of its place, converted to the destination format; I8 results are the saturated exact result, and a right shift rounds to nearest even (R136, R586). Rests on 05_vector_unit_and_special_functions.md, 02_number_formats.md. -/
def Obligations.ElementwiseInstructionsWriteTheirResults : Prop :=
  (∀ (p : Fin 36) (s : State) (q : QIns) (rest : List QIns) (m : CellCmd) (df : Fmt), (s.cell p).vectorQ = q :: rest →
    s.clockedCmd p = some m → q.vrec.reservedOk = true → q.vrec.dFmt = some df →
    let v := q.vrec
    let c := s.cell p
    ∀ x ∈ ([(.add p, 0x01, .add, fun a b _ => a + b), (.sub p, 0x02, .sub, fun a b _ => a - b), (.mul p, 0x03, .mul, fun a b _ => a * b),
        (.madd p, 0x04, .madd, fun a b c => a * b + c), (.min p, 0x05, .min, fun a b _ => min a b),
        (.max p, 0x06, .max, fun a b _ => max a b), (.abs p, 0x07, .abs, fun a _ _ => a.natAbs), (.neg p, 0x08, .neg, fun a _ _ => -a),
        (.shift p, 0x09, .shift, fun a _ _ => if v.right then rneDiv a (2 ^ v.shift) else a * 2 ^ v.shift),
        (.select p, 0x0A, .select, fun a b c =>
          if (v.cond = 0 ∧ a < 0) ∨ (v.cond = 1 ∧ a = 0) ∨ (v.cond = 2 ∧ 0 < a) then b else c)] :
        List (Instr × Nat × ElemOp × (Int → Int → Int → Int))),
      q.opcode = x.2.1 → x.2.2.1.ok m v = true →
      ∃ t, exec x.1 s = .next t ∧ CellOnly p countFlds s t ∧ Issued .vector q rest c (t.cell p) ∧
        CellBut v.dBase.toNat (packedBytes df v.count) c (t.cell p) ∧
        (∀ i, i < v.count → (t.cell p).elem df v.dBase.toNat i =
          (x.2.2.1.elem ((x.2.2.1.opnds v).all (·.intPath)) m.mode v df ((c.opnd v.a v.count).getD i (.int 0))
            ((c.opnd v.b v.count).getD i (.int 0)) ((c.opnd v.c v.count).getD i (.int 0))).1 % 2 ^ df.bits) ∧
        (df = .i8 → v.dUns = false → (∀ o ∈ x.2.2.1.opnds v, o.fmt = some .i8 ∧ o.uns = false ∧ o.scalar = false) →
          ∀ i, i < v.count → (t.cell p).i8 (v.dBase.toNat + i) =
            max (-128) (min 127 (x.2.2.2 (c.i8 (v.a.base.toNat + i)) (c.i8 (v.b.base.toNat + i)) (c.i8 (v.c.base.toNat + i)))))) ∧
  ∀ (a : Int) (d : Nat), 0 < d → 2 * (a - d * rneDiv a d).natAbs ≤ d ∧ (2 * (a - d * rneDiv a d).natAbs = d → rneDiv a d % 2 = 0)

/-- CONVERT, TANH, LOGISTIC, EXP and LOG: every element of the destination is the converted element or the function of it; the functions take 0 to 0, 1/2, 1 and −∞ (R62, R63, R145, R146, R585). Rests on 05_vector_unit_and_special_functions.md, 02_number_formats.md. -/
def Obligations.ConversionsAndSpecialFunctionsWriteTheirResults : Prop :=
  ∀ (p : Fin 36) (s : State) (q : QIns) (rest : List QIns) (m : CellCmd) (sf df : Fmt), (s.cell p).vectorQ = q :: rest →
    s.clockedCmd p = some m → q.vrec.reservedOk = true → q.vrec.a.fmt = some sf → q.vrec.dFmt = some df →
    let v := q.vrec
    let c := s.cell p
    let a := fun i => (c.opnd v.a v.count).getD i (.int 0)
    let done := fun (t : State) => CellOnly p countFlds s t ∧ Issued .vector q rest c (t.cell p) ∧
      CellBut v.dBase.toNat (packedBytes df v.count) c (t.cell p)
    (q.opcode = 0x0B → convertOk m v = true →
      ∃ t, exec (.convert p) s = .next t ∧ done t ∧
        (df ≠ .s8 → ∀ i, i < v.count → (t.cell p).elem df v.dBase.toNat i = (convElem df v.dUns v.propagate (a i)).1 % 2 ^ df.bits) ∧
        (df = .s8 → v.a.scalar = false → ∀ i, i < v.count → (t.cell p).elem df v.dBase.toNat i = c.elem .s8 v.a.base.toNat i) ∧
        (df = .i8 → v.dUns = false → sf = .i16 → v.a.uns = false → v.a.scalar = false → ∀ i, i < v.count →
          (t.cell p).i8 (v.dBase.toNat + i) = max (-128) (min 127 (toSigned 16 (c.readNat (v.a.base.toNat + 2 * i) 2))))) ∧
    ∀ x ∈ ([(.tanh p, 0x13, .tanh, .fin ⟨0, 0⟩), (.logistic p, 0x14, .logistic, .fin ⟨1, -1⟩), (.exp p, 0x15, .exp, .fin ⟨1, 0⟩),
        (.log p, 0x16, .log, .inf true)] : List (Instr × Nat × SpecFn × FVal)),
      q.opcode = x.2.1 → specOk { m with tables := (s.ctx m.context).bank } v = true →
      ∃ t, exec x.1 s = .next t ∧ done t ∧
        (∀ i, i < v.count → (t.cell p).elem df v.dBase.toNat i =
          (specElem x.2.2.1 m.mode (sf == .a32) df v.dUns v.propagate v.scaleOut (specArg v.scaleIn (a i))).1 % 2 ^ df.bits) ∧
        (sf = .i8 → df.isFloat = true → v.a.scalar = false → ∀ i, i < v.count → tabGet memReset c.mem (v.a.base.toNat + i) = 0 →
          (t.cell p).elem df v.dBase.toNat i = (convFloat df v.propagate x.2.2.2).1 % 2 ^ df.bits)

/-- RSUM, RMIN, RMAX, RMEAN, RVAR, NORM, SOFTMAX and ARGMAX: on a row of I8 elements the sum, the least, the largest, the mean rounded to nearest even, the zero variance and zero deviations of a uniform row, equal shares of a uniform soft maximum, and the lowest channel of the largest value; bytes outside the result rows and the scratch are as before (R138 to R144, R150). Rests on 05_vector_unit_and_special_functions.md. -/
def Obligations.RowInstructionsReduceTheirRows : Prop :=
  ∀ (p : Fin 36) (s : State) (q : QIns) (rest : List QIns) (m : CellCmd), (s.cell p).vectorQ = q :: rest →
    s.clockedCmd p = some m → q.vrec.reservedOk = true →
    let v := q.vrec
    let c := s.cell p
    let d := v.dBase.toNat
    let x := fun i => c.i8 (v.a.base.toNat + i)
    let sum := ((List.range v.count).map x).sum
    let one := v.rows = 1 ∧ v.a.fmt = some .i8 ∧ v.a.uns = false
    let uniform := ∀ i, i < v.count → x i = x 0
    let flds := countFlds ++ [Fld.vecCountUniformRows, .vecCountVarClamped]
    let rows := fun (t : State) (n extra len : Nat) => CellOnly p flds s t ∧ Issued .vector q rest c (t.cell p) ∧
      ∀ y, (∀ r, r < v.rows → y < d + r * v.dStride ∨ d + r * v.dStride + n ≤ y) → (y < extra ∨ extra + len ≤ y) →
        tabGet memReset (t.cell p).mem y = tabGet memReset c.mem y
    let lane := (v.a.fmt.map laneBytes).getD 0
    (q.opcode = 0x0C → rowOk m v laneBytes = true → ∃ t, exec (.rsum p) s = .next t ∧ rows t lane 0 0 ∧
      (one → (t.cell p).readNat d 6 = ofSigned 48 sum)) ∧
    (q.opcode = 0x0D → rowOk m v laneBytes = true → ∃ t, exec (.rmin p) s = .next t ∧ rows t lane 0 0 ∧
      (one → let z := toSigned 48 ((t.cell p).readNat d 6)
        (∀ i, i < v.count → z ≤ x i) ∧ ∃ i, i < v.count ∧ z = x i)) ∧
    (q.opcode = 0x0E → rowOk m v laneBytes = true → ∃ t, exec (.rmax p) s = .next t ∧ rows t lane 0 0 ∧
      (one → let z := toSigned 48 ((t.cell p).readNat d 6)
        (∀ i, i < v.count → x i ≤ z) ∧ ∃ i, i < v.count ∧ z = x i)) ∧
    (q.opcode = 0x0F → rowOk m v (fun _ => 4) = true → ∃ t, exec (.rmean p) s = .next t ∧ rows t 4 0 0 ∧
      (one → toSigned 32 ((t.cell p).readNat d 4) = rneDiv sum v.count ∧
        (uniform → t.cfld .vecCountUniformRows p = satAdd 16 (s.cfld .vecCountUniformRows p) 1))) ∧
    (q.opcode = 0x10 → rowOk m v (fun _ => 8) = true → ∃ t, exec (.rvar p) s = .next t ∧ rows t 8 0 0 ∧
      (one → toSigned 32 ((t.cell p).readNat d 4) = rneDiv sum v.count ∧ (uniform → (t.cell p).readNat (d + 4) 4 = 0))) ∧
    (q.opcode = 0x11 → normOk m v = true → ∃ t, exec (.norm p) s = .next t ∧ rows t (dstBytes v .i8) 0 0 ∧
      (one → uniform → v.dFmt = some .i32 → v.dUns = false → ∀ i, i < v.count → (t.cell p).readNat (d + 4 * i) 4 = 0)) ∧
    (q.opcode = 0x12 → softmaxOk { m with tables := (s.ctx m.context).bank } v = true → ∃ t, exec (.softmax p) s = .next t ∧ rows t (dstBytes v .i8) v.scratch (2 * v.count) ∧
      (one → uniform → (d + 2 * v.count ≤ v.scratch ∨ v.scratch + 2 * v.count ≤ d) → ∀ i, i < v.count →
        ((t.cell p).readNat (d + 2 * i) 2 : Int) = min 65535 (rneDiv 65536 v.count) ∧
        (t.cell p).readNat (v.scratch + 2 * i) 2 = 32768)) ∧
    (q.opcode = 0x17 → argmaxOk m v = true → ∃ t, exec (.argmax p) s = .next t ∧ CellOnly p countFlds s t ∧
      Issued .vector q rest c (t.cell p) ∧
      (v.writeValue = false → CellBut d (2 * v.count) c (t.cell p) ∧
        (v.a.fmt = some .i8 → v.a.uns = false → ∀ i, i < v.count →
          let ch := (t.cell p).readNat (d + 2 * i) 2
          let val := fun k => c.i8 (v.a.base.toNat + k * v.aStride + i)
          ch < v.rows ∧ ∀ k, k < v.rows → val k ≤ val ch ∧ (k < ch → val k < val ch))))

/-- SCALE_LOAD, DERIVE and BLOCK_CONVERT: entries are read from consecutive words into a bank, which then counts as loaded; a derived integer entry has the largest multiplier below 2^15 that keeps the record's maximum in range, a derived float entry 0x4000 with the shift that does, clamped at the ends of the shift; loads and derives wait, counted, while a drain uses what they write; block conversion writes its destination, blocks packed and elements converted through the named entry (R155, R156, R160, R172, R177). Rests on 06_scales_and_quantisation.md. -/
def Obligations.ScalesAreLoadedDerivedAndUsed : Prop :=
  ∀ (p : Fin 36) (s : State) (q : QIns) (rest : List QIns) (m : CellCmd), (s.cell p).vectorQ = q :: rest →
    s.clockedCmd p = some m →
    let v := q.vrec
    let c := s.cell p
    let store := if v.fusedTarget then 4 else v.bank
    let keeps := fun (t : State) (store : Nat) => CellsBut p s t ∧ t.mem = s.mem ∧ (t.cell p).mem = c.mem ∧ (t.cell p).vectorQ = rest ∧
      (t.cell p).arrayQ = c.arrayQ ∧ (t.cell p).agQ = c.agQ ∧ (t.cell p).dmaQ = c.dmaQ ∧ (t.cell p).run = c.run ∧
      (t.cell p).inflight.map (·.id) = c.inflight.map (·.id) ++ [q.id] ∧
      ∃ f ∈ (t.cell p).inflight, f.id = q.id ∧ f.scale = some store
    let waits := fun (i : Instr) =>
      ∃ t, exec i s = .next t ∧ SetsOnly [(.scaleCountBankWaits, cellIx p, satAdd 16 (s.cfld .scaleCountBankWaits p) 1)] s t
    let loads := fun (t : State) (on : Bool) => ∀ b, b < 4 →
      bitOf (t.cfld .srfStatusLoaded p) b = (on && decide (b = v.bank) || bitOf (s.cfld .srfStatusLoaded p) b)
    (q.opcode = 0x18 → c.storeBusy v.bank = true → waits (.scaleLoad p)) ∧
    (q.opcode = 0x19 → c.storeBusy store = true → waits (.derive p)) ∧
    (q.opcode = 0x18 → c.storeBusy v.bank = false → v.reservedOk = true → scaleLoadOk m v = true →
      ∃ t, exec (.scaleLoad p) s = .next t ∧ keeps t v.bank ∧ (t.cell p).fused = c.fused ∧
        RegsBut [(.srfStatusLoaded, cellIx p), (.traceLostCount, [])] s t ∧ loads t true ∧
        (∀ i, i < v.count → (t.cell p).srfWord v.bank (v.entry + i) = BitVec.ofNat 64 (c.readNat (v.a.base.toNat + 8 * i) 8) &&& srfMask) ∧
        ∀ a, (a < 1024 * v.bank + v.entry ∨ 1024 * v.bank + v.entry + v.count ≤ a) →
          tabGet srfReset (t.cell p).srf a = tabGet srfReset c.srf a) ∧
    (q.opcode = 0x19 → c.storeBusy store = false → v.reservedOk = true → deriveOk m v = true → ∀ df, v.dFmt = some df →
      ∃ t, exec (.derive p) s = .next t ∧ keeps t store ∧
        RegsBut [(.srfStatusLoaded, cellIx p), (.scaleFlagsDeriveClamped, cellIx p), (.traceLostCount, [])] s t ∧
        loads t (!v.fusedTarget) ∧
        (∀ a, v.fusedTarget = true ∨ a < 1024 * v.bank + v.entry ∨ 1024 * v.bank + v.entry + v.count ≤ a →
          tabGet srfReset (t.cell p).srf a = tabGet srfReset c.srf a) ∧
        (∀ a, v.fusedTarget = false ∨ a < v.entry ∨ v.entry + v.count ≤ a → (t.cell p).fusedWord a = c.fusedWord a) ∧
        ∀ i, i < v.count →
          let old := if v.fusedTarget then c.fusedEntry (v.entry + i) else c.srfEntry v.bank (v.entry + i)
          let e := if v.fusedTarget then (t.cell p).fusedEntry (v.entry + i) else (t.cell p).srfEntry v.bank (v.entry + i)
          let clamped := t.cfld .scaleFlagsDeriveClamped p = 1
          e.off = old.off ∧ e.bias = old.bias ∧
          (df.isInt = true →
            let raw := c.readNat (v.a.base.toNat + 32 * i) 8
            let top := (targetInt df v.dUns v.offset).toNat
            (raw = 0 → e = old ∧ clamped) ∧
            (0 < raw → 2 ^ 15 ≤ top / raw → e.m = 32767 ∧ e.sh = 0 ∧ clamped) ∧
            (0 < raw → top / raw < 2 ^ 15 → e.m = (top * 2 ^ e.sh / raw : Nat) ∧ top * 2 ^ e.sh / raw < 2 ^ 15 ∧ e.sh ≤ 63 ∧
              (e.sh < 63 → 2 ^ 15 ≤ top * 2 ^ (e.sh + 1) / raw))) ∧
          (df.isInt = false → ∀ d, Fmt.a32.spec.decode (c.readNat (v.a.base.toNat + 32 * i) 4 % 2 ^ 32) = .fin d →
            let top := targetFlt df
            (d.m ≤ 0 → e = old ∧ clamped) ∧
            (0 < d.m → e.m = 0x4000 ∧ e.sh ≤ 63 ∧
              (0 < e.sh → (Dy.mk d.m (d.e + (15 - (e.sh : Int)))).le top = false) ∧
              (e.sh < 63 → (Dy.mk d.m (d.e + (14 - (e.sh : Int)))).le top = true))) ∧
          (df.isInt = false → (∀ d, Fmt.a32.spec.decode (c.readNat (v.a.base.toNat + 32 * i) 4 % 2 ^ 32) ≠ .fin d) → e = old ∧ clamped)) ∧
    (q.opcode = 0x1A → v.reservedOk = true → blockConvertOk m v = true → ∀ sf df, v.a.fmt = some sf → v.dFmt = some df →
      let x := fun i => ((c.vals sf v.a.uns v.a.base.toNat v.count).getD i (.int 0)).toF
      let entry := if v.entryEn then some (if v.fusedTarget then c.fusedEntry v.entry else c.srfEntry v.bank v.entry) else none
      ∃ t, exec (.blockConvert p) s = .next t ∧ CellOnly p countFlds s t ∧ Issued .vector q rest c (t.cell p) ∧
        CellBut v.dBase.toNat (packedBytes df v.count) c (t.cell p) ∧
        (df.isBlock = true → ∀ i, i < packedBytes df v.count → tabGet memReset (t.cell p).mem (v.dBase.toNat + i) =
          (packBlocks df v.propagate ((List.range v.count).map x)).1.getD i 0) ∧
        (df.isBlock = false → ∀ i, i < v.count →
          (t.cell p).elem df v.dBase.toNat i = (outOfBlock entry df v (x i)).1 % 2 ^ df.bits)) ∧
    (q.opcode ≠ 0x18 → exec (.scaleLoad p) s = .next s) ∧ (q.opcode ≠ 0x19 → exec (.derive p) s = .next s) ∧
    (q.opcode ≠ 0x1A → exec (.blockConvert p) s = .next s)

/-- An instruction that a rule refuses at issue writes nothing: operand_refused is set, the fault register names its slot, and the command ends with status 0x02 after what was issued before; a DMA to a shelf group that refuses it sets that group's access_refused as well (R67, R208, R210, R260). Rests on 02_number_formats.md, 07_cell_instruction_set.md, 09_memory_tiers_and_integrity.md. -/
def Obligations.RefusedInstructionsWriteNothing : Prop :=
  ∀ (p : Fin 36) (s : State) (q : QIns) (rest : List QIns) (m : CellCmd), s.clockedCmd p = some m →
    ((s.cell p).arrayQ = q :: rest →
      (∀ i, q.mma (s.cell p) m.mode = some i → (s.cell p).storeLoading i.dst = false ∧
        (q.mmaClear && i.ok (s.cfld .srfStatusLoaded p) (s.cell p)) = false) →
      ∃ t, exec (.mma p) s = .next t ∧ Refused p 0 q s t) ∧
    ((s.cell p).vectorQ = q :: rest →
      ∀ x ∈ ([(.add p, 0x01, ElemOp.add.ok), (.sub p, 0x02, ElemOp.sub.ok), (.mul p, 0x03, ElemOp.mul.ok), (.madd p, 0x04, ElemOp.madd.ok),
          (.min p, 0x05, ElemOp.min.ok), (.max p, 0x06, ElemOp.max.ok), (.abs p, 0x07, ElemOp.abs.ok), (.neg p, 0x08, ElemOp.neg.ok),
          (.shift p, 0x09, ElemOp.shift.ok), (.select p, 0x0A, ElemOp.select.ok), (.convert p, 0x0B, convertOk),
          (.rsum p, 0x0C, (rowOk · · laneBytes)), (.rmin p, 0x0D, (rowOk · · laneBytes)), (.rmax p, 0x0E, (rowOk · · laneBytes)),
          (.rmean p, 0x0F, (rowOk · · fun _ => 4)), (.rvar p, 0x10, (rowOk · · fun _ => 8)), (.norm p, 0x11, normOk),
          (.softmax p, 0x12, softmaxOk), (.tanh p, 0x13, specOk), (.logistic p, 0x14, specOk), (.exp p, 0x15, specOk),
          (.log p, 0x16, specOk), (.argmax p, 0x17, argmaxOk), (.scaleLoad p, 0x18, scaleLoadOk), (.derive p, 0x19, deriveOk),
          (.blockConvert p, 0x1A, blockConvertOk)] : List (Instr × Nat × (CellCmd → VRec → Bool))),
        q.opcode = x.2.1 → (q.vrec.reservedOk && x.2.2 { m with tables := (s.ctx m.context).bank } q.vrec) = false →
        (q.opcode = 0x18 → (s.cell p).storeBusy q.vrec.bank = false) →
        (q.opcode = 0x19 → (s.cell p).storeBusy (if q.vrec.fusedTarget then 4 else q.vrec.bank) = false) →
        ∃ t, exec x.1 s = .next t ∧ Refused p 1 q s t) ∧
    ((s.cell p).agQ = q :: rest →
      ∀ x ∈ ([(.s2d p, 0x02, s2dOk), (.d2s p, 0x03, d2sOk), (.transpose p, 0x04, transposeOk), (.xin2 p, 0x05, wino2.inOk),
          (.xin4 p, 0x06, wino4.inOk), (.xout2 p, 0x07, wino2.outOk), (.xout4 p, 0x08, wino4.outOk), (.crop p, 0x09, cropOk)] :
          List (Instr × Nat × (CellCmd → PatF → AgRec → Bool))),
        q.opcode = x.2.1 → (q.agrec.reservedOk && x.2.2 m (patOf ((s.cell p).pattern q.patternIx)) q.agrec) = false →
        ∃ t, exec x.1 s = .next t ∧ Refused p 2 q s t) ∧
    ((s.cell p).agQ = q :: rest → q.opcode = 0x01 → (patOf (BitVec.ofNat 512 (q.record.toNat % 2 ^ 496))).clear = false →
      ∃ t, exec (.patternLoad p) s = .next t ∧ Refused p 2 q s t) ∧
    ((s.cell p).dmaQ = q :: rest → (s.cell p).dmas.length < 8 →
      let d := q.dmaJob.oriented (s.logical p)
      let spans := d.srcRows ++ d.dstRows
      let shut := (shelfGroups spans).filter fun g => s.shelfShut g || s.shelfHole g spans
      s.dmaOk (s.logical p) q d = false ∨ shut ≠ [] →
      ∃ t, exec (.dma p) s = .next t ∧ Refused p 2 q (shut.foldl State.shelfRefuse s) t ∧
        ∀ g ∈ shut, t.flag .shelfStatusAccessRefused [g] = true)

/-- PATTERN_LOAD, S2D, D2S and TRANSPOSE: the record becomes the named entry; output (c × b² + dy × b + dx, Y, X) takes input (c, Y × b + dy, X × b + dx) or the fill value, depth-to-space is the inverse, and a transposed element (j, i) takes element (i, j) (R113 to R115, R200, R202). Rests on 04_cell_memory_and_address_generation.md, 07_cell_instruction_set.md. -/
def Obligations.RegroupingMovesElements : Prop :=
  ∀ (p : Fin 36) (s : State) (q : QIns) (rest : List QIns) (m : CellCmd), (s.cell p).agQ = q :: rest → s.clockedCmd p = some m →
    let r := q.agrec
    let c := s.cell p
    let pat := patOf (c.pattern q.patternIx)
    let done := fun (t : State) (d : Planar) => CellOnly p [] s t ∧ Issued .ag q rest c (t.cell p) ∧
      ∀ a, (∀ k y, k < d.c → y < d.h → a < d.rowAt k y ∨ d.rowAt k y + packedBytes d.fmt d.w ≤ a) →
        tabGet memReset (t.cell p).mem a = tabGet memReset c.mem a
    (q.opcode = 0x01 → (patOf (BitVec.ofNat 512 (q.record.toNat % 2 ^ 496))).clear = true →
      ∃ t, exec (.patternLoad p) s = .next t ∧ CellOnly p [] s t ∧ (t.cell p).agQ = rest ∧ (t.cell p).mem = c.mem ∧
        (t.cell p).pattern q.patternIx = BitVec.ofNat 512 (q.record.toNat % 2 ^ 496) ∧
        ∀ i, i ≠ q.patternIx → (t.cell p).pattern i = c.pattern i) ∧
    (r.reservedOk = true → ∀ f, r.sFmt = some f →
      (q.opcode = 0x02 → s2dOk m pat r = true →
        let src : Planar := ⟨f, r.sBase, r.sPlane, r.sRow, r.planes, r.height, r.width⟩
        let dst : Planar := ⟨f, r.dBase, r.dPlane, r.dRow, r.planes * r.b * r.b, (r.height + r.b - 1) / r.b, (r.width + r.b - 1) / r.b⟩
        ∃ t, exec (.s2d p) s = .next t ∧ done t dst ∧
          ∀ k dy dx y x, k < r.planes → dy < r.b → dx < r.b → y < dst.h → x < dst.w →
            dst.get (t.cell p) (k * r.b * r.b + dy * r.b + dx) y x =
              if y * r.b + dy < r.height ∧ x * r.b + dx < r.width then src.get c k (y * r.b + dy) (x * r.b + dx)
              else r.fill % 2 ^ f.bits) ∧
      (q.opcode = 0x03 → d2sOk m pat r = true →
        let src : Planar := ⟨f, r.sBase, r.sPlane, r.sRow, r.planes * r.b * r.b, (r.height + r.b - 1) / r.b, (r.width + r.b - 1) / r.b⟩
        let dst : Planar := ⟨f, r.dBase, r.dPlane, r.dRow, r.planes, r.height, r.width⟩
        ∃ t, exec (.d2s p) s = .next t ∧ done t dst ∧
          ∀ k dy dx y x, k < r.planes → dy < r.b → dx < r.b → y * r.b + dy < r.height → x * r.b + dx < r.width →
            dst.get (t.cell p) k (y * r.b + dy) (x * r.b + dx) = src.get c (k * r.b * r.b + dy * r.b + dx) y x) ∧
      (q.opcode = 0x04 → transposeOk m pat r = true →
        let src : Planar := ⟨f, r.sBase, r.sPlane, r.sRow, 1, r.height, r.width⟩
        let dst : Planar := ⟨f, r.dBase, r.dPlane, r.dRow, 1, r.width, r.height⟩
        ∃ t, exec (.transpose p) s = .next t ∧ done t dst ∧
          ∀ i j, i < r.height → j < r.width → dst.get (t.cell p) 0 j i = src.get c 0 i j))

/-- XIN2, XIN4, XOUT2, XOUT4 and CROP: in freeze mode 32 times the high part plus the low part is the exact transform of the patch, and the output is the exact inverse transform divided by 4, a remainder ending the command with status 0x04; a crop writes its boxes (R116 to R122). Rests on 04_cell_memory_and_address_generation.md. -/
def Obligations.TransformsAndCropsWriteTheirTensors : Prop :=
  ∀ (p : Fin 36) (s : State) (q : QIns) (rest : List QIns) (m : CellCmd), (s.cell p).agQ = q :: rest → s.clockedCmd p = some m →
    q.agrec.reservedOk = true →
    let r := q.agrec
    let c := s.cell p
    let pat := patOf (c.pattern q.patternIx)
    let outside := fun (t : State) (ds : List Planar) => ∀ a, (∀ d ∈ ds, ∀ k y, k < d.c → y < d.h →
      a < d.rowAt k y ∨ d.rowAt k y + packedBytes d.fmt d.w ≤ a) → tabGet memReset (t.cell p).mem a = tabGet memReset c.mem a
    let vs := fun (w : Winograd) f base => (List.range (w.n * w.n)).map (w.vTensor r pat f base)
    (∀ x ∈ ([(.xin2 p, 0x05, wino2), (.xin4 p, 0x06, wino4)] : List (Instr × Nat × Winograd)),
      q.opcode = x.2.1 → x.2.2.inOk m pat r = true → ∀ f, r.dFmt = some f →
      ∃ t, exec x.1 s = .next t ∧ CellOnly p countFlds s t ∧ Issued .ag q rest c (t.cell p) ∧
        outside t (vs x.2.2 f r.dBase ++ if m.mode = .freeze then vs x.2.2 f r.xBase else [])) ∧
    (q.opcode = 0x05 → wino2.inOk m pat r = true → m.mode = .freeze → pat.ci * r.dPlane ≤ r.group → r.dBase + 16 * r.group ≤ r.xBase →
      ∀ f, pat.fmt = some f →
      ∃ t, exec (.xin2 p) s = .next t ∧
        ∀ xi k ty tx, xi < 16 → k < pat.ci → ty < (pat.ho.toNat + 1) / 2 → tx < (pat.wo.toNat + 1) / 2 →
          32 * toSigned 8 ((wino2.vTensor r pat .i8 r.dBase xi).get (t.cell p) k ty tx) +
              (wino2.vTensor r pat .i8 r.xBase xi).get (t.cell p) k ty tx =
            at2d 0 (sandwichInt bt2 ((wino2.patch pat f c k ty tx).map (·.map (·.toI)))) (xi / 4) (xi % 4)) ∧
    (∀ x ∈ ([(.xout2 p, 0x07, wino2), (.xout4 p, 0x08, wino4)] : List (Instr × Nat × Winograd)),
      q.opcode = x.2.1 → x.2.2.outOk m pat r = true → ∀ f, r.dFmt = some f →
      ∃ t, exec x.1 s = .next t ∧ CellOnly p (countFlds ++ [.agFlagsTransformResidue, .agCountTransformResidue]) s t ∧
        outside t [⟨f, r.dBase, r.dPlane, r.dRow, r.planes, r.height, r.width⟩] ∧
        (m.mode ≠ .freeze → Issued .ag q rest c (t.cell p))) ∧
    (q.opcode = 0x07 → wino2.outOk m pat r = true → m.mode = .freeze →
      let dst : Planar := ⟨.i32, r.dBase, r.dPlane, r.dRow, r.planes, r.height, r.width⟩
      let y := fun k i j =>
        let tile := i / 2 * ((r.width + 1) / 2) + j / 2
        let g := (List.range 4).map fun u => (List.range 4).map fun v =>
          32 * (r.drainedVal c .i32 r.sBase (4 * u + v) tile k).toI + (r.drainedVal c .i32 r.xBase (4 * u + v) tile k).toI
        at2d 0 (sandwichInt at2 g) (i % 2) (j % 2)
      ∃ t, exec (.xout2 p) s = .next t ∧
        (∀ k i j, k < r.planes → i < r.height → j < r.width →
          dst.get (t.cell p) k i j = ofSigned 32 (max (-2147483648) (min 2147483647 (y k i j / 4)))) ∧
        ((∃ k i j, k < r.planes ∧ i < r.height ∧ j < r.width ∧ y k i j % 4 ≠ 0) →
          t.cflag .agFlagsTransformResidue p = true ∧ ∃ e, (t.cell p).ended = some e ∧ 4 ≤ e)) ∧
    (q.opcode = 0x09 → cropOk m pat r = true → ∀ f, r.sFmt = some f →
      let src : Planar := ⟨f, r.sBase, r.sPlane, r.sRow, r.planes, r.height, r.width⟩
      let edge := fun o => toSigned 32 (c.readNat (r.xBase.toNat + o) 4)
      ∃ t, exec (.crop p) s = .next t ∧ CellOnly p (countFlds ++ [.agFlagsCropClamped, .agCountCropClamped]) s t ∧
        Issued .ag q rest c (t.cell p) ∧ outside t ((List.range r.boxes).map fun (k : Nat) =>
          ⟨f, r.dBase + k * r.group, r.dPlane, r.dRow, r.planes, r.outH, r.outW⟩) ∧
        (r.boxes = 1 → ∀ k i j, k < r.planes → i < r.outH → j < r.outW →
          Planar.get ⟨f, r.dBase, r.dPlane, r.dRow, r.planes, r.outH, r.outW⟩ (t.cell p) k i j =
            (cropElem r src c k (cropCoord (edge 0) (edge 8) i r.outH r.height).1
              (cropCoord (edge 4) (edge 12) j r.outW r.width).1).1 % 2 ^ f.bits))

/-- DMA and DMA_COMPLETE: an accepted transfer is under way with at most eight beside it, with its transactions at the shelf groups it names; at its end every byte of the source stands at its place of the destination, by rows and planes or transposed, its digest is checked and counted, and its tally is signalled, a wrong digest ending the command with status 0x07 instead; while a shelf group owes it transactions it does not end (R115, R203, R232, R233, R253, R254, R259, R263 to R265). Rests on 07_cell_instruction_set.md, 09_memory_tiers_and_integrity.md, 04_cell_memory_and_address_generation.md. -/
def Obligations.DmaMovesItsBytes : Prop :=
  (∀ (p : Fin 36) (s : State) (q : QIns) (rest : List QIns) (m : CellCmd), (s.cell p).dmaQ = q :: rest → s.clockedCmd p = some m →
    let d0 := q.dmaJob.oriented (s.logical p)
    let spans := d0.srcRows ++ d0.dstRows
    let d := { d0 with groups := shelfGroups spans }
    (8 ≤ (s.cell p).dmas.length → exec (.dma p) s = .next s) ∧
    ((s.cell p).dmas.length < 8 → s.dmaOk (s.logical p) q d0 = true →
      (∀ g ∈ d.groups, s.shelfShut g = false ∧ s.shelfHole g spans = false) →
      ∃ t, exec (.dma p) s = .next t ∧
        t = { s with regs := t.regs, cells := t.cells, trace := t.trace, draws := t.draws, queues := t.queues, ctxs := t.ctxs,
                     shelves := t.shelves } ∧ CellsBut p s t ∧
        (t.cell p).dmaQ = rest ∧ (t.cell p).mem = (s.cell p).mem ∧ (t.cell p).dmas = (s.cell p).dmas ++ [d] ∧
        d.src = (q.stepped (q.f 0 47 0) (q.sf 0x34 25 0)).toNat ∧
        (t.cell p).inflight = (s.cell p).inflight ++ [⟨q.id, .dma, 1, q.tag, q.layer, q.bundle, 0, 0, 0, none⟩] ∧
        (d.groups = [] → CellOnly p [] s t) ∧
        ((∀ g ∈ d.groups, s.forcedOn 4 g = false ∧ s.shelfWhole g = true) → t.queues = s.queues ∧ t.ctxs = s.ctxs ∧
          RegsBut [(.traceLostCount, [])] s t) ∧
        (d.groups ≠ [] → ∀ g, g < 2 → ∃ new, (t.shelf g).txns = (s.shelf g).txns ++ new ∧
          new.length = ((List.range d.transactions).filter fun i => d.farGroup (256 * i) == some g).length ∧
          ∀ x ∈ new, x.owner = some ((p : Nat), q.id) ∧ x.late = false))) ∧
  ∀ (p : Fin 36) (id : Nat) (s : State),
    ((s.cell p).dmas.find? (fun d => d.id == id) = none → exec (.dmaComplete p id) s = .next s) ∧
    ∀ d, (s.cell p).dmas.find? (fun d => d.id == id) = some d →
    let good := d.digestEn = false ∨ digest64 (d.srcRows.flatMap fun w => s.devRead w.1 w.2) = d.digest
    let mapped := ∀ w ∈ d.dstRows, ∀ i, i < w.2 → s.place (w.1 + i) ≠ .hole
    (s.gated = true ∨ s.shelfOwes p d = true → exec (.dmaComplete p id) s = .next s) ∧
    (s.gated = false → s.shelfOwes p d = false →
    ∃ t, exec (.dmaComplete p id) s = .next t ∧ t = { s with regs := t.regs, mem := t.mem, cells := t.cells, tallyPend := t.tallyPend } ∧
      (t.cell p).dmas = dropFirst (fun x => x.id == d.id) (s.cell p).dmas ∧
      RegsBut ([Fld.dmaCountDigestChecks, .dmaCountDigestFaults, .dmaFaultValid, .dmaFaultOutbound, .dmaFaultBundle, .dmaExpDigest,
        .dmaGotDigest].map fun f => (f, cellIx p)) s t ∧
      (∀ a, (∀ w ∈ d.dstRows, a < w.1 ∨ w.1 + w.2 ≤ a) → t.devByte a = s.devByte a) ∧
      (good → t.tallyPend = s.tallyPend ++ [⟨none, d.tally, d.inc⟩] ∧ (t.cell p).ended = (s.cell p).ended) ∧
      (¬ good → t.tallyPend = s.tallyPend ∧ t.cflag .dmaFaultValid p = true ∧ ∃ e, (t.cell p).ended = some e ∧ 7 ≤ e) ∧
      (d.digestEn = true → t.cfld .dmaCountDigestChecks p = satAdd 16 (s.cfld .dmaCountDigestChecks p) 1) ∧
      (mapped → d.transpose = 0 → d.rowBytes ≤ d.dstRow → (d.rows - 1) * d.dstRow + d.rowBytes ≤ d.dstPlane →
        ∀ k j i, k < d.planes → j < d.rows → i < d.rowBytes →
          t.devByte (d.dst + k * d.dstPlane + j * d.dstRow + i) = s.devByte (d.src + k * d.srcPlane + j * d.srcRow + i)) ∧
      (mapped → d.transpose ≠ 0 → d.planes = 1 → d.rows * 2 ^ (d.transpose - 1) ≤ d.dstRow →
        let e := 2 ^ (d.transpose - 1)
        ∀ i k b, i < d.rows → k < d.rowBytes / e → b < e →
          t.devByte (d.dst + k * d.dstRow + i * e + b) = s.devByte (d.src + i * d.srcRow + k * e + b)))

/-- SHELF_ATTACH, SHELF_ATTACHED, SHELF_DETACH, SHELF_PARK, SHELF_DEADLINE, SHELF_LATE_COMPLETION, SHELF_LOST and SHELF_ENGINE_FAIL: training, attached at a frame boundary with a size and its engines, a detach that waits, a group parked at a frame boundary whose window holds nothing any more, a late transaction, and a loss that ends the transfers to which the group owes transactions (R258 to R261, R268, R269). Rests on 09_memory_tiers_and_integrity.md. -/
def Obligations.ShelvesComeAndGo : Prop :=
  ∀ (g : Fin 2) (size : BitVec 13) (eng : BitVec 3) (txn : Nat) (cyc : BitVec 32) (e : Fin 3) (s : State), s.HostUp →
    let st := s.fld .shelfStatusState [g]
    let up := s.fld .shelfStatusEnginesUp [g]
    let others := fun (t : State) => ∀ g' : Nat, g' ≠ (g : Nat) → t.shelf g' = s.shelf g'
    let late := fun x : ShelfTxn => x.id == txn && x.late
    let open' := fun x : ShelfTxn => x.id == txn && !x.late
    let ends := fun (p : Nat) (d : DmaJob) => d.groups.contains (g : Nat) && (s.shelf g).txns.any fun t => t.owner == some (p, d.id)
    (st = 0 ∨ st = 3 → ∃ t, exec (.shelfAttach g) s = .next t ∧ t = { s with regs := t.regs, shelves := t.shelves } ∧ others t ∧
      t.shelf g = { s.shelf g with txns := [] } ∧ RegsSet [(.shelfStatusState, [(g : Nat)], 1)] s t) ∧
    (st = 1 ∨ st = 2 → exec (.shelfAttach g) s = .next s) ∧
    (s.station.boundary = true → st = 1 → size.toNat ≤ 4096 → ∃ t, exec (.shelfAttached g size eng) s = .next t ∧
      SetsOnly [(.shelfStatusState, [(g : Nat)], 2), (.shelfStatusSize, [(g : Nat)], size.toNat),
        (.shelfStatusEnginesUp, [(g : Nat)], eng.toNat)] s t) ∧
    (s.station.boundary = false ∨ st ≠ 1 ∨ 4096 < size.toNat → exec (.shelfAttached g size eng) s = .next s) ∧
    (st = 2 → ∃ t, exec (.shelfDetach g) s = .next t ∧ SetsOnly [(.shelfStatusDetachPending, [(g : Nat)], 1)] s t) ∧
    (st ≠ 2 → exec (.shelfDetach g) s = .next s ∧ exec (.shelfEngineFail g e) s = .next s) ∧
    (s.station.boundary = true → s.fld .shelfStatusDetachPending [g] = 1 → (s.shelf g).txns = [] →
      ∃ t, exec (.shelfPark g) s = .next t ∧ t = { s with regs := t.regs, mem := t.mem } ∧
        RegsSet [(.shelfStatusState, [(g : Nat)], 0), (.shelfStatusDetachPending, [(g : Nat)], 0), (.shelfStatusSize, [(g : Nat)], 0),
          (.shelfStatusEnginesUp, [(g : Nat)], 0)] s t ∧
        ∀ a, tabGet memReset t.mem a = if shelfWindow a = some (g : Nat) then 0 else tabGet memReset s.mem a) ∧
    (s.station.boundary = false ∨ s.fld .shelfStatusDetachPending [g] = 0 ∨ (s.shelf g).txns ≠ [] → exec (.shelfPark g) s = .next s) ∧
    (∀ x, (s.shelf g).txns.find? open' = some x →
      (∃ t, exec (.shelfDeadline g txn true) s = .next t ∧ t = { s with shelves := t.shelves } ∧ others t ∧
        t.shelf g = { s.shelf g with txns := dropFirst open' (s.shelf g).txns }) ∧
      ∃ t, exec (.shelfDeadline g txn false) s = .next t ∧ t = { s with shelves := t.shelves } ∧ others t ∧
        (t.shelf g).txns.map (·.id) = (s.shelf g).txns.map (·.id) ∧ (∃ y ∈ (t.shelf g).txns, y.id = txn ∧ y.late = true)) ∧
    (∀ x, (s.shelf g).txns.find? late = some x →
      (s.replaying = true → exec (.shelfLateCompletion g txn cyc) s = .next s) ∧
      (s.replaying = false → ∃ t, exec (.shelfLateCompletion g txn cyc) s = .next t ∧ others t ∧ t.mem = s.mem ∧ t.cells = s.cells ∧
        (t.shelf g).txns = dropFirst (fun y => y.id == x.id) (s.shelf g).txns ∧
        t.fld .shelfCountLate [g] = satAdd 16 (s.fld .shelfCountLate [g]) 1 ∧
        (x.owner = none → s.recording = false →
          t = { s with regs := t.regs, shelves := t.shelves } ∧ RegsBut [(.shelfCountLate, [(g : Nat)])] s t))) ∧
    ((s.shelf g).txns.find? late = none → exec (.shelfLateCompletion g txn cyc) s = .next s) ∧
    (∀ i ∈ [Instr.shelfLost g, .shelfEngineFail g e], st = 2 →
      (i = .shelfLost g → ∃ x ∈ (s.shelf g).txns, x.late = true) → (i = .shelfEngineFail g e → up = 2 ^ (e : Nat)) →
        ∃ t, exec i s = .next t ∧ t = { s with regs := t.regs, mem := t.mem, cells := t.cells, shelves := t.shelves } ∧ others t ∧
          (t.shelf g).txns = [] ∧ t.fld .shelfStatusState [g] = 3 ∧
          RegsBut [(.shelfStatusState, [(g : Nat)]), (.shelfStatusDetachPending, [(g : Nat)]), (.shelfStatusEnginesUp, [(g : Nat)])] s t ∧
          (∀ p, p < 36 → ((s.cell p).dmas.map (·.id)).Nodup → (t.cell p).dmas = (s.cell p).dmas.filter fun d => !ends p d) ∧
          ((∀ p, p < 36 → ∀ d ∈ (s.cell p).dmas, ends p d = true → d.transpose = 0) →
            ∀ a, shelfWindow a ≠ some (g : Nat) →
              (∀ p, p < 36 → ∀ d ∈ (s.cell p).dmas, ends p d = true → ∀ w ∈ d.dstRows, a < w.1 ∨ w.1 + w.2 ≤ a) →
              t.devByte a = s.devByte a)) ∧
    ((st ≠ 2 ∨ ∀ x ∈ (s.shelf g).txns, x.late = false) → exec (.shelfLost g) s = .next s) ∧
    (st = 2 → up ≠ 2 ^ (e : Nat) → up ≠ 0 →
      ∃ t, exec (.shelfEngineFail g e) s = .next t ∧ t = { s with regs := t.regs, queues := t.queues, ctxs := t.ctxs } ∧
        t.fld .shelfStatusEnginesUp [g] = (if bitOf up e then up - 2 ^ (e : Nat) else up) ∧
        RegsBut ((.shelfStatusEnginesUp, [(g : Nat)]) :: (List.range 64).map fun c => (.ctxLateTimingLost, [c])) s t ∧
        ((s.shelf g).txns = [] → t.queues = s.queues ∧ t.ctxs = s.ctxs ∧ RegsBut [(.shelfStatusEnginesUp, [(g : Nat)])] s t))

/-- BCE_RING_TAIL, KCX_RING_TAIL, MOT_RING_TAIL, RING_CFG_WRITE, RING_FLUSH and RING_RESUME: a tail is taken or refused by the conditions of a doorbell and is an input of a recording, an enabled ring changes only its enable, a flush takes head to tail and a resume clears halted, both only on a halted ring (R218, R243, R290, R294, R298, R334, R416, R417). Rests on 10_block_compression_engine.md, 11_coding_layer.md, 12_video_coding_engines.md, 08_sequencers_queues_and_streaming.md, 14_determinism_and_freeze_mode.md. -/
def Obligations.RingControlsActAsWritten : Prop :=
  (∀ (n : Fin 8) (k : Fin 16) (tail : BitVec 32) (s : State), s.bus.held = none →
    ∀ x ∈ ([(.bceRingTail n tail, .bce, (n : Nat)), (.kcxRingTail k tail, .kcx, (k : Nat)), (.motRingTail n tail, .mot, (n : Nat))] :
        List (Instr × RingEngine × Nat)),
      let f := ringFlds x.2.1
      let i := x.2.2
      let bad := (tail - BitVec.ofNat 32 (s.fld f.tail [i])).toInt < 0 ∨
        2 ^ s.fld f.log2 [i] < (tail - BitVec.ofNat 32 (s.fld f.head [i])).toNat ∨ s.fld f.enable [i] = 0 ∨ s.ready = false
      (s.hostUp = false ∨ s.replaying = true → exec x.1 s = .next s) ∧
      (s.hostUp = true → s.replaying = false → bad → ∃ t, exec x.1 s = .next t ∧ SetsOnly [(f.tailRefused, [i], 1)] s t) ∧
      (s.hostUp = true → s.replaying = false → ¬ bad → ∃ t, exec x.1 s = .next t ∧ t = { s with regs := t.regs, rr := t.rr } ∧
        t.fld f.tail [i] = tail.toNat ∧ RegsBut [(f.tail, [i]), (.rrStatusOverflow, [])] s t ∧
        (s.recording = false → SetsOnly [(f.tail, [i], tail.toNat)] s t) ∧
        (s.recording = true → s.rr.lost = 0 → s.rr.buffer.length < rrDepth →
          t.rr = { s.rr with buffer := s.rr.buffer ++ [s.rrRecord 9 (ringSource x.2.1 * 4096 + i) 0 tail.toNat 0] }))) ∧
  ∀ (e : RingEngine) (k : Fin 16) (val : BitVec 32) (s : State), s.HostUp →
    let f := ringFlds e
    let log2 := val.toNat / 2 ^ 27 % 16
    (ringCount e ≤ (k : Nat) →
      exec (.ringCfgWrite e k val) s = .next s ∧ exec (.ringFlush e k) s = .next s ∧ exec (.ringResume e k) s = .next s) ∧
    ((k : Nat) < ringCount e →
      (s.fld f.enable [k] = 1 → (log2 ≠ s.fld f.log2 [k] ∨ val.toNat % 4096 ≠ s.fld f.fault [k]) →
        ∃ t, exec (.ringCfgWrite e k val) s = .next t ∧ SetsOnly [(f.cfgRefused, [(k : Nat)], 1)] s t) ∧
      (s.fld f.enable [k] = 1 → log2 = s.fld f.log2 [k] → val.toNat % 4096 = s.fld f.fault [k] →
        ∃ t, exec (.ringCfgWrite e k val) s = .next t ∧ SetsOnly [(f.enable, [(k : Nat)], val.toNat / 2 ^ 31)] s t) ∧
      (s.fld f.enable [k] = 0 →
        ((val.toNat / 2 ^ 31 = 1 ∧ ¬ (4 ≤ log2 ∧ log2 ≤ 12 ∧ s.spanLoadable (s.fld f.base [k] * 64) (128 * 2 ^ log2) = true)) →
          ∃ t, exec (.ringCfgWrite e k val) s = .next t ∧ SetsOnly [(f.cfgRefused, [(k : Nat)], 1)] s t) ∧
        ((val.toNat / 2 ^ 31 = 0 ∨ (4 ≤ log2 ∧ log2 ≤ 12 ∧ s.spanLoadable (s.fld f.base [k] * 64) (128 * 2 ^ log2) = true)) →
          ∃ t, exec (.ringCfgWrite e k val) s = .next t ∧ SetsOnly [(f.enable, [(k : Nat)], val.toNat / 2 ^ 31),
            (f.log2, [(k : Nat)], log2), (f.fault, [(k : Nat)], val.toNat % 4096)] s t)) ∧
      (s.fld f.halted [k] = 1 →
        (∃ t, exec (.ringFlush e k) s = .next t ∧ SetsOnly [(f.head, [(k : Nat)], s.fld f.tail [k])] s t) ∧
        ∃ t, exec (.ringResume e k) s = .next t ∧ SetsOnly [(f.halted, [(k : Nat)], 0)] s t) ∧
      (s.fld f.halted [k] = 0 → exec (.ringFlush e k) s = .next s ∧ exec (.ringResume e k) s = .next s))

/-- BCE_COMPRESS, BCE_DECOMPRESS, SEARCH, COMPENSATE, POOL and POOL_CLEAR: the head job of the first ready ring leaves its ring and runs on its engine, writes only inside its output, and has the status and time its rules give; a motion job without a frame header ends with status 0x1A (R287, R290, R292, R334, R338, R343, R345, R348). Rests on 10_block_compression_engine.md, 12_video_coding_engines.md. -/
def Obligations.CompressionAndMotionJobsRun : Prop :=
  ∀ (n : Fin 8) (s : State),
    let bw := s.headDesc .bce n
    let mw := s.headDesc .mot n
    let took := fun (t : State) (e : RingEngine) (w : BitVec 1024) (j : JobSt) =>
      t.job (ringUnit e n) = some j ∧ j.ring = (n : Nat) ∧ j.index = s.fld (ringFlds e).head [n] ∧ j.desc = w ∧
      t.fld (ringFlds e).head [n] = (s.fld (ringFlds e).head [n] + 1) % 2 ^ 32 ∧
      (∀ u, u ≠ ringUnit e n → t.job u = s.job u) ∧ t.queues = s.queues ∧ t.tallyPend = s.tallyPend ∧ t.kblocks = s.kblocks ∧
      t.host = s.host
    let bready := s.ringFirst .bce n = true ∧ s.bceVerdict (s.fld .bceRingHeadHead [n]) bw = 0
    let mready := s.ringFirst .mot n = true ∧ s.motVerdict (s.fld .motRingHeadHead [n]) mw = 0
    let poolFlds := (.motRingHeadHead, [(n : Nat)]) :: (List.range 8).flatMap fun k =>
      [(.motPoolFrame, [mContext mw, k]), (.motPoolMark, [mContext mw, k]), (.motPoolCompressed, [mContext mw, k])]
    (bready → bceOp bw = 1 →
      ∃ t j, exec (.bceCompress n) s = .next t ∧ took t .bce bw j ∧ RegsBut [(.bceRingHeadHead, [(n : Nat)])] s t ∧
        DevBut (bceOut bw).1 (bceOut bw).2 s t ∧ (j.status = 0 ∨ j.status = 0x10 ∨ j.status = 0x11 ∨ j.status = 0x12) ∧
        (j.status = 0 → j.cycles = 96 + bceCols bw * bceRows bw * s.bceCost bw + 64 ∧ t.devNat (bceDst bw) 4 = 0xB10C0001)) ∧
    (bready → bceOp bw = 2 →
      ∃ t j, exec (.bceDecompress n) s = .next t ∧ took t .bce bw j ∧ RegsBut [(.bceRingHeadHead, [(n : Nat)])] s t ∧
        DevBut (bcePlane bw (bceDst bw)).1 (bcePlane bw (bceDst bw)).2 s t ∧ j.status ∈ [0, 7, 8, 9, 0x13, 0x14] ∧
        (j.status = 0 → j.cycles = 96 + bceCols bw * bceRows bw * s.bceCost bw + 64) ∧
        (j.status = 0x13 ↔ s.bceHeaderOk bw = false) ∧ (j.status = 0x13 → DevSame s t)) ∧
    (mready → mOp mw = 1 →
      ∃ t j, exec (.search n) s = .next t ∧ took t .mot mw j ∧ RegsBut [(.motRingHeadHead, [(n : Nat)])] s t ∧
        DevBut (mFieldSpan mw (mB mw)).1 (mFieldSpan mw (mB mw)).2 s t ∧ (s.frameHeader mw = none → j.status = 0x1A ∧ DevSame s t) ∧
        (s.frameHeader mw ≠ none → j.status = 0 ∧ j.cycles = 96 + mWide mw * mHigh mw * s.searchCost mw + 64)) ∧
    (mready → mOp mw = 2 →
      ∃ t j, exec (.compensate n) s = .next t ∧ took t .mot mw j ∧
        RegsBut [(.motRingHeadHead, [(n : Nat)]), (.motCountSubstituted, [])] s t ∧
        (s.frameHeader mw = none → j.status = 0x1A ∧ DevSame s t) ∧
        ∀ h, s.frameHeader mw = some h → j.status = 0 ∧ j.cycles = 96 + mWide mw * mHigh mw * s.compCost mw + 64 ∧
          ∀ x, (∀ e ∈ mFieldSpan mw (mA mw) :: (List.range (mPlanes mw)).map fun p =>
              mTouched mw h p (s.outPlane mw p).1 (s.outPlane mw p).2, x < e.1 ∨ e.1 + e.2 ≤ x) → t.devByte x = s.devByte x) ∧
    (mready → mOp mw = 3 →
      ∃ t j, exec (.pool n) s = .next t ∧ took t .mot mw j ∧ DevSame s t ∧ j.cycles = 120 ∧ RegsBut poolFlds s t ∧
        (s.frameHeader mw = none → j.status = 0x1A) ∧
        (j.status ≠ 0 → ∀ k, k < 8 → poolMark t (mContext mw) k = poolMark s (mContext mw) k) ∧
        ∀ h, s.frameHeader mw = some h →
          let store := bitOf (hdrRef h) 11
          let slot := bitsOf (hdrRef h) 10 8
          let kept := poolMark s (mContext mw) slot = 2 ∧ bitOf (hdrRef h) (13 + slot) = false
          (refWordBad h = true → j.status = 0x1C) ∧
          (refWordBad h = false → store = true → kept → j.status = 0x1B) ∧
          (refWordBad h = false → ¬ (store = true ∧ kept) → j.status = 0 ∧
            (∀ k, k < 8 → (store = true → k ≠ slot) →
              poolMark t (mContext mw) k = if bitOf (hdrRef h) (13 + k) then 0 else poolMark s (mContext mw) k) ∧
            (store = true → poolMark t (mContext mw) slot = (if bitOf (hdrRef h) 12 then 2 else 1) ∧
              poolFrame t (mContext mw) slot = hdrFrame h ∧
              t.fld .motPoolCompressed [mContext mw, slot] = b2n (bitOf (hdrFlags h) 1)))) ∧
    (mready → mOp mw = 4 →
      ∃ t j, exec (.poolClear n) s = .next t ∧ took t .mot mw j ∧ DevSame s t ∧ j.status = 0 ∧ j.cycles = 120 ∧ RegsBut poolFlds s t ∧
        ∀ k, k < 8 → poolMark t (mContext mw) k = 0)

/-- A lossless compression with fixed slots is exact: after a job that ends with status 0, the slot of every block decodes to the samples of its block of the source plane (R276, R278, R282, R284, R285). Rests on 10_block_compression_engine.md. -/
def Obligations.LosslessBlocksDecodeToTheirInput : Prop :=
  ∀ (n : Fin 8) (s : State),
    let w := s.headDesc .bce n
    let at_ := fun k => bceDst w + bceDataAt false (bceRows w) + k * bceSlot w
    s.ringFirst .bce n = true → s.bceVerdict (s.fld .bceRingHeadHead [n]) w = 0 → bceOp w = 1 → bceLossy w = false → bcePacked w = false →
    ∃ t j, exec (.bceCompress n) s = .next t ∧ t.job 0 = some j ∧ (j.status = 0 →
      ∀ k, k < bceCols w * bceRows w → ∃ len, len ≤ 8 * bceSlot w ∧
        decodeBlock (bceDepth w) k (t.devNat (at_ k) (bceSlot w)) (fun m => some (t.devNat (at_ m) (bceSlot w))) =
          some (len, s.planeBlock w k))

/-- OPEN_ENC, OPEN_DEC, PASS_ENC, PASS_DEC, CLOSE_ENC, CLOSE_DEC, WRAP and UNWRAP: the head job of the first ready ring leaves its ring and runs; open blocks take their state, a pass or close without an open block of its side ends with status 0x16, WRAP writes the floor piece, UNWRAP finds nothing without one; OPEN_ENC, OPEN_DEC, PASS_DEC, CLOSE_DEC, WRAP and UNWRAP write only inside the spans their descriptor names and their state block, and a PASS_ENC or CLOSE_ENC that ends with status 0x09, 0x16 or 0x18 writes nothing (R297, R298, R313, R319, R322, R323, R325 to R328). Rests on 11_coding_layer.md. -/
def Obligations.CodingJobsRun : Prop :=
  ∀ (n : Fin 16) (s : State),
    let w := s.headDesc .kcx n
    let ready := s.ringFirst .kcx n = true ∧ s.kcxVerdict (s.fld .kcxRingHeadHead [n]) w = 0
    let lanes := kLanes w
    let byte := fun (t : State) => (t.devByte (kState w)).toNat
    let took := fun (t : State) (j : JobSt) =>
      t = { s with regs := t.regs, mem := t.mem, cells := t.cells, draws := t.draws, jobs := t.jobs, tables := t.tables,
                   kblocks := t.kblocks } ∧
      t.job 1 = some j ∧ j.ring = (n : Nat) ∧ j.index = s.fld .kcxRingHeadHead [n] ∧ j.desc = w ∧
      (∀ u, u ≠ 1 → t.job u = s.job u) ∧ t.fld .kcxRingHeadHead [n] = (s.fld .kcxRingHeadHead [n] + 1) % 2 ^ 32 ∧
      RegsBut [(.kcxRingHeadHead, [(n : Nat)]), (.kcxCountMarkersSkipped, [])] s t
    (ready → kOp w = 1 → ∃ t j, exec (.openEnc n) s = .next t ∧ took t j ∧ DevBut (kState w) 2112 s t ∧ j.status = 0 ∧
      j.cycles = 24 + lanes ∧ byte t = 1 ∧ t.tables = s.tables ∧
      ∃ b, t.kblock (kState w) = some b ∧ b.enc.length = lanes ∧ b.scratch = kA w ∧ b.limit = kLimit w ∧ b.fast = kFast w) ∧
    (ready → kOp w = 2 → ∃ t j, exec (.openDec n) s = .next t ∧ took t j ∧ DevBut (kState w) 2112 s t ∧ t.tables = s.tables ∧
      j.cycles = 48 + ceilDiv (kCount w) 256 ∧ j.status ∈ [0, 0x15, 0x16, 0x17, 0x19] ∧
      (j.status = 0x16 ↔ (kFirst w = false ∧ ∀ b, s.kblock (kState w) = some b → b.header = none)) ∧
      (j.status = 0x16 → DevSame s t ∧ t.kblocks = s.kblocks) ∧ (j.status ≠ 0x16 → byte t = 2)) ∧
    (∀ x ∈ ([(.passEnc n, 3, 1), (.passDec n, 4, 2), (.closeEnc n, 5, 1), (.closeDec n, 6, 2)] : List (Instr × Nat × Nat)),
      ready → kOp w = x.2.1 → ∃ t j, exec x.1 s = .next t ∧ took t j ∧
        (j.status = 0x16 ↔ s.openBlock w x.2.2 = none) ∧
        (j.status = 9 ∨ j.status = 0x16 ∨ j.status = 0x18 → DevSame s t ∧ t.tables = s.tables ∧ t.kblocks = s.kblocks) ∧
        (x.2.1 = 3 → j.status ∈ [0, 9, 0x11, 0x16, 0x18] ∧ (j.status = 0 → byte t = 1) ∧ (j.status = 0x11 → byte t = 3)) ∧
        (x.2.1 = 4 → j.status ∈ [0, 9, 0x15, 0x16, 0x18] ∧ (j.status = 0 ∨ j.status = 0x15 → byte t = 2)) ∧
        (x.2.1 = 5 → j.status ∈ [0, 9, 0x16] ∧ (j.status = 0 → byte t = 4)) ∧
        ∀ b, s.openBlock w x.2.2 = some b →
          ((x.2.1 = 3 ∨ x.2.1 = 4) → b.fast ≠ kFast w → j.status = 9) ∧
          (x.2.1 = 3 → j.status ≠ 0x11 → j.cycles = kPassTime w b.enc.length) ∧
          (x.2.1 = 4 → j.cycles = kPassTime w b.dec.length ∧ ∀ a, (a < kState w ∨ kState w + 2112 ≤ a) →
            (a < kA w ∨ kA w + (if b.adapter then 1 else 2) * kCount w + (if kNb w = 0 then 0 else 2 * kCount w) ≤ a) →
            t.devByte a = s.devByte a) ∧
          (x.2.1 = 5 → j.cycles = 48 + 2 * ceilDiv (unitRoom b.enc.length b.limit (b.tensors.length / 8)) 256) ∧
          (x.2.1 = 6 → byte t = 4 ∧ j.cycles = 16 + b.dec.length ∧ DevBut (kState w) 2112 s t ∧ (j.status = 0 ∨ j.status = 0x15))) ∧
    (ready → kOp w = 7 → ∃ t j, exec (.wrap n) s = .next t ∧ took t j ∧ DevBut (kB w) (kLimit w) s t ∧ j.status = 0 ∧
      j.cycles = 40 + 3 * ceilDiv (16 + kCount w) 256 ∧ t.tables = s.tables ∧ t.kblocks = s.kblocks ∧
      (t.devRead (kB w) 4 = [0, 0, 1, 0xB4])) ∧
    (ready → kOp w = 8 → ∃ t j, exec (.unwrap n) s = .next t ∧ took t j ∧ t.tables = s.tables ∧ t.kblocks = s.kblocks ∧
      DevBut (kB w) (Nat.min (kLimit w) (kCount w)) s t ∧ j.cycles = 48 + 3 * ceilDiv (kCount w) 256 ∧
      (j.status = 0 ∨ j.status = 0x15 ∨ j.status = 0x19) ∧ (j.status ≠ 0 → DevSame s t) ∧
      ((∀ i, i < kCount w → s.startCode (kA w) i (kCount w) ≠ some 0xB4) → j.status = 0x19))

/-- BCE_JOB_COMPLETE, KCX_JOB_COMPLETE and MOT_JOB_COMPLETE: the 32-byte record stands at the record address, last_status shows the status, the engine is free, and the done tally is signalled, or for a halting status the ring halts and its fault tally is signalled (R291, R293, R296, R321, R324, R335, R336, R418). Rests on 10_block_compression_engine.md, 11_coding_layer.md, 12_video_coding_engines.md, 14_determinism_and_freeze_mode.md. -/
def Obligations.JobsCompleteWithTheirRecord : Prop :=
  ∀ (n : Fin 8) (k : Fin 16) (s : State) (j : JobSt), j.status < 256 → j.body.length = 16 →
    ∀ x ∈ ([(.bceJobComplete n, .bce, (n : Nat), [1, 8, 9, 7, 0x10, 0x11, 0x12, 0x13, 0x14]),
        (.kcxJobComplete k, .kcx, (k : Nat), [0x08, 0x09, 0x11, 0x16, 0x18]), (.motJobComplete n, .mot, (n : Nat), [0x08, 0x09])] :
        List (Instr × RingEngine × Nat × List Nat)),
      s.job (ringUnit x.2.1 x.2.2.1) = some j → j.ring = x.2.2.1 →
      let f := ringFlds x.2.1
      let a := wordF j.desc 0x40 47 0
      let halts := if x.2.1 = .bce then j.status ≠ 0 else j.status ∈ x.2.2.2
      let o := if x.2.1 = .bce then 0x30 else 0x58
      ∃ t, exec x.1 s = .next t ∧
        t.job (ringUnit x.2.1 x.2.2.1) = none ∧ (∀ u, u ≠ ringUnit x.2.1 x.2.2.1 → t.job u = s.job u) ∧
        t.fld f.last [x.2.2.1] = j.status ∧
        (j.noRecord = true → DevSame s t) ∧
        (j.noRecord = false → s.recordStatus j.desc = 0 → DevBut a 32 s t ∧ t.devNat (a + 8) 4 = j.ring * 256 + j.status ∧
          (∀ i, i < 8 → t.devByte (a + i) = BitVec.ofNat 8 (j.desc.toNat / 2 ^ (8 * (0x48 + i)))) ∧
          (∀ i, i < 16 → t.devByte (a + 16 + i) = j.body.getD i 0)) ∧
        (halts → t.fld f.halted [x.2.2.1] = 1 ∧ t.tallyPend = s.tallyPend ++ [⟨none, s.fld f.fault [x.2.2.1], 1⟩] ∧
          t.alerts = s.alerts ++ [2]) ∧
        (¬ halts → t.fld f.halted [x.2.2.1] = s.fld f.halted [x.2.2.1] ∧ t.alerts = s.alerts ∧ t.msix = s.msix ∧
          t.tallyPend = s.tallyPend ++ [⟨none, wordF j.desc o 11 0, wordF j.desc o 24 12 + 1⟩]) ∧
        (s.replaying = false →
          t = { s with regs := t.regs, mem := t.mem, cells := t.cells, jobs := t.jobs, tallyPend := t.tallyPend, msix := t.msix,
                       alerts := t.alerts, rr := t.rr } ∧
          (s.recording = false → t.rr = s.rr) ∧
          RegsBut [(f.last, [x.2.2.1]), (f.halted, [x.2.2.1]), (⟨.msixPba, 63, 0⟩, [4]), (.bceCountFailedJobs, []),
            (.bceCountVerifyFaults, []), (.kcxCountSyntaxLosses, []), (.kcxFaultCountOutputFull, []), (.kcxFaultCountTableFaults, []),
            (.motCountPoolFaults, []), (.rrStatusOverflow, [])] s t)

/-- CTX_CREATE, CTX_RELEASE, CTX_IDLE, CTX_RESUME and CTX_CFG_WRITE: a create that no rule refuses pins the lowest ready bank of its profile and is pending, a refused one only sets its flag, a release completes with the last frame, a stalled context resumes, and the configuration changes only while idle (R149, R362, R363, R366, R370). Rests on 13_streams_rate_and_partitioning.md, 05_vector_unit_and_special_functions.md. -/
def Obligations.ContextsAreCreatedAndReleased : Prop :=
  ∀ (c : Fin 64) (reg : CtxReg) (val : BitVec 64) (s : State), s.HostUp →
    let st := s.fld .ctxStatusState [c]
    let n := s.fld .ctxLoadSequencer [c]
    let others := fun (t : State) => ∀ c' : Nat, c' ≠ (c : Nat) → t.ctx c' = s.ctx c'
    let poolFlds := (List.range 8).flatMap fun k =>
      [(Fld.motPoolMark, [(c : Nat), k]), (.motPoolFrame, [(c : Nat), k]), (.motPoolCompressed, [(c : Nat), k])]
    (st = 0 → s.createRefused c = false → ∃ t b, exec (.ctxCreate c) s = .next t ∧
      t = { s with regs := t.regs, ctxs := t.ctxs, ftb0 := t.ftb0, ftb1 := t.ftb1, ingress := t.ingress } ∧
      RegsBut ([(.ctxStatusState, [(c : Nat)]), (.seqLoadSum, [n])] ++ poolFlds) s t ∧ others t ∧ t.fld .ctxStatusState [c] = 1 ∧
      s.profileBank (s.fld .ctxCfgProfile [c]) = some b ∧ (s.ftb b).state = .ready ∧ (s.ftb b).profile = s.fld .ctxCfgProfile [c] ∧
      t.ftb b = { s.ftb b with pins := (s.ftb b).pins + 1 } ∧ t.ftb (1 - b) = s.ftb (1 - b) ∧ (t.ctx c).bank = some b ∧
      (t.ctx c).frames = [] ∧ (t.ctx c).nextFrame = (s.ctx c).nextFrame ∧ (∀ k, k < 8 → poolMark t c k = 0)) ∧
    (st = 0 → (s.fld .ctxPeriodPeriod [c] = 0 ∨ s.fld .ctxCellsCells [c] = 0 ∨ s.profileBank (s.fld .ctxCfgProfile [c]) = none ∨
        (∃ l, l < 32 ∧ s.ctxHas c l = true ∧ s.owns n l = false) ∨
        (s.fld .ctxScopeEnable [c] = 1 ∧ (s.fld .ctxCfgDepthM1 [c] = 1 ∨
          4095 < s.fld .ctxScopeBase [c] + s.fld .ctxScopeCountM1 [c])) ∨
        (s.fld .seqLoadCheckEn [n] = 1 ∧ s.fld .seqLoadLimit [n] < s.loadSum n + s.fld .ctxLoadLoad [c]) ∨
        sdiff32 (s.fld .ctxFirstFrame [c]) (s.fld .sttPositionFrame) < 1 ∨
        ∃ i, i < 3 ∧ s.fld .ctxGuardEnable [c, i] = 1 ∧
          (s.fld .ctxGuardStep [c, i] = 0 ∨ s.fld .ctxGuardDeadline [c, i] = 0)) →
      ∃ t, exec (.ctxCreate c) s = .next t ∧ SetsOnly [(.ctxStatusCreateRefused, [(c : Nat)], 1)] s t) ∧
    (st ≠ 0 → exec (.ctxCreate c) s = .next s) ∧
    (st = 2 ∨ st = 4 → ∃ t, exec (.ctxRelease c) s = .next t ∧ SetsOnly [(.ctxStatusState, [(c : Nat)], 3)] s t) ∧
    (st ≠ 2 → st ≠ 4 → exec (.ctxRelease c) s = .next s) ∧
    (st = 3 → (s.ctx c).frames = [] → ∃ t, exec (.ctxIdle c) s = .next t ∧
      t = { s with regs := t.regs, ctxs := t.ctxs, ftb0 := t.ftb0, ftb1 := t.ftb1 } ∧ others t ∧
      RegsBut [(.ctxStatusState, [(c : Nat)]), (.ctxStatusDeferred, [(c : Nat)]), (.seqLoadSum, [n])] s t ∧
      t.fld .ctxStatusState [c] = 0 ∧ t.fld .ctxStatusDeferred [c] = 0 ∧ (t.ctx c).bank = none ∧
      ∀ b, (s.ctx c).bank = some b → (t.ftb b).pins = (s.ftb b).pins - 1 ∧ (t.ftb b).state = (s.ftb b).state) ∧
    (st ≠ 3 ∨ (s.ctx c).frames ≠ [] → exec (.ctxIdle c) s = .next s) ∧
    (st = 4 → ∃ t, exec (.ctxResume c) s = .next t ∧ SetsOnly [(.ctxStatusState, [(c : Nat)], 2)] s t) ∧
    (st ≠ 4 → exec (.ctxResume c) s = .next s) ∧
    (st = 0 → let r := ctxRegOf c reg
      ∃ t, exec (.ctxCfgWrite c reg val) s = .next t ∧ t = { s with regs := t.regs } ∧
        (∀ f ∈ r.1.row.fields, f.acc = .rw → ∀ i, f.lo ≤ i → i ≤ f.hi → t.regBit (r.1.addr r.2) i = val.getLsbD i) ∧
        ∀ a, a ≠ r.1.addr r.2 → tabGet regReset t.regs a = tabGet regReset s.regs a) ∧
    (st ≠ 0 → ∃ t, exec (.ctxCfgWrite c reg val) s = .next t ∧ SetsOnly [(.ctxStatusCfgRefused, [(c : Nat)], 1)] s t)

/-- ADMISSION_POSITION, DEFERRED_FRAME_TAKEN, FRAME_WATCHDOG and GUARD_CHECK: below the depth a frame is taken, at the depth it is deferred or dropped, a second position of a deferred frame stalls the context, positions outside Flow or with a halted sequencer are skipped and counted, an overdue frame is abandoned, and a late guard costs its frame the timing flag (R362, R367 to R371, R380, R381, R416, R499, R530, R548). Rests on 13_streams_rate_and_partitioning.md, 14_determinism_and_freeze_mode.md, 17_power_clocks_and_metering.md, 18_faults_recovery_and_live_service.md. -/
def Obligations.AdmissionTakesDefersOrDrops : Prop :=
  (∀ (c : Fin 64) (s : State), s.positionDue c = false → exec (.admissionPosition c) s = .next s) ∧
  (∀ (c : Fin 64) (s : State), s.positionDue c = true →
    let n := s.fld .ctxLoadSequencer [c]
    let v := s.ctx c
    let st := s.fld .ctxStatusState [c]
    let now := if st = 1 then 2 else st
    let still := fun (t : State) => t = { s with regs := t.regs, ctxs := t.ctxs } ∧ (t.ctx c).frames = v.frames ∧
      (t.ctx c).deferred = v.deferred ∧ ∀ c' : Nat, c' ≠ (c : Nat) → t.ctx c' = s.ctx c'
    ((s.replaying = true ∨ s.power.descent = true) → ∃ t, exec (.admissionPosition c) s = .next t ∧ still t ∧
      RegsSet [(.ctxStatusState, [(c : Nat)], now)] s t) ∧
    (s.replaying = false → s.power.descent = false →
      (s.inFlow = false → ∃ t, exec (.admissionPosition c) s = .next t ∧ still t ∧
        RegsSet [(.ctxStatusState, [(c : Nat)], now),
          (.pwrCountAdmissionsSkipped, [], satAdd 16 (s.fld .pwrCountAdmissionsSkipped) 1)] s t) ∧
      (s.inFlow = true → (s.seqHalted n = true ∨ s.setHalted c = true) → ∃ t, exec (.admissionPosition c) s = .next t ∧ still t ∧
        RegsSet [(.ctxStatusState, [(c : Nat)], now),
          (.dseqStatusAdmissionsSkipped, [n], satAdd 16 (s.fld .dseqStatusAdmissionsSkipped [n]) 1)] s t))) ∧
  (∀ (c : Fin 64) (s : State), s.positionDue c = true → s.replaying = false → s.power.descent = false → s.inFlow = true →
    s.seqHalted (s.fld .ctxLoadSequencer [c]) = false → s.setHalted c = false →
    let v := s.ctx c
    let st := s.fld .ctxStatusState [c]
    let tails := s.newTails c
    let w := s.fld .rcvCfgWatchdog [c]
    let late := w ≠ 0 ∧ ∃ f rest, v.frames = f :: rest ∧ w ≤ v.positions + 1 - f.pos
    let act := st = 1 ∨ st = 2
    let quiet := s.flag .outCfgEnable [c] = false ∧ s.recording = false
    let room := v.frames.length < s.fld .ctxCfgDepthM1 [c] + 1
    let table := tier2At (Config.ingressTable c ((s.ing c).next % 2))
    ∃ t, exec (.admissionPosition c) s = .next t ∧ (t.ctx c).positions = v.positions + 1 ∧
      (∀ c' : Nat, c' ≠ (c : Nat) → (t.ctx c').frames = (s.ctx c').frames ∧ (t.ctx c').deferred = (s.ctx c').deferred) ∧
      (late → ∀ f, v.frames.head? = some f → (t.ctx c).frames = v.frames.filter (fun x => x.id != f.id) ∧
        t.fld .ctxStatusState [c] = 4 ∧ t.fld .rcvStatusAbandoned [c] = 1) ∧
      (¬ late → ¬ act → (t.ctx c).frames = v.frames ∧ t.queues = s.queues ∧ t.fld .ctxStatusState [c] = st) ∧
      (act → s.recording = true → s.rr.lost = 0 → s.rr.buffer.length + tails.length ≤ rrDepth →
        t.rr.buffer = s.rr.buffer ++ tails.map fun x => s.rrRecord 2 x.1 c x.2 (s.ingressDigest c)) ∧
      (¬ late → act →
        (v.deferred ≠ none → t.fld .ctxStatusState [c] = 4 ∧ (t.ctx c).deferred = none ∧ t.fld .ctxStatusDeferred [c] = 0 ∧
          (t.ctx c).frames = v.frames ∧ ∀ q, q ∈ s.ctxQueues c → t.qHalted q = true) ∧
        (v.deferred = none → t.fld .ctxStatusState [c] = 2 ∧
          (tails = [] → (t.ctx c).frames = v.frames ∧ (t.ctx c).deferred = none ∧ t.queues = s.queues ∧
            (quiet → t = { s with regs := t.regs, ctxs := t.ctxs } ∧ RegsSet [(.ctxStatusState, [(c : Nat)], 2)] s t)) ∧
          (tails ≠ [] → (s.flag .ctxScopeEnable [c] = false →
            DevBut table (8 * Config.ingressUnits c) s t ∧ t.tallyPend = s.tallyPend ∧ (quiet → t.msix = s.msix))) ∧
          (tails ≠ [] → room → (t.ctx c).nextFrame = v.nextFrame + 1 ∧ (t.ctx c).deferred = none ∧
            (t.ctx c).frames = v.frames ++ [⟨v.nextFrame, v.positions + 1, !s.degradedUse c, (s.ing c).next⟩] ∧
            (tails.map (·.1)).Nodup ∧
            ∀ x ∈ tails, (t.queue x.1).admitted = x.2 ∧ (t.queue x.1).admits = (s.queue x.1).admits ++ [⟨x.2, v.nextFrame, false⟩]) ∧
          (tails ≠ [] → ¬ room → s.fld .ctxCfgDropNewest [c] = 1 → (t.ctx c).frames = v.frames ∧ (t.ctx c).deferred = none ∧
            (quiet → RegsSet [(.ctxCountDropped, [(c : Nat)], satAdd 16 (s.fld .ctxCountDropped [c]) 1),
              (.ctxStatusState, [(c : Nat)], 2)] s t) ∧
            ∀ x ∈ tails, (t.queue x.1).admitted = x.2 ∧ (t.queue x.1).admits = (s.queue x.1).admits ++ [⟨x.2, 0, true⟩]) ∧
          (tails ≠ [] → ¬ room → s.fld .ctxCfgDropNewest [c] = 0 →
            (t.ctx c).deferred = some tails ∧ (t.ctx c).frames = v.frames ∧ t.queues = s.queues ∧
            (quiet → RegsSet [(.ctxStatusDeferred, [(c : Nat)], 1), (.ctxStatusState, [(c : Nat)], 2),
              (.ctxCountDeferred, [(c : Nat)], satAdd 16 (s.fld .ctxCountDeferred [c]) 1),
              (.ctxLateTimingLost, [(c : Nat)], satAdd 16 (s.fld .ctxLateTimingLost [c]) 1)] s t))))) ∧
  (∀ (c : Fin 64) (s : State),
    ((s.ctx c).deferred = none ∨ s.fld .ctxStatusState [c] ≠ 2 ∨ s.fld .ctxCfgDepthM1 [c] + 1 ≤ (s.ctx c).frames.length →
      exec (.deferredFrameTaken c) s = .next s) ∧
    ∀ tails, (s.ctx c).deferred = some tails → s.fld .ctxStatusState [c] = 2 →
      (s.ctx c).frames.length < s.fld .ctxCfgDepthM1 [c] + 1 →
      ∃ t, exec (.deferredFrameTaken c) s = .next t ∧ (t.ctx c).deferred = none ∧ t.fld .ctxStatusDeferred [c] = 0 ∧
        (t.ctx c).frames = (s.ctx c).frames ++ [⟨(s.ctx c).nextFrame, (s.ctx c).positions, false, (s.ing c).next - 1⟩]) ∧
  (∀ (c : Fin 64) (s : State), (s.overdue c = none → exec (.frameWatchdog c) s = .next s) ∧
    ∀ f, s.overdue c = some f → ∃ t, exec (.frameWatchdog c) s = .next t ∧ t.fld .ctxStatusState [c] = 4 ∧
      (t.ctx c).frames = (s.ctx c).frames.filter (fun x => x.id != f) ∧ t.fld .rcvStatusAbandoned [c] = 1 ∧
      t.fld .rcvCountAbandoned [c] = satAdd 16 (s.fld .rcvCountAbandoned [c]) 1 ∧ t.mem = s.mem) ∧
  ∀ (c : Fin 64) (i : Fin 3) (s : State),
    let v := s.ctx c
    let j := v.guardDone.getD i 0
    let due := (v.guardBase.getD i 0 + (j + 1) * s.fld .ctxGuardStep [c, i]) % 2 ^ 32
    let met := reaches (s.tally (s.fld .ctxGuardTally [c, i])) due
    (s.fld .ctxGuardEnable [c, i] = 0 ∨ v.taken ≤ j → exec (.guardCheck c i) s = .next s) ∧
    (s.fld .ctxGuardEnable [c, i] = 1 → j < v.taken → ∃ t, exec (.guardCheck c i) s = .next t ∧
      t = { s with regs := t.regs, ctxs := t.ctxs } ∧ (t.ctx c).guardDone = v.guardDone.set i (j + 1) ∧
      (met = true → t.regs = s.regs ∧ (t.ctx c).frames = v.frames) ∧
      (met = false → t.fld .ctxStatusGuardLate [c] = 1 ∧ t.fld .ctxLateLateGuards [c] = satAdd 16 (s.fld .ctxLateLateGuards [c]) 1 ∧
        RegsBut [(.ctxStatusGuardLate, [(c : Nat)]), (.ctxLateLateGuards, [(c : Nat)]), (.ctxLateTimingLost, [(c : Nat)])] s t ∧
        (t.ctx c).frames = v.frames.map fun f => if f.id = v.nextFrame - v.taken + j then { f with timing := false } else f))

/-- THAW_CFG_WRITE, THAW_WINDOW_OPEN, THAW_WINDOW_FORCED, THAW_WINDOW_ABORT, THAW_WINDOW_END and PROFILE_SWITCH: a window whose unit is free runs, one whose unit is in use is deferred and counted, one deferred max_defer times is forced, an aborted one is deferred, and an ended one shows its outcome; the numerics profile switches at its frame where a ready bank holds it (R402 to R406, R409, R420 to R424). Rests on 14_determinism_and_freeze_mode.md. -/
def Obligations.ThawWindowsOpenAndEnd : Prop :=
  (∀ (n : Fin 16) (reg : ThawReg) (val : BitVec 32) (s : State), s.HostUp →
    let max := val.toNat / 2 ^ 20 % 256
    let wrong := reg = .cfg ∧ val.toNat / 2 ^ 31 = 1 ∧ (max = 0 ∨ targetBad (val.toNat / 2 ^ 28 % 8) (val.toNat % 4096) = true)
    ((n : Nat) < 2 ∨ wrong → ∃ t, exec (.thawCfgWrite n reg val) s = .next t ∧ SetsOnly [(.thawStatCfgRefused, [(n : Nat)], 1)] s t) ∧
    (2 ≤ (n : Nat) → ¬ wrong → ∃ t, exec (.thawCfgWrite n reg val) s = .next t ∧
      SetsOnly [(⟨thawRegOf reg, 31, 0⟩, [(n : Nat)], val.toNat)] s t) ∧
    ((n : Nat) < 2 → ∃ t, exec (.registerWrite (BitVec.ofNat 28 (RegId.addr .thawStat [n])) false (val.setWidth 64) 0 0) s = .next t ∧
      SetsOnly [(.thawStatCfgRefused, [(n : Nat)], 1)] s t)) ∧
  (∀ (n : Fin 16) (work : ThawWork) (s : State),
    let task := s.thawTask n
    let target := s.fld .thawCfgTarget [n]
    let q := target
    let c := s.qCtx q
    let now := some (s.fld .sttPositionFrame)
    let d := Nat.min 255 (s.fld .thawStatDeferCount [n] + 1)
    let others := fun (t : State) => ∀ m : Nat, m ≠ (n : Nat) → t.thawEntry m = s.thawEntry m
    let deferred := fun (i : Instr) (last : Option Nat) => ∃ t, exec i s = .next t ∧
      t = { s with regs := t.regs, thaw := t.thaw, rr := t.rr } ∧ (s.recording = false → t.rr = s.rr) ∧ others t ∧
      RegsBut [(.thawCountDeferred, []), (.thawStatOutcome, [(n : Nat)]), (.thawStatDeferCount, [(n : Nat)]),
        (.thawStatRunning, [(n : Nat)]), (.rrStatusOverflow, [])] s t ∧
      t.fld .thawCountDeferred = satAdd 16 (s.fld .thawCountDeferred) 1 ∧ t.fld .thawStatOutcome [n] = 2 ∧
      t.fld .thawStatDeferCount [n] = d ∧ t.thawRuns n = false ∧
      t.thawEntry n = ⟨decide (s.fld .thawCfgMaxDefer [n] ≤ d), (s.thawEntry n).frame, ThawSt.noWork, last⟩
    let running := fun (i : Instr) (forced : Bool) => ∃ t, exec i s = .next t ∧ others t ∧ t.thawRuns n = true ∧
      (t.thawEntry n).force = forced ∧ (t.thawEntry n).work = work ∧ (t.thawEntry n).last = now ∧
      (s.recording = false → t.rr = s.rr) ∧ (∀ m, m < 16 → t.laser m = { s.laser m with tries := 0 }) ∧
      t.fld .thawCountForced = (if forced then satAdd 16 (s.fld .thawCountForced) 1 else s.fld .thawCountForced) ∧
      (task ≠ 6 → t = { s with regs := t.regs, thaw := t.thaw, rr := t.rr, lasers := t.lasers } ∧ (t.thawEntry n).frame = none ∧
        RegsBut [(.thawStatRunning, [(n : Nat)]), (.thawCountForced, []), (.rrStatusOverflow, [])] s t) ∧
      (task = 6 →
        let takes := s.fld .ctxStatusState [c] = 2 ∧ s.qEnabled q = true ∧ s.fld .queCfgAdmitMode [q] = 1 ∧
          s.fld .queTailTail [q] ≠ (s.queue q).admitted
        (takes → (t.thawEntry n).frame = some (s.ctx c).nextFrame ∧ (t.ctx c).nextFrame = (s.ctx c).nextFrame + 1 ∧
          (t.ctx c).frames.length = (s.ctx c).frames.length + 1 ∧ (t.queue q).admitted = s.fld .queTailTail [q]) ∧
        (¬ takes → (t.thawEntry n).frame = none ∧ ∀ e, (t.queue e).admitted = (s.queue e).admitted))
    let clear := s.thawYields n = false
    let opens := s.thawDue n = true ∧ s.thawHere n = true ∧ s.thawCame n = false ∧ s.thawRuns n = false ∧ s.thawAllowed task = true ∧
      s.replaying = false ∧ (s.thawEntry n).force = false
    let forces := s.thawForced n = true ∧ s.thawCame n = false ∧ (s.station.boundary = true ∨ task = 6) ∧ s.thawRuns n = false ∧
      s.inFlow = true ∧ s.replaying = false ∧ s.claimRuns n = false
    (opens → (task < 3 ∨ (s.claimsUsed task target = false ∧ clear)) → running (.thawWindowOpen n work) false) ∧
    (opens → 3 ≤ task → (s.claimsUsed task target = true ∨ ¬ clear) → deferred (.thawWindowOpen n work) now) ∧
    (¬ opens → exec (.thawWindowOpen n work) s = .next s) ∧
    (forces → (task < 3 ∨ clear) → running (.thawWindowForced n work) true) ∧
    (forces → 3 ≤ task → ¬ clear → deferred (.thawWindowForced n work) now) ∧
    (¬ forces → exec (.thawWindowForced n work) s = .next s) ∧
    (let aborts := s.thawRuns n = true ∧ 3 ≤ task ∧ task ≠ 6 ∧ (s.thawEntry n).force = false
     (aborts → deferred (.thawWindowAbort n) (s.thawEntry n).last) ∧ (¬ aborts → exec (.thawWindowAbort n) s = .next s)) ∧
    (s.thawRuns n = true → ∃ t, exec (.thawWindowEnd n) s = .next t ∧ others t ∧ t.thawRuns n = false ∧
      t.thawEntry n = { s.thawEntry n with force := false, work := ThawSt.noWork } ∧
      t.fld .thawStatOutcome [n] = (if (s.thawEntry n).force then 3 else 1) ∧ t.fld .thawStatDeferCount [n] = 0 ∧
      t.mem = s.mem ∧ t.cells = s.cells ∧ t.queues = s.queues ∧ t.rr = s.rr ∧
      ((task = 0 ∨ task = 4 ∨ task = 6) → t = { s with regs := t.regs, thaw := t.thaw } ∧
        RegsBut [(.thawStatRunning, [(n : Nat)]), (.thawStatOutcome, [(n : Nat)]), (.thawStatDeferCount, [(n : Nat)])] s t) ∧
      (task = 2 → s.island.powered = true → t.island.snap = (s.island.snap + 1) % 2 ^ 32) ∧
      (task = 5 → target < 4 → ∀ i, i < 9 → let p := 9 * target + i
        t.cfld .slbCellState p = if s.cfld .slbCellState p = 1 ∨ s.cfld .slbCellState p = 2 then
          (if (s.thawEntry n).work.failedSpares.contains p then 5 else 1) else s.cfld .slbCellState p)) ∧
    (s.thawRuns n = false → exec (.thawWindowEnd n) s = .next s)) ∧
  ∀ s : State,
    let due := s.station.boundary = true ∧ s.fld .hubNumStatusSwitchPending = 1 ∧ s.fld .sttPositionFrame = s.fld .hubProfileSwitchFrame
    (due → s.profileBank (s.fld .hubProfilePendingId) ≠ none → ∃ t, exec .profileSwitch s = .next t ∧
      SetsOnly [(.hubNumStatusSwitchPending, [], 0), (.hubProfileActiveId, [], s.fld .hubProfilePendingId)] s t) ∧
    (due → s.profileBank (s.fld .hubProfilePendingId) = none → ∃ t, exec .profileSwitch s = .next t ∧
      SetsOnly [(.hubNumStatusSwitchPending, [], 0), (.hubNumStatusSwitchRefused, [], 1)] s t) ∧
    (¬ due → exec .profileSwitch s = .next s)

/-- BARRIER_POSITION, BARRIER_ARRIVAL, BARRIER_RELEASE, BARRIER_RELEASE_ACT and BARRIER_TIMEOUT: the module arrives, arrivals of its child ports are kept or combined upward, the root releases when all members have arrived, a release records the delay from the root, its act records the skew, signals the barrier's tally and, at fabric start, takes the root's frame, and a time-out ends an outstanding barrier (R412, R413, R417, R426, R439, R442). Rests on 14_determinism_and_freeze_mode.md, 15_shodo_fabric_and_laser_modules.md. -/
def Obligations.BarriersReleaseTogether : Prop :=
  ∀ (port : Fin 24) (seq members : BitVec 16) (settings : Option Settings) (frame : BitVec 32) (refused : BitVec 16) (above : BitVec 11)
    (s : State),
    let b := s.barrier
    let full := fun (c : BarrierSt) => ∀ a ∈ s.childPorts, s.portSends a = true → ∃ x ∈ c.arrivals, x.port = a
    -- What the barrier becomes in t once its contents are c: the root releases, another module sends one word up, or nothing moves.
    let goes := fun (c : BarrierSt) (t : State) =>
      let here := 2 ^ c.position ||| membersOf c.arrivals
      let releases := c.isRoot = true ∧ c.own = true ∧ c.release = none ∧ c.members &&& here = c.members ∧ s.startReady = true
      let rises := c.isRoot = false ∧ c.own = true ∧ c.up = false ∧ full c ∧ s.parentSends = true ∧ s.startReady = true
      let news := t.portOut.drop s.portOut.length
      (releases → t.barrier = { c with arrivals := [], refused := ({ s with barrier := c } : State).refusedNow, release := some (s.fld .sttPositionFrame) } ∧
        t.fld .fabTreeStatusRootDelay = 0 ∧ t.fld .fabTreeStatusHorizonShort = 0 ∧
        t.portOut.length = s.portOut.length + (s.childPorts.filter s.portUp).length ∧ ∀ x ∈ news, x.type = 3) ∧
      (rises → t.barrier = { c with up := true, arrivals := [] } ∧
        ∃ x, news.head? = some x ∧ x.port = c.parent ∧ x.type = 2 ∧ bitOf x.args c.position = true) ∧
      (¬ releases → ¬ rises → t.barrier = c ∧ t.portOut = s.portOut)
    let arrives := s.flag .barrierCfgEnable = true ∧ s.barrierHere = true ∧ s.replaying = false ∧ s.ready = true
    let mine : BarrierSt := { b with own := true, up := false, frame := some (s.fld .sttPositionFrame), outstanding := true, release := none }
    let more : BarrierSt := { b with arrivals := b.arrivals ++ [⟨port, members.toNat, settings⟩] }
    let delay := above.toNat + s.fld .portStatusLatency [b.parent]
    (b.own = false → s.barrierGo = s) ∧
    (¬ arrives → exec .barrierPosition s = .next s) ∧
    (arrives → ∃ t, exec .barrierPosition s = .next t ∧
      t = { s with regs := t.regs, barrier := t.barrier, ports := t.ports, portOut := t.portOut, rr := t.rr } ∧
      (s.recording = false → t.rr = s.rr) ∧ goes mine t ∧
      RegsBut [(.fabTreeStatusRootDelay, []), (.fabTreeStatusHorizonShort, []), (.rrStatusOverflow, [])] s t) ∧
    (s.WordLost port seq → exec (.barrierArrival ⟨port, seq⟩ members settings) s = .next s) ∧
    (s.WordNext port seq → ∃ t, exec (.barrierArrival ⟨port, seq⟩ members settings) s = .next t ∧
      t = { s with regs := t.regs, barrier := t.barrier, ports := t.ports, portOut := t.portOut } ∧
      (t.port port).got = some seq.toNat ∧ RegsBut [(.fabTreeStatusRootDelay, []), (.fabTreeStatusHorizonShort, [])] s t ∧
      ((port : Nat) ∉ s.childPorts → t.barrier = b ∧ t.portOut = s.portOut) ∧
      ((port : Nat) ∈ s.childPorts → b.up = true → s.parentSends = true → t.barrier = b ∧
        ∃ x, t.portOut = s.portOut ++ [x] ∧ x.port = b.parent ∧ x.type = 2 ∧ x.args = arrivalArgs members.toNat settings) ∧
      ((port : Nat) ∈ s.childPorts → (b.up = false ∨ s.parentSends = false) → goes more t)) ∧
    (b.isRoot = true ∨ s.WordLost b.parent seq → exec (.barrierRelease seq ⟨frame, refused⟩ above) s = .next s) ∧
    (b.isRoot = false → s.WordNext b.parent seq → ∃ t, exec (.barrierRelease seq ⟨frame, refused⟩ above) s = .next t ∧
      t = { s with regs := t.regs, barrier := t.barrier, ports := t.ports, portOut := t.portOut } ∧
      (t.port b.parent).got = some seq.toNat ∧
      ((s.port b.parent).floe ≠ b.floe → t.barrier = b ∧ t.portOut = s.portOut ∧ RegsSame s t) ∧
      ((s.port b.parent).floe = b.floe →
        t.fld .fabTreeStatusRootDelay = Nat.min 2047 delay ∧ t.fld .fabTreeStatusHorizonShort = (if b.horizon < delay then 1 else 0) ∧
        t.portOut.length = s.portOut.length + (s.childPorts.filter s.portUp).length ∧
        (∀ x ∈ t.portOut.drop s.portOut.length, x.type = 3 ∧ x.args = releaseArgs frame.toNat refused.toNat (Nat.min 2047 delay)) ∧
        RegsBut [(.fabTreeStatusRootDelay, []), (.fabTreeStatusHorizonShort, []), (.barrierStatusExcluded, [])] s t ∧
        (bitOf refused.toNat b.position = true → t.barrier = { b with fresh := false } ∧ t.flag .barrierStatusExcluded = true) ∧
        (bitOf refused.toNat b.position = false → t.flag .barrierStatusExcluded = s.flag .barrierStatusExcluded ∧
          t.barrier = if b.outstanding then { b with release := some frame.toNat } else b))) ∧
    (b.release = none → exec .barrierReleaseAct s = .next s) ∧
    (∀ f, b.release = some f → ∃ t, exec .barrierReleaseAct s = .next t ∧
      t.barrier = { b with own := false, up := false, outstanding := false, release := none, fresh := false } ∧
      t.tally (s.fld .barrierCfgTally) = (if s.replaying then s.tally (s.fld .barrierCfgTally)
        else (s.tally (s.fld .barrierCfgTally) + s.fld .barrierCfgIncM1 + 1) % 2 ^ 32) ∧
      toSigned 16 (t.fld .barrierStatusSkew) = s.skewNow ∧
      (b.fresh = true → t.fld .sttPositionFrame = f % 2 ^ 32 ∧ t.fld .barrierStatusFabricStarted = 1 ∧ t.fld .barrierStatusExcluded = 0) ∧
      (b.fresh = false → t.fld .sttPositionFrame = s.fld .sttPositionFrame ∧
        t.fld .barrierStatusFabricStarted = s.fld .barrierStatusFabricStarted ∧ t.fld .barrierStatusExcluded = s.fld .barrierStatusExcluded) ∧
      (s.egressOf (s.fld .barrierCfgTally) = [] → DevSame s t) ∧ (s.recording = false → t.rr = s.rr) ∧ t.tallyPend = s.tallyPend) ∧
    (b.outstanding = true → b.release = none → ∃ t, exec .barrierTimeout s = .next t ∧ t = { s with regs := t.regs, barrier := t.barrier } ∧
      t.barrier = { b with own := false, up := false, arrivals := [], outstanding := false } ∧
      RegsSet [(.barrierStatusTimeout, [], 1)] s t) ∧
    (b.outstanding = false ∨ b.release ≠ none → exec .barrierTimeout s = .next s)

/-- RR_CTRL_WRITE, RR_MODE_START, LOGGED_COMPLETION_MISSED and REPLAY_LOGGED_INPUT: a mode written while off waits for the boundary, mode 0b11 and a change of the ring while on are discarded, the boundary starts or ends a run at cycle 0, a replay takes each logged input at its cycle and nothing before it, and a missed completion diverges (R414 to R418, R427, R428). Rests on 14_determinism_and_freeze_mode.md. -/
def Obligations.RecordAndReplayChangeAtTheBoundary : Prop :=
  (∀ (val : BitVec 32) (s : State), s.HostUp →
    let st := s.fld .rrStatusState
    let m := val.toNat / 2 ^ 30
    let drops := m = 3 ∨ (st ≠ 0 ∧ val.toNat / 2 ^ 23 % 64 ≠ getBits (s.reg .rrCtrl) 28 23)
    let next := if st = 0 ∧ m ≠ 0 then 3 else if st = 3 ∧ m = 0 then 0 else st
    (drops → exec (.rrCtrlWrite val) s = .next s) ∧
    (¬ drops → ∃ t, exec (.rrCtrlWrite val) s = .next t ∧
      SetsOnly [(⟨.rrCtrl, 63, 0⟩, [], val.toNat / 2 ^ 23 * 2 ^ 23), (.rrStatusState, [], next)] s t)) ∧
  (∀ s : State,
    let st := s.fld .rrStatusState
    let mode := s.fld .rrCtrlMode
    let at_ := s.station.boundary = true
    let run := fun (t : State) => t = { s with regs := t.regs, rr := t.rr } ∧
      RegsBut [(.rrStatusState, []), (.rrStatusRecords, []), (.rrStatusOverflow, [])] s t
    (st = 0 ∨ ¬ at_ → exec .rrModeStart s = .next s) ∧
    (at_ → (st = 2 ∨ st = 3) → mode = 1 → ∃ t r, exec .rrModeStart s = .next t ∧ run t ∧ t.recording = true ∧
      t.rrCycle = 0 ∧ t.rr.next = 0 ∧ t.rr.matched = [] ∧ t.rr.buffer = [r] ∧ r.toNat % 256 = 1 ∧ t.fld .rrStatusRecords = 0) ∧
    (at_ → (st = 1 ∨ st = 3) → mode = 2 → ∃ t, exec .rrModeStart s = .next t ∧ run t ∧ t.replaying = true ∧ t.rrCycle = 0 ∧
      t.rr.buffer = [] ∧ t.rr.matched = [] ∧ t.rr.next = (if s.rrType 0 = 1 then 1 else 0) ∧
      t.fld .rrStatusRecords = (if s.rrType 0 = 1 then 1 else 0)) ∧
    (at_ → st = 1 → mode = 0 → ∃ t, exec .rrModeStart s = .next t ∧ run t ∧ t.fld .rrStatusState = 0 ∧
      (s.rr.lost = 0 → s.rr.buffer.length < rrDepth → ∃ r, t.rr = { s.rr with buffer := s.rr.buffer ++ [r] } ∧ r.toNat % 256 = 15)) ∧
    (at_ → st = 2 → (mode = 0 ∨ (mode = 2 ∧ s.rrEnd ≠ none)) → ∃ t, exec .rrModeStart s = .next t ∧ run t ∧ t.rr = s.rr ∧
      t.fld .rrStatusState = 0) ∧
    (at_ → st = 2 → mode = 2 → s.rrEnd = none → exec .rrModeStart s = .next s)) ∧
  ∀ s : State,
    let n := 2 ^ s.fld .rrCtrlLog2Size
    (s.replaying = false → exec .loggedCompletionMissed s = .next s ∧ exec .replayLoggedInput s = .next s) ∧
    (s.replaying = true →
      (s.rrMissed n 0 = none → exec .loggedCompletionMissed s = .next s) ∧
      (∀ i, s.rrMissed n 0 = some i → ∃ t, exec .loggedCompletionMissed s = .next t ∧ t.fld .rrStatusDiverged = 1 ∧
        (s.fld .rrStatusDiverged = 1 → t = s) ∧ t.mem = s.mem ∧ t.cells = s.cells ∧ t.rr = s.rr ∧
        (s.fld .rrStatusDiverged = 0 → t.fld .rrStatusDivergeIndex = i % 2 ^ 32 ∧
          (s.fld .rrCtrlHaltOnDiverge = 1 → ∀ q, q < 8 → t.seqHalted q = true))) ∧
      (s.rrNextInput n s.rr.next = none → exec .replayLoggedInput s = .next s) ∧
      ∀ i, s.rrNextInput n s.rr.next = some i →
        let arg0 := s.rrField i 2 2
        let arg1 := s.rrField i 4 4
        let arg2 := s.rrField i 0x10 8
        let k := arg0 % 16
        (s.rrCycle < s.rrField i 8 8 → exec .replayLoggedInput s = .next s) ∧
        (s.rrField i 8 8 ≤ s.rrCycle → ∃ t, exec .replayLoggedInput s = .next t ∧
          (s.rrType i ∈ [3, 4, 5, 6, 9] → t.rr.next = i + 1) ∧ (s.rrType i = 2 → i < t.rr.next) ∧
          (s.rrType i ∈ [3, 9] → t.mem = s.mem ∧ t.cells = s.cells) ∧
          (s.rrType i = 3 → s.tailBad (arg0 % 4096) (arg2 % 2 ^ 32) = false →
            t.fld .queTailTail [arg0 % 4096] = arg2 % 2 ^ 32) ∧
          (s.rrType i = 4 → t.tally (arg0 % 4096) =
            if arg1 = 2 then arg2 % 2 ^ 32 else (s.tally (arg0 % 4096) + arg2) % 2 ^ 32) ∧
          (s.rrType i = 5 → arg1 = 1 → t.fld .thawStatOutcome [k] = 2 ∧ t.thawRuns k = false) ∧
          (s.rrType i = 5 → arg1 ≠ 1 → t.thawRuns k = true ∧ (t.thawEntry k).force = decide (arg1 = 2)) ∧
          (s.rrType i = 6 → t.barrier.own = true ∧ t.barrier.outstanding = true)))

/-- CELL_RETIRE, CELL_REMAP, REMAP_COMPLETE, SEQ_FW_LOAD, SEQ_FW_LOAD_DONE, SEQ_FW_SWITCH, FW_SLOT_SWITCH, SEQ_HALT and SEQ_RESUME: a retired active cell is marked, a marked idle cell is remapped at a frame boundary to the lowest ready spare of its slab or becomes inactive, the spare takes over its logical index and contents, firmware loads into the inactive slot and switches at its frame only when ready, and a sequencer halts and resumes (R19, R527 to R529, R537, R540 to R542, R547, R561). Rests on 01_architecture.md, 18_faults_recovery_and_live_service.md, 19_debug_and_counters.md. -/
def Obligations.LiveServiceReplacesCellsAndFirmware : Prop :=
  ∀ (slab : Fin 4) (val : BitVec 32) (p : Fin 36) (ok : Bool) (n : Fin 8) (s : State),
    let i := val.toNat % 16
    let target := 9 * (slab : Nat) + i
    let fst := s.fld .fwStatusInactiveState
    let copy := s.flag .slbRemapCtrlCopy [(p : Nat) / 9]
    let moves := s.station.boundary = true ∧ s.cfld .slbCellState p = 3 ∧ s.cellQuiet p = true ∧ s.remapping p = false
    let switches := s.station.boundary = true ∧ s.fld .fwStatusSwitchPending = 1 ∧ s.fld .sttPositionFrame = s.fld .fwSwitchSwitchFrame
    let rw := [(Fld.slbRemapCtrlCopy, [(slab : Nat)], val.toNat / 2 ^ 30 % 2), (.slbRemapCtrlCell, [(slab : Nat)], i)]
    let halts := fun (c : SeqHaltCause) (f : Fld) => ∃ t, exec (.seqHalt n c) s = .next t ∧ t.seqHalted n = true ∧ t.fld f [n] = 1 ∧
      (∀ m : Fin 8, m ≠ n → t.reg .dseqStatus [m] = s.reg .dseqStatus [m]) ∧ t.cells = s.cells ∧ t.mem = s.mem ∧
      t.tallyPend = s.tallyPend
    (s.HostUp →
      (val.toNat / 2 ^ 31 = 0 → ∃ t, exec (.cellRetire slab val) s = .next t ∧ SetsOnly rw s t) ∧
      (val.toNat / 2 ^ 31 = 1 → (9 ≤ i ∨ s.cfld .slbCellState target ≠ 0) → exec (.cellRetire slab val) s = .next s) ∧
      (val.toNat / 2 ^ 31 = 1 → i < 9 → s.cfld .slbCellState target = 0 → ∃ t, exec (.cellRetire slab val) s = .next t ∧
        SetsOnly ((.slbCellState, cellIx target, 3) :: rw) s t)) ∧
    (¬ moves → exec (.cellRemap p) s = .next s) ∧
    (moves → s.spareOf p = none → ∃ t, exec (.cellRemap p) s = .next t ∧ SetsOnly [(.slbCellState, cellIx p, 6)] s t) ∧
    (moves → ∀ x, s.spareOf p = some x → x / 9 = (p : Nat) / 9 ∧ s.cfld .slbCellState x = 1 ∧ ∃ t, exec (.cellRemap p) s = .next t ∧
      t = { s with regs := t.regs, cells := t.cells, remaps := s.remaps ++ [⟨p, x, copy⟩] } ∧ CellsBut x s t ∧
      t.cfld .slbCellState x = 0 ∧ t.logical x = s.logical p ∧ t.cfld .slbCellState p = 4 ∧
      RegsBut [(.slbCellState, cellIx p), (.slbCellState, cellIx x), (.slbCellLogical, cellIx x), (.srfStatusLoaded, cellIx x)] s t ∧
      (copy = true → (t.cell x).mem = (s.cell p).mem ∧ (t.cell x).srf = (s.cell p).srf ∧ (t.cell x).fused = (s.cell p).fused ∧
        (t.cell x).patterns = (s.cell p).patterns ∧ t.cfld .srfStatusLoaded x = s.cfld .srfStatusLoaded p) ∧
      (copy = false → (t.cell x).mem = [] ∧ (t.cell x).srf = [] ∧ (t.cell x).fused = [])) ∧
    (s.remaps.find? (fun r => r.old == (p : Nat)) = none → exec (.remapComplete p) s = .next s) ∧
    (s.remaps.find? (fun r => r.old == (p : Nat)) ≠ none → ∃ t, exec (.remapComplete p) s = .next t ∧
      t = { s with regs := t.regs, ctxs := t.ctxs, queues := t.queues, remaps := dropFirst (fun r => r.old == (p : Nat)) s.remaps }) ∧
    (s.HostUp →
      (fst ≠ 1 → ∃ t, exec .seqFwLoad s = .next t ∧ t = { s with regs := t.regs, fw := t.fw } ∧ t.fw.active = s.fw.active ∧
        RegsSet [(.fwStatusInactiveState, [], 1)] s t ∧ ∃ k, k ≤ 2 ^ 20 ∧ t.fw.inactive = s.devRead (s.fld .fwSrcBase * 64) k) ∧
      (fst = 1 → exec .seqFwLoad s = .next s) ∧
      ∃ t, exec .seqFwSwitch s = .next t ∧ SetsOnly [(.fwStatusSwitchPending, [], 1)] s t) ∧
    (fst = 1 → ∃ t, exec (.seqFwLoadDone ok) s = .next t ∧
      SetsOnly [(.fwStatusInactiveState, [], if ok && Config.fwDigestOk s.fw.inactive then 2 else 3)] s t) ∧
    (fst ≠ 1 → exec (.seqFwLoadDone ok) s = .next s) ∧
    (switches → fst = 2 → ∃ t, exec .fwSlotSwitch s = .next t ∧ t = { s with regs := t.regs, fw := ⟨s.fw.inactive, s.fw.active⟩ } ∧
      t.fld .fwStatusActiveSlot = 1 - s.fld .fwStatusActiveSlot ∧ t.fld .fwStatusSwitchPending = 0 ∧
      RegsBut [(.fwStatusActiveSlot, []), (.fwStatusSwitchPending, []), (.fwStatusVersion, [])] s t) ∧
    (switches → fst ≠ 2 → ∃ t, exec .fwSlotSwitch s = .next t ∧
      SetsOnly [(.fwStatusSwitchPending, [], 0), (.fwStatusSwitchRefused, [], 1)] s t) ∧
    (¬ switches → exec .fwSlotSwitch s = .next s) ∧
    (s.HostUp → halts .request .dseqStatusByRequest) ∧ halts .diverge .dseqStatusByDiverge ∧
    (∀ k : Fin 4, s.fld .dseqBpEnable [n, k] = 1 → halts (.breakpoint k) .dseqStatusByBreakpoint) ∧
    (∀ k : Fin 4, s.fld .dseqBpEnable [n, k] = 0 → exec (.seqHalt n (.breakpoint k)) s = .next s) ∧
    (s.HostUp → s.seqHalted n = true → ∃ t, exec (.seqResume n) s = .next t ∧ t = { s with regs := t.regs, trace := t.trace } ∧
      t.seqHalted n = false ∧ t.fld .dseqStatusByRequest [n] = 0 ∧ t.fld .dseqStatusByBreakpoint [n] = 0 ∧
      t.fld .dseqStatusByDiverge [n] = 0 ∧ RegsBut [(⟨.dseqStatus, 31, 28⟩, [(n : Nat)]), (.traceLostCount, [])] s t) ∧
    (s.HostUp → s.seqHalted n = false → exec (.seqResume n) s = .next s)

/-- FAB_PORT_ENABLE, PORT_RETRAIN, PORT_READY, READY_STATE, CALIBRATION_REPORT, SPARE_SWITCH, SPARE_SWITCH_TAKE, LANE_FAILURE, PORT_DEGRADE, CONTROL_WORD_FAULT, CHANNEL_ENABLE, SEGMENT_SEND and SEGMENT_COMPLETE: ports train, report, spare, degrade and go down, and channels carry whole segments between buffers under their tallies (R432 to R434, R436, R437, R440 to R444, R456 to R459, R532). Rests on 15_shodo_fabric_and_laser_modules.md, 14_determinism_and_freeze_mode.md, 18_faults_recovery_and_live_service.md. -/
def Obligations.PortsTrainAndCarrySegments : Prop :=
  (∀ (a : Fin 24) (lane : Fin 8) (seq : BitVec 16) (frame : Nat) (s : State),
    let v := s.port a
    let others := fun (t : State) => ∀ b : Nat, b ≠ (a : Nat) → t.port b = s.port b
    let trained := fun (i : Instr) (l : List (Fld × List Nat × Nat)) => ∃ u, exec i s = .next u.barrierGo ∧
      u = { s with regs := u.regs, ports := u.ports, barrier := { s.barrier with fresh := s.inTree a || s.barrier.fresh } } ∧ others u ∧
      u.port a = { v with peerReady := false, spare := none, got := none, failed := [], due := false, degraded := false } ∧
      RegsSet (l ++ [(.portStatusState, [(a : Nat)], 1), (.portStatusLanesUp, [(a : Nat)], 0), (.portStatusSpareUsed, [(a : Nat)], 0),
        (.barrierStatusFabricStarted, [], if s.inTree a then 0 else s.fld .barrierStatusFabricStarted)]) s u
    let relocked := fun (i : Instr) (p : PortSt) (l : List (Fld × List Nat × Nat)) => ∃ u, exec i s = .next u.barrierGo ∧
      u = { s with regs := u.regs, ports := u.ports } ∧ others u ∧ u.port a = { p with peerReady := false, spare := none, got := none } ∧
      RegsSet (l ++ [(.portStatusState, [(a : Nat)], 1), (.portStatusLanesUp, [(a : Nat)], 0)]) s u
    (∀ (on : Bool), s.HostUp → let lit := s.engineLit a && on
      (lit = true → s.portState a = 0 → trained (.fabPortEnable a on) [(.portCtrlEnable, [(a : Nat)], b2n on)]) ∧
      (lit = false → s.portState a ≠ 0 → ∃ u, exec (.fabPortEnable a on) s = .next u.barrierGo ∧
        u = { s with regs := u.regs, ports := u.ports } ∧ others u ∧ u.port a = { v with peerReady := false, spare := none } ∧
        RegsSet [(.portCtrlEnable, [(a : Nat)], b2n on), (.portStatusState, [(a : Nat)], 0), (.portStatusLanesUp, [(a : Nat)], 0)] s u) ∧
      ((lit = true ↔ s.portState a ≠ 0) → ∃ u, exec (.fabPortEnable a on) s = .next u.barrierGo ∧
        SetsOnly [(.portCtrlEnable, [(a : Nat)], b2n on)] s u)) ∧
    (s.HostUp → (s.portState a ≠ 0 → trained (.portRetrain a) []) ∧ (s.portState a = 0 → exec (.portRetrain a) s = .next s)) ∧
    (∀ (floe : BitVec 16) (pos : BitVec 4) (peer : BitVec 5) (latency : BitVec 11) (ready : Bool),
      (s.portState a = 1 → s.portLit a = true → let lost := decide (3 ≤ v.failed.length)
        ∃ u t, exec (.portReady a floe pos peer latency ready) s = .next t ∧ u = { s with regs := u.regs, ports := u.ports } ∧ others u ∧
        u.port a = { v with peerReady := ready, floe := floe.toNat } ∧
        RegsSet [(.portStatusPeerPosition, [(a : Nat)], pos.toNat), (.portStatusPeerPort, [(a : Nat)], peer.toNat),
          (.portStatusLatency, [(a : Nat)], latency.toNat), (.portStatusLanesUp, [(a : Nat)], v.lanes),
          (.portStatusState, [(a : Nat)], if lost then 5 else if ready = false then 3 else if v.degraded then 4 else 2)] s u ∧
        t = (if lost then u else (u.barrierGo.askAgain a).sendReady a) ∧
        (lost = false → (∃ x, t.portOut.getLast? = some x ∧ x.port = a ∧ x.type = 4 ∧ x.args = b2n s.ready ∧ x.data = s.recvCounts a) ∧
          ∀ l, v.failed = [l] → l < 7 → s.fld .portStatusSpareUsed [a] = 0 →
            ∃ x ∈ t.portOut.drop s.portOut.length, x.port = a ∧ x.type = 6 ∧ x.chan = l)) ∧
      (s.portState a ≠ 1 ∨ s.portLit a = false → exec (.portReady a floe pos peer latency ready) s = .next s)) ∧
    (∀ (ready : Bool) (l : List (BitVec 16)) (report : BitVec 80) (members : BitVec 16) (settings : Option Settings),
      let words := [Instr.readyState ⟨a, seq⟩ ready l, .calibrationReport ⟨a, seq⟩ lane report, .spareSwitch ⟨a, seq⟩ lane frame,
        .barrierArrival ⟨a, seq⟩ members settings]
      (s.WordLost a seq → ∀ i ∈ words, exec i s = .next s) ∧
      (¬ s.WordLost a seq → ¬ s.WordNext a seq → ∀ i ∈ words, exec i s = exec (.controlWordFault a) s)) ∧
    (s.WordNext a seq →
      (∀ (ready : Bool) (l : List (BitVec 16)), ∃ u, exec (.readyState ⟨a, seq⟩ ready l) s = .next u.barrierGo ∧
        u = { s with regs := u.regs, ports := u.ports, chans := u.chans } ∧ others u ∧
        u.port a = { v with got := some seq.toNat, peerReady := ready } ∧
        u.portState a = (if 3 ≤ v.failed.length then 5 else if ready = false then 3 else if v.degraded then 4 else 2) ∧
        (∀ c, c ∉ ((s.sendChans a).zip l).map (·.1) → u.chan c = s.chan c) ∧
        (∀ e ∈ (s.sendChans a).zip l, let d := (s.chan e.1).done
          let back := (d + 65536 - e.2.toNat) % 65536
          u.chan e.1 = { s.chan e.1 with done := if back ≤ d then d - back else d } ∧
          (back ≤ d → u.fld .chanStatusSegments [e.1] = (d - back) % 65536)) ∧
        RegsBut ((.portStatusState, [(a : Nat)]) :: (s.sendChans a).map fun c => (.chanStatusSegments, [c])) s u) ∧
      (∀ (report : BitVec 80), ∃ t, exec (.calibrationReport ⟨a, seq⟩ lane report) s = .next t ∧
        t = { s with ports := t.ports } ∧ others t ∧ t.port a = { v with got := some seq.toNat, reports := (t.port a).reports } ∧
        ∀ l, tabGet (fun _ => 0) (t.port a).reports l = if l = (lane : Nat) then report else tabGet (fun _ => 0) v.reports l) ∧
      ∃ t, exec (.spareSwitch ⟨a, seq⟩ lane frame) s = .next t ∧ t = { s with ports := t.ports } ∧ others t ∧
        t.port a = { v with got := some seq.toNat, spare :=
          if (lane : Nat) < 7 ∧ s.flag .portStatusSpareUsed [a] = false then some (lane, frame) else v.spare }) ∧
    (v.spare = none → exec (.spareSwitchTake a) s = .next s) ∧
    (∀ l f, v.spare = some (l, f) → ∃ t, exec (.spareSwitchTake a) s = .next t ∧ t = { s with regs := t.regs, ports := t.ports } ∧
      others t ∧ t.port a = { v with spare := none, failed := if v.failed.contains l then v.failed else v.failed ++ [l] } ∧
      RegsSet [(.portStatusSpareUsed, [(a : Nat)], 1), (.portStatusLanesUp, [(a : Nat)], (t.port a).lanes)] s t) ∧
    (∀ (symbols : BitVec 16),
      let n := symbols.toNat
      let up := s.fld .portStatusLanesUp [a]
      let counts := (Fld.portCountSymbolErrors, [(a : Nat)], satAdd 16 (s.fld .portCountSymbolErrors [a]) n)
      let strikes := s.portUp a = true ∧ (n = 0 ∨ 16 < n)
      let w : PortSt := { v with failed := v.failed ++ [(lane : Nat)] }
      (¬ strikes → ∃ t, exec (.laneFailure a lane symbols) s = .next t ∧ SetsOnly [counts] s t) ∧
      (strikes → (lane : Nat) ∈ v.failed → ∃ u, exec (.laneFailure a lane symbols) s = .next u.barrierGo ∧ SetsOnly [counts] s u) ∧
      (strikes → (lane : Nat) ∉ v.failed →
        (v.failed = [] → ∃ u, exec (.laneFailure a lane symbols) s = .next u.barrierGo ∧ others u ∧
          u = { s with regs := u.regs, ports := u.ports, portOut := u.portOut } ∧
          u.port a = { w with seq := v.seq + b2n (decide ((lane : Nat) < 7)) } ∧
          u.portOut = s.portOut ++ (if (lane : Nat) < 7 then [⟨a, v.seq % 65536, 6, lane, 64, []⟩] else []) ∧
          RegsSet [counts, (.portStatusLanesUp, [(a : Nat)], if n = 0 then up ^^^ (up &&& 2 ^ (lane : Nat)) else up)] s u) ∧
        (v.failed.length = 1 → n = 0 → relocked (.laneFailure a lane symbols) { w with due := true } [counts]) ∧
        (v.failed.length = 1 → 16 < n → ∃ u, exec (.laneFailure a lane symbols) s = .next u.barrierGo ∧ others u ∧
          u = { s with regs := u.regs, ports := u.ports } ∧ u.port a = { w with due := true } ∧ RegsSet [counts] s u) ∧
        (2 ≤ v.failed.length → ∃ u, exec (.laneFailure a lane symbols) s = .next u.barrierGo ∧ others u ∧
          u = { s with regs := u.regs, ports := u.ports } ∧ u.port a = w ∧
          RegsSet [counts, (.portStatusLanesUp, [(a : Nat)], w.lanes), (.portStatusState, [(a : Nat)], 5)] s u))) ∧
    (v.due = false ∨ s.station.boundary = false → exec (.portDegrade a) s = .next s) ∧
    (v.due = true → s.station.boundary = true → ∃ t, exec (.portDegrade a) s = .next t ∧
      t.port a = { v with due := false, degraded := true } ∧ others t ∧
      t = { s with regs := t.regs, ports := t.ports, ctxs := t.ctxs, queues := t.queues } ∧
      RegsBut ((.portStatusState, [(a : Nat)]) :: (.portStatusLanesUp, [(a : Nat)]) ::
        (List.range 64).map fun c => (.ctxLateTimingLost, [c])) s t ∧ t.fld .portStatusLanesUp [a] = v.lanes ∧
      t.portState a = (if s.portUp a = false then s.portState a else if 3 ≤ v.failed.length then 5 else if v.peerReady then 4 else 3) ∧
      ∀ c, c < 64 → (Config.usesPort a c = false → t.ctx c = s.ctx c) ∧
        (Config.usesPort a c = true → ∀ f ∈ (t.ctx c).frames, f.timing = false)) ∧
    (s.portUp a = false → exec (.controlWordFault a) s = .next s) ∧
    (s.portUp a = true → relocked (.controlWordFault a) v
      [(.portCountCtrlFaults, [(a : Nat)], satAdd 16 (s.fld .portCountCtrlFaults [a]) 1)])) ∧
  ∀ (c : Fin 256) (val : BitVec 32) (seq flits : BitVec 16) (data : List Byte) (s : State),
    let a := s.fld .chanCfgPort [c]
    let v := s.chan c
    let on := s.flag .chanCfgEnable [c]
    let recv := s.flag .chanCfgRole [c]
    let rest := fun (t : State) => ∀ c' : Nat, c' ≠ (c : Nat) → t.chan c' = s.chan c'
    let same := val.toNat / 2 ^ 11 % 2 ^ 20 = getBits (s.reg .chanCfg [c]) 30 11
    let whole := (⟨.chanCfg, 63, 0⟩, [(c : Nat)], val.toNat / 2 ^ 11 * 2 ^ 11)
    (s.HostUp →
      (((on = true ∧ ¬ same) ∨ (on = false ∧ 2 ^ 31 ≤ val.toNat ∧ s.enableRefused c val.toNat = true)) →
        ∃ t, exec (.channelEnable c val) s = .next t ∧ SetsOnly [(.chanStatusCfgRefused, [(c : Nat)], 1)] s t) ∧
      (on = true → same → ∃ t, exec (.channelEnable c val) s = .next t ∧
        SetsOnly [(.chanCfgEnable, [(c : Nat)], val.toNat / 2 ^ 31)] s t) ∧
      (on = false → val.toNat < 2 ^ 31 → ∃ t, exec (.channelEnable c val) s = .next t ∧ SetsOnly [whole] s t) ∧
      (on = false → 2 ^ 31 ≤ val.toNat → s.enableRefused c val.toNat = false → ∃ t, exec (.channelEnable c val) s = .next t ∧
        t = { s with regs := t.regs, chans := t.chans } ∧ rest t ∧ t.chan c = ⟨s.tally (s.fld .chanTallyTally [c]), 0⟩ ∧
        RegsSet [whole, (.chanStatusSegments, [(c : Nat)], 0), (.chanStatusWaiting, [(c : Nat)], 0)] s t)) ∧
    (let ready := on = true ∧ recv = false ∧ s.segReady c = true
      let goes := s.portSends a = true ∧ s.opticsOn = true ∧ s.fld .pwrStateCurrent = 0 ∧ 0 < s.shareOf c
      (¬ ready → exec (.segmentSend c) s = .next s) ∧
      (ready → s.forcedOn 3 a = false → ¬ goes → ∃ t, exec (.segmentSend c) s = .next t ∧
        SetsOnly [(.chanStatusWaiting, [(c : Nat)], 1)] s t) ∧
      (ready → s.forcedOn 3 a = true → ∃ t, exec (.segmentSend c) s = .next t ∧ t.flag .chanStatusWaiting [c] = true ∧
        t = { s with regs := t.regs, ctxs := t.ctxs, queues := t.queues } ∧
        ∀ x, x < 64 → Config.usesPort a x = true → ∀ f ∈ (t.ctx x).frames, f.timing = false) ∧
      (ready → s.forcedOn 3 a = false → goes → ∃ t, exec (.segmentSend c) s = .next t ∧
        t = { s with regs := t.regs, ports := t.ports, portOut := t.portOut, chans := t.chans } ∧ rest t ∧
        t.chan c = { v with done := v.done + 1 } ∧ t.port a = { s.port a with seq := (s.port a).seq + 1 } ∧
        (∀ b, b ≠ a → t.port b = s.port b) ∧
        t.portOut = s.portOut ++ [⟨a, (s.port a).seq % 65536, 1, s.fld .chanCfgPeer [c], s.fld .chanSegFlitsM1 [c],
          s.devRead (s.segAt c v.done) (s.segBytes c)⟩] ∧
        RegsSet [(.chanStatusSegments, [(c : Nat)], (v.done + 1) % 65536), (.chanStatusWaiting, [(c : Nat)], 0)] s t)) ∧
    (let tally := s.fld .chanTallyTally [c]
      let got := fun (t : State) => t.port a = { s.port a with got := some seq.toNat } ∧ ∀ b, b ≠ a → t.port b = s.port b
      (s.WordLost a seq → exec (.segmentComplete c seq ⟨flits, data⟩) s = .next s) ∧
      (¬ s.WordLost a seq → ¬ s.WordNext a seq → ∀ b : Fin 24, (b : Nat) = a →
        exec (.segmentComplete c seq ⟨flits, data⟩) s = exec (.controlWordFault b) s) ∧
      (s.WordNext a seq → (on = false ∨ recv = false) → ∃ t, exec (.segmentComplete c seq ⟨flits, data⟩) s = .next t ∧
        t = { s with ports := t.ports } ∧ got t) ∧
      (s.WordNext a seq → on = true → recv = true → flits.toNat ≠ s.fld .chanSegFlitsM1 [c] →
        ∃ t, exec (.segmentComplete c seq ⟨flits, data⟩) s = .next t ∧ t = { s with regs := t.regs, ports := t.ports } ∧ got t ∧
          RegsSet [(.chanStatusSizeFault, [(c : Nat)], 1)] s t) ∧
      (s.WordNext a seq → on = true → recv = true → flits.toNat = s.fld .chanSegFlitsM1 [c] →
        ∃ t, exec (.segmentComplete c seq ⟨flits, data⟩) s = .next t ∧ got t ∧ rest t ∧ t.chan c = { v with done := v.done + 1 } ∧
          t.fld .chanStatusSegments [c] = (v.done + 1) % 65536 ∧
          t.tally tally = (if s.replaying then s.tally tally else (s.tally tally + s.fld .chanTallyIncM1 [c] + 1) % 2 ^ 32) ∧
          (s.recording = false → t.rr = s.rr) ∧
          (s.egressOf tally = [] → DevBut (s.segAt c v.done) (s.segBytes c) s t ∧
            RegsBut [(.chanStatusSegments, [(c : Nat)]), (.talValueValue, [tally]), (.talStatusReached, [tally]),
              (⟨.msixPba, 63, 0⟩, [(64 + tally % 64) / 32]), (.rrStatusOverflow, [])] s t ∧
            (s.chanBufOk c = true → ∀ j, j < data.length → j < s.segBytes c →
              t.devByte (s.segAt c v.done + j) = data.getD j 0))))

/-- LASER_REMOVE, LASER_HANDOVER, LASER_RELEASED, LASER_INSERT, LASER_TAKE_UP, LASER_FAILURE, INTERLOCK_OPEN, CONNECTOR_OPEN, CONNECTOR_CLOSE, LASER_COMMAND and WEAR_TICK: a module is handed over, released, replaced and taken up while its partner feeds across, a failed or shut one goes dark, shutters close the light of an engine, a faulty command is tried four times, and lit modules wear (R429, R440, R441, R446 to R454). Rests on 15_shodo_fabric_and_laser_modules.md, 01_architecture.md, 14_determinism_and_freeze_mode.md. -/
def Obligations.LaserModulesServeAndAreReplaced : Prop :=
  (∀ (m : Fin 16) (ident : List Byte) (word : BitVec 64) (s : State),
    let v := s.laser m
    let st := s.lasState m
    let p := partner m
    let others := fun (t : State) => ∀ k : Nat, k ≠ (m : Nat) → k ≠ p → t.laser k = s.laser k
    let alone := fun (t : State) => ∀ k : Nat, k ≠ (m : Nat) → t.laser k = s.laser k
    let lit := fun (t : State) =>
      t = { s with regs := t.regs, lasers := t.lasers, ports := t.ports, barrier := t.barrier, portOut := t.portOut } ∧ others t
    let comes := s.station.boundary = true ∨ v.due = true
    let waits := fun (i : Instr) => ∃ t, exec i s = .next t ∧ t = { s with lasers := t.lasers } ∧ alone t ∧
      t.laser m = { v with due := true }
    (st = 2 ∧ s.lasState p = 2 → ∃ t, exec (.laserRemove m) s = .next t ∧ t = { s with lasers := t.lasers } ∧ alone t ∧
      t.laser m = { v with removing := true }) ∧
    (¬ (st = 2 ∧ s.lasState p = 2) → ∃ t, exec (.laserRemove m) s = .next t ∧ SetsOnly [(.lasStatusRemoveRefused, [(m : Nat)], 1)] s t) ∧
    (
      let hands := v.removing = true ∧ st = 2 ∧ s.lasState p = 2 ∧ comes
      (hands → s.taskRuns 1 = true → waits (.laserHandover m)) ∧
      (hands → s.taskRuns 1 = false → ∃ t, exec (.laserHandover m) s = .next t ∧ t = { s with regs := t.regs, lasers := t.lasers } ∧
        others t ∧ t.laser m = { v with due := false } ∧
        t.laser p = { s.laser p with bias := 10 * s.fld .lasRatingCrossBias [p] } ∧
        RegsSet [(.lasStatusState, [(m : Nat)], 4), (.lasStatusState, [p], 3), (.lasStatusBias, [p], s.fld .lasRatingCrossBias [p])] s t) ∧
      (¬ hands → exec (.laserHandover m) s = .next s)) ∧
    (st = 4 → ∃ t, exec (.laserReleased m) s = .next t ∧ t = { s with regs := t.regs, lasers := t.lasers } ∧ alone t ∧
      t.laser m = { v with removing := false, stored := s.fld .lasWearWear [m], bias := 0 } ∧
      RegsSet [(.lasStatusState, [(m : Nat)], 5), (.lasStatusBias, [(m : Nat)], 0)] s t) ∧
    (st ≠ 4 → exec (.laserReleased m) s = .next s) ∧
    (s.lasLit m = true → exec (.laserInsert m ident) s = .next s) ∧
    (s.lasLit m = false →
      let bad := Config.laserCrcOk ident = false ∨ Config.laserField 1 ident < 150 ∨ Config.laserField 2 ident ≠ 140
      let serial := Config.laserField 0 ident % 2 ^ 64
      let stored := Config.laserField 4 ident % 2 ^ 32
      ∃ t, exec (.laserInsert m ident) s = .next t ∧ t = { s with regs := t.regs, lasers := t.lasers } ∧ alone t ∧
        t.laser m = { LaserSt.empty with stored := stored, takeUp := (t.laser m).takeUp, ident := ident } ∧
        (bad → (t.laser m).takeUp = false ∧ t.lasState m = 1) ∧
        (¬ bad → (t.laser m).takeUp = true ∧ t.lasState m = 5) ∧
        t.fld .lasSerialSerial [m] = serial ∧ t.fld .lasRatingHours [m] = 40000 ∧
        t.fld .lasRatingMaxBias [m] = Config.laserField 1 ident % 2 ^ 8 ∧ t.fld .lasRatingCrossBias [m] = Config.laserField 2 ident % 2 ^ 8 ∧
        t.fld .lasWearWear [m] = Nat.max stored (tabGet countReset s.stash.wear serial) % 2 ^ 32 ∧
        t.fld .lasStatusInterlockOpen [m] = 0 ∧ t.fld .lasStatusBias [m] = 0 ∧
        RegsBut ([Fld.lasSerialSerial, .lasRatingHours, .lasRatingMaxBias, .lasRatingCrossBias, .lasWearWear, .lasStatusInterlockOpen,
          .lasStatusBias, .lasStatusState, .lasStatusWearWarn, .lasStatusWearEnd].map fun f => (f, [(m : Nat)])) s t) ∧
    (
      let takes := st = 5 ∧ v.takeUp = true ∧ s.flag .lasCtrlHold [m] = false ∧ s.opticsOn = true ∧ comes
      (takes → s.taskRuns 1 = true → waits (.laserTakeUp m)) ∧
      (takes → s.taskRuns 1 = false → ∃ t, exec (.laserTakeUp m) s = .next t ∧ lit t ∧ RegsBut (shutFlds m) s t ∧
        PortsFollowLight [] s t ∧ t.laser m = { v with takeUp := false, due := false, bias := (t.laser m).bias } ∧
        (s.lasLit p = true → t.lasState m = 2 ∧ (t.laser m).bias = 1000 ∧ t.fld .lasStatusBias [m] = 100) ∧
        (s.lasLit p = false → t.lasState m = 3 ∧ (t.laser m).bias = 10 * s.fld .lasRatingCrossBias [m] ∧
          t.fld .lasStatusBias [m] = s.fld .lasRatingCrossBias [m]) ∧
        (s.lasState p = 3 → t.lasState p = 2 ∧ t.fld .lasStatusBias [p] = 100 ∧ t.laser p = { s.laser p with bias := 1000 }) ∧
        (s.lasState p ≠ 3 → t.lasState p = s.lasState p ∧ t.laser p = s.laser p)) ∧
      (¬ takes → exec (.laserTakeUp m) s = .next s)) ∧
    (s.lasLit m = true → ∃ t, exec (.laserFailure m false) s = .next t ∧ lit t ∧ LaserShut m s t ∧ RegsBut (shutFlds m) s t ∧
      (t.laser m).tries = v.tries) ∧
    (st = 0 ∨ st = 5 → exec (.laserFailure m false) s = .next s) ∧
    (st = 1 ∨ st = 6 → ∃ t, exec (.laserFailure m false) s = .next t ∧ SetsOnly [(.lasStatusState, [(m : Nat)], 6)] s t) ∧
    (
      let empty := [Fld.lasStatusState, .lasStatusBias, .lasStatusTemperature, .lasStatusWearWarn, .lasStatusWearEnd, .lasWearWear,
        .lasSerialSerial, .lasRatingHours, .lasRatingMaxBias, .lasRatingCrossBias].map fun f => (f, [(m : Nat)])
      ∃ t, exec (.laserFailure m true) s = .next t ∧ lit t ∧
        t.laser m = LaserSt.empty ∧ (∀ e ∈ empty, t.fld e.1 e.2 = 0) ∧ RegsBut (shutFlds m ++ empty) s t ∧
        (s.lasLit m = false → t.ports = s.ports ∧ t.laser p = s.laser p) ∧
        (s.lasLit m = true → PortsFollowLight (ownPorts m) s t ∧
          (s.lasState p = 2 → t.lasState p = 3 ∧ (t.laser p).bias = 10 * s.fld .lasRatingCrossBias [p]))) ∧
    (s.lasLit m = true → ∃ t, exec (.interlockOpen m) s = .next t ∧ lit t ∧ LaserShut m s t ∧ RegsBut ((.lasStatusInterlockOpen, [(m : Nat)]) :: shutFlds m) s t ∧
      t.fld .lasStatusInterlockOpen [m] = 1) ∧
    (st = 0 ∨ st = 5 → ∃ t, exec (.interlockOpen m) s = .next t ∧ SetsOnly [(.lasStatusInterlockOpen, [(m : Nat)], 1)] s t) ∧
    (st = 1 ∨ st = 6 → ∃ t, exec (.interlockOpen m) s = .next t ∧
      SetsOnly [(.lasStatusInterlockOpen, [(m : Nat)], 1), (.lasStatusState, [(m : Nat)], 6)] s t) ∧
    (
      let w := word.toNat
      let inOrder := crc16 ((leBytes 8 w).drop 2) = w % 2 ^ 16 ∧ ∀ l, v.last = some l → w / 2 ^ 48 = (l + 1) % 65536
      let bias := Config.laserBias (w / 2 ^ 40 % 2 ^ 8) (w / 2 ^ 24 % 2 ^ 16) (w / 2 ^ 16 % 2 ^ 8)
      let sent := s.taskRuns 1 = false ∧ 2 ≤ st
      let good := inOrder ∧ ∀ b, bias = some b → b ≤ 10 * s.fld .lasRatingMaxBias [m]
      (¬ sent → exec (.laserCommand m word) s = .next s) ∧
      (sent → ¬ good → v.tries < 3 → ∃ t, exec (.laserCommand m word) s = .next t ∧ t = { s with lasers := t.lasers } ∧ alone t ∧
        t.laser m = { v with tries := v.tries + 1 }) ∧
      (sent → s.lasLit m = false → ¬ good → 3 ≤ v.tries → ∃ t, exec (.laserCommand m word) s = .next t ∧
        t = { s with regs := t.regs, lasers := t.lasers } ∧ alone t ∧ t.laser m = { v with tries := 0 } ∧
        RegsSet [(.lasStatusCmdFault, [(m : Nat)], 1), (.lasStatusState, [(m : Nat)], 6)] s t) ∧
      (sent → s.lasLit m = true → ¬ good → 3 ≤ v.tries → ∃ t, exec (.laserCommand m word) s = .next t ∧ lit t ∧ LaserShut m s t ∧ (t.laser m).tries = 0 ∧
        RegsBut ((.lasStatusCmdFault, [(m : Nat)]) :: shutFlds m) s t ∧ t.fld .lasStatusCmdFault [m] = 1) ∧
      (sent → good → (bias = none ∨ s.lasLit m = false) → ∃ t, exec (.laserCommand m word) s = .next t ∧
        t = { s with lasers := t.lasers } ∧ alone t ∧ t.laser m = { v with last := some (w / 2 ^ 48), tries := 0 }) ∧
      ∀ b, sent → good → bias = some b → s.lasLit m = true → ∃ t, exec (.laserCommand m word) s = .next t ∧
        t = { s with regs := t.regs, lasers := t.lasers } ∧ alone t ∧
        t.laser m = { v with last := some (w / 2 ^ 48), tries := 0, bias := b } ∧
        RegsSet [(.lasStatusBias, [(m : Nat)], b / 10)] s t)) ∧
  (∀ (e : Fin 32) (s : State),
    let at_ := fun (i : Instr) (u : State) => exec i s = .next (if (e : Nat) < 24 then u.barrierGo else u) ∧
      u = { s with shutters := u.shutters, regs := u.regs, ports := u.ports, barrier := { s.barrier with fresh := u.barrier.fresh } } ∧
      (24 ≤ (e : Nat) → u.regs = s.regs ∧ u.ports = s.ports ∧ u.barrier = s.barrier) ∧
      ∀ a : Nat, a ≠ (e : Nat) → u.port a = s.port a
    (∃ u, at_ (.connectorOpen e) u ∧ (∀ x, x ∈ u.shutters ↔ x ∈ s.shutters ∨ x = (e : Nat)) ∧
      ((e : Nat) < 24 → u.portState e = 0 ∧ u.barrier = s.barrier ∧
        RegsBut [(.portStatusState, [(e : Nat)]), (.portStatusLanesUp, [(e : Nat)])] s u)) ∧
    ∃ u, at_ (.connectorClose e) u ∧ (∀ x, x ∈ u.shutters ↔ x ∈ s.shutters ∧ x ≠ (e : Nat)) ∧
      ((e : Nat) < 24 → u.portState e = (if u.portLit e then (if s.portState e = 0 then 1 else s.portState e) else 0) ∧
        RegsBut [(.portStatusState, [(e : Nat)]), (.portStatusLanesUp, [(e : Nat)]), (.portStatusSpareUsed, [(e : Nat)]),
          (.barrierStatusFabricStarted, [])] s u)) ∧
  ∀ (s : State), ∃ t, exec .wearTick s = .next t ∧ t = { s with regs := t.regs, lasers := t.lasers } ∧
    RegsBut ((List.range 16).flatMap fun m => [(Fld.lasWearWear, [m]), (.lasStatusWearWarn, [m]), (.lasStatusWearEnd, [m])]) s t ∧
    ∀ m, m < 16 →
      let w := s.fld .lasWearWear [m]
      let w' := t.fld .lasWearWear [m]
      let add := wearOf (s.laser m).bias (s.fld .lasStatusTemperature [m])
      let rated := s.fld .lasRatingHours [m] * 65536
      ((s.lasLit m = false ∨ 2 < s.fld .pwrStateCurrent) → t.laser m = s.laser m ∧ w' = w) ∧
      (s.lasLit m = true → s.fld .pwrStateCurrent ≤ 2 → w * 65536 + (s.laser m).frac + add < 2 ^ 48 →
        t.laser m = { s.laser m with frac := (t.laser m).frac } ∧ (t.laser m).frac < 65536 ∧
        w' * 65536 + (t.laser m).frac = w * 65536 + (s.laser m).frac + add ∧
        t.flag .lasStatusWearWarn [m] = (rated != 0 && decide (9 * rated ≤ 10 * w')) ∧
        t.flag .lasStatusWearEnd [m] = (rated != 0 && decide (rated ≤ w')))

/-- LADDER_REQUEST, PLDM_SET_STATE, LADDER_MOVE_DOWN, LADDER_MOVE_UP, FIRN_REQUEST_TIMEOUT, GLACIER_WAKE, COLD_START, READY_SET, SENSOR_SAMPLE, DESCENT_TIMEOUT, PROTECTIVE_CLEAR, LEAK_DETECTED, HARDWARE_SHUTDOWN, SUPERVISOR_POWER_UP, INPUT_POWER_RESTORED, PERST_ASSERTION and JTAG_INSTRUCTION: requests are taken or refused, each move gates or restores what the ladder says, limits raise their flags and a protective descent, and power-up, reset and bring-up lose and keep what the manual names (R464, R473 to R475, R487, R494 to R505, R517 to R520, R571, R573, R576, R577). What PERST# keeps in device memory is the model's choice (log entry 70). Rests on 17_power_clocks_and_metering.md, 16_host_link_media_ports_station_time.md, 20_connectors_ratings_and_address_map.md. -/
def Obligations.TheLadderMovesAndTheModuleComesUp : Prop :=
  ∀ (s : State),
    let now := s.psNow
    let target := s.psTarget
    let prot := s.flag .pwrStateProtective
    let heading := if prot || s.power.held then Nat.max 1 target else target
    let toward := fun (n : Nat) => if prot then Nat.max 1 n else n
    let leaving := s.boot.firn = true
    let perstOff := { s with boot := { s.boot with perst := false }, power := { s.power with jtag := none } }
    let planned := fun (t : State) =>
      let c := s.fld .pwrClockPlanPendingId
      let p := s.fld .pwrPowerPlanPendingId
      let okC := s.stash.clockPlans.any (fun e => e.1 == c && decide (e.2 ≤ cclkLimit s.part.grade))
      let okP := s.stash.powerPlans.any (fun e => e.1 == p)
      t.fld .pwrClockPlanPlanId = (if okC then c else s.fld .pwrClockPlanPlanId) ∧
      t.fld .pwrPowerPlanPlanId = (if okP then p else s.fld .pwrPowerPlanPlanId) ∧
      t.flag .pwrStatusPlanRefused = (s.flag .pwrStatusPlanRefused || (c != s.fld .pwrClockPlanPlanId && !okC) ||
        (p != s.fld .pwrPowerPlanPlanId && !okP))
    let planFlds := [(Fld.pwrClockPlanPlanId, ([] : List Nat)), (.pwrPowerPlanPlanId, []), (.pwrStatusPlanRefused, [])]
    let restFlds := [(Fld.pwrStateCurrent, ([] : List Nat)), (.pwrStateMoving, []), (.sttStatusLock, []), (.sttStatusSlewing, []),
      (.hubReadyTimeLocked, []), (⟨.msixPba, 63, 0⟩, [4])] ++ lightFlds ++ (List.range 16).map fun m => (.lasStatusBias, [m])
    let logged := fun (l : List Nat) => s.power.faults ++ l.map fun e => ((s.reg .pwrUptime).toNat, (s.reg .pwrBoot).toNat, e)
    let stepsTo := fun (i : Instr) (n : Nat) => ∃ u, exec i s = .next (if n = 0 then u.lateDoorbells else u) ∧
      SetsOnly [(.pwrStateCurrent, [], n), (.pwrStateMoving, [], b2n (heading != n))] s u
    let building := s.boot.running = true ∧ now < 4 ∧ heading < now
    let woken := fun (perst : Bool) (t : State) => t = { s with regs := t.regs, boot := t.boot, power := t.power, linkUp := true } ∧
      t.boot = ⟨if perst then false else s.boot.perst, true, true, s.boot.firn⟩ ∧
      t.power = { s.power with jtag := if perst then none else s.power.jtag, held := false } ∧ planned t ∧
      RegsBut (planFlds ++ [(.pwrStateTarget, []), (.pwrStateCurrent, []), (.pwrStateMoving, [])]) s t ∧
      t.psNow = 3 ∧ t.psTarget = (if target = 4 then b2n prot else target) ∧ t.fld .pwrStateMoving = b2n (toward t.psTarget != 3)
    let arrived := fun (n : Nat) (t : State) => t.psNow = n ∧ t.ready = true ∧ t.boot = { s.boot with firn := false }
    let ends := fun (t : State) => t = { s with
        regs := t.regs, boot := t.boot, power := t.power, mbox := t.mbox, mboxOut := t.mboxOut, ports := t.ports, portOut := t.portOut
        msix := t.msix, alerts := t.alerts, rr := t.rr } ∧
      RegsBut [(.pwrStateTarget, []), (.pwrStateCurrent, []), (.pwrStateMoving, []), (.hubReadyReady, []), (⟨.msixPba, 63, 0⟩, [4]),
        (.rrStatusOverflow, [])] s t
    let stops := fun (t : State) => t.psNow = 1 ∧ t.fld .pwrStateMoving = b2n (heading != 1) ∧ t.jobs = [] ∧
      (∀ c, c < 64 → (t.ctx c).frames = []) ∧
      ∀ q, ∀ e ∈ (t.queue q).staged, e.phase = .running → e.kind = 1 → e.abandoned = true
    let litBias := fun (t : State) (b : Nat → Nat) => ∀ m, m < 16 → s.lasLit m = true → (t.laser m).bias = b m
    let full := fun m => if s.lasState m = 3 then 10 * s.fld .lasRatingCrossBias [m] else 1000
    (∀ (want : BitVec 3) (bus : SidebandBus),
      let n := want.toNat
      let refused := 4 < n ∨ (prot = true ∧ n = 0) ∨ (s.power.input = false ∧ n < now)
      let answers := fun (i : Instr) =>
        (refused → ∃ t, exec i s = .next t ∧ SetsOnly [(.pwrStateTargetRefused, [], 1)] s t) ∧
        (¬ refused → ¬ (leaving ∧ now ≤ toward n) → ∃ t, exec i s = .next t ∧
          t = { s with regs := t.regs, power := { s.power with held := false } } ∧
          RegsSet [(.pwrStateTarget, [], n), (.pwrStateMoving, [], b2n (toward n != now))] s t) ∧
        (¬ refused → leaving → now ≤ toward n → ∃ t, exec i s = .next t ∧ arrived now t ∧ ends t ∧ t.psTarget = n ∧
          t.power = { s.power with held := false })
      (s.HostUp → now ≠ 4 → answers (.ladderRequest .register want)) ∧ (s.HostUp → now = 4 → exec (.ladderRequest .register want) s = .next s) ∧
      answers (.ladderRequest .i3c want) ∧ answers (.ladderRequest .smbus want) ∧ answers (.pldmSetState bus want)) ∧
    (∀ (l12 : Bool),
      let quiet := (∀ c, c < 64 → (s.ctx c).frames = []) ∧ ∀ e ∈ s.jobs, e.2 = none
      let idle := ∀ c, c < 64 → s.fld .ctxStatusState [c] = 0
      let inFlight := ∃ c, c < 64 ∧ (s.ctx c).frames ≠ []
      let waits := (s.power.descent = true ∧ inFlight) ∨
        (s.power.descent = false ∧ ¬ (0 < target ∧ s.station.boundary = true ∧ quiet))
      (heading ≤ now ∨ (now = 0 ∧ waits) ∨ (now = 2 ∧ ¬ (l12 = true ∧ idle)) → exec (.ladderMoveDown l12) s = .next s) ∧
      (now = 0 → 0 < heading → ¬ waits → s.power.descent = false → stepsTo (.ladderMoveDown l12) 1) ∧
      (now = 0 → 0 < heading → ¬ waits → s.power.descent = true → ∃ t, exec (.ladderMoveDown l12) s = .next t ∧ stops t ∧ t.mem = s.mem) ∧
      (now = 1 → 1 < heading → ∃ t, exec (.ladderMoveDown l12) s = .next t ∧
        t = { s with
          regs := t.regs, lasers := t.lasers, ports := t.ports, barrier := t.barrier, portOut := t.portOut, msix := t.msix, alerts := t.alerts
          station := { s.station with master := if s.station.source = 1 then none else s.station.master } } ∧ RegsBut restFlds s t ∧
        t.psNow = 2 ∧ t.fld .pwrStateMoving = b2n (heading != 2) ∧ litBias t (fun _ => Config.keepWarm) ∧ (∀ a, a < 24 → t.portState a = 0) ∧
        t.fld .sttStatusLock = if s.station.source = 1 ∧ (s.fld .sttStatusLock = 1 ∨ s.fld .sttStatusLock = 2) then 3 else s.fld .sttStatusLock) ∧
      (now = 2 → 2 < heading → l12 = true → idle → ∃ t, exec (.ladderMoveDown l12) s = .next t ∧ t.psNow = 3 ∧ t.ready = false ∧
        t.fld .pwrStateMoving = b2n (heading != 3) ∧ t.host = s.host ∧ t.stash = s.stash ∧ t.island = s.island ∧
        t.cells = [] ∧ t.jobs = [] ∧ t.tables = [] ∧ t.kblocks = [] ∧ t.ftb0 = FtbBank.empty ∧ t.ftb1 = FtbBank.empty ∧ litBias t (fun _ => 0) ∧
        (∀ g, g < 2 → s.fld .shelfStatusState [g] = 2 → t.fld .shelfStatusState [g] = 0 ∧
          (t.shelf g).parked = some (s.fld .shelfStatusSize [g], s.fld .shelfStatusEnginesUp [g])) ∧
        ∀ x, tabGet memReset t.mem x = if hubStoreAt x then 0 else tabGet memReset s.mem x) ∧
      (3 ≤ now → now < heading → ∃ t, exec (.ladderMoveDown l12) s = .next t ∧ t.psNow = 4 ∧ t.linkUp = false ∧ t.hclk = 0 ∧ t.ready = false ∧
        t.mem = [] ∧ t.cells = [] ∧ t.queues = [] ∧ t.ctxs = [] ∧ t.stash = s.stash ∧ t.island = s.island ∧ t.host = s.host)) ∧
    (∀ (l : List LaserReading),
      (now ≤ heading → ¬ leaving → exec (.ladderMoveUp l) s = .next s) ∧
      (now ≤ heading → leaving → ∃ t, exec (.ladderMoveUp l) s = .next t ∧ arrived now t ∧ ends t ∧ t.power = s.power) ∧
      (building → stepsTo (.ladderMoveUp l) (now - 1)) ∧
      (¬ building → now = 1 → heading = 0 → ¬ leaving → stepsTo (.ladderMoveUp l) 0) ∧
      (¬ building → now = 1 → heading = 0 → leaving → ∃ t, exec (.ladderMoveUp l) s = .next t ∧ arrived 0 t ∧ ends t ∧
        t.rr.doorbells = [] ∧ t.power = s.power) ∧
      (¬ building → now = 2 → heading < 2 → ∃ t, exec (.ladderMoveUp l) s = .next t ∧ litBias t full ∧ PortsFollowLight [] s t ∧
        (¬ leaving → t.psNow = 1 ∧ RegsBut restFlds s t ∧ t = { s with
          regs := t.regs, lasers := t.lasers, ports := t.ports, barrier := t.barrier, portOut := t.portOut, msix := t.msix
          alerts := t.alerts }) ∧
        (leaving → (heading = 1 → arrived 1 t) ∧ (heading = 0 → t.psNow = 1 ∧ t.ready = s.ready ∧ t.boot = s.boot)) ∧
        t.fld .pwrStateMoving = b2n (heading != 1) ∧ t.mem = s.mem ∧
        t.fld .sttStatusLock = if s.station.source = 1 ∧ s.fld .sttStatusLock = 3 then 1 else s.fld .sttStatusLock) ∧
      (¬ building → now = 3 → heading < 3 → ∃ t, exec (.ladderMoveUp l) s = .next t ∧ t.psNow = 2 ∧ planned t ∧
        (l = [] → litBias t (fun _ => Config.keepWarm)) ∧
        (∀ r, l = [r] → r.powers.any (s.overPower (r.laser % 16)) = true → s.lasLit (r.laser % 16) = true → t.lasState (r.laser % 16) = 6) ∧
        (heading = 2 → arrived 2 t) ∧ (heading < 2 → t.ready = s.ready ∧ t.boot = { s.boot with firn := true }) ∧
        t.fld .pwrStateMoving = b2n (heading != 2) ∧ t.station = { s.station with counted := false } ∧
        t.fld .sttStatusLock = (if s.station.source = 0 then 0 else 1) ∧ t.mem = s.mem ∧
        ∀ g, g < 2 → ∀ size up, (s.shelf g).parked = some (size, up) → t.fld .shelfStatusState [g] = 2 ∧ (t.shelf g).parked = none) ∧
      (4 < now → heading < now → exec (.ladderMoveUp l) s = .next s) ∧
      (now = 4 → heading < 4 → (s.power.input = true → ∃ t, exec (.ladderMoveUp l) s = .next t ∧ woken false t) ∧
        (s.power.input = false → exec (.ladderMoveUp l) s = .next s))) ∧
    (now = 2 → 2 < target → ∃ t, exec .firnRequestTimeout s = .next t ∧
      SetsOnly [(.pwrStateTargetRefused, [], 1), (.pwrStateTarget, [], 2), (.pwrStateMoving, [], 0)] s t) ∧
    (now ≠ 2 ∨ target ≤ 2 → exec .firnRequestTimeout s = .next s) ∧
    (now = 4 → s.power.input = true → (∀ src, ∃ t, exec (.glacierWake src) s = .next t ∧ woken (src == .perst) t) ∧
      ∃ t, exec .coldStart s = .next t ∧ woken true t) ∧
    (now ≠ 4 ∨ s.power.input = false → exec (.glacierWake .perst) s = .next perstOff ∧ exec (.glacierWake .sideband) s = .next s ∧
      exec (.glacierWake .pcie) s = .next s) ∧
    (¬ (now = 4 ∧ s.power.input = true) → (s.ready = true ∨ s.power.input = false) → exec .coldStart s = .next perstOff) ∧
    (now ≠ 4 → s.ready = false → s.power.input = true → exec .coldStart s = .next { perstOff with boot := ⟨false, true, false, s.boot.firn⟩ }) ∧
    (∀ (stage : BootStage) (l : List LaserReading),
      let runs := s.boot.running = true ∧ (stage = .config ∨ now ≤ 1)
      (¬ runs → ∀ passed, exec (.readySet stage passed l) s = .next s) ∧
      (runs → ∃ t, exec (.readySet stage false l) s = .next t ∧
        t = { s with regs := t.regs, boot := { s.boot with running := false }, msix := t.msix, alerts := s.alerts ++ [4] } ∧
        RegsBut [(.hubReadyFailStage, []), (⟨.msixPba, 63, 0⟩, [4])] s t ∧ t.fld .hubReadyFailStage = stageCode stage) ∧
      (runs →
        let all := ∀ f ∈ [Fld.hubReadyConfig, .hubReadyMemory, .hubReadyCells, .hubReadyOptics], f = stageField stage ∨ s.flag f = true
        ∃ t, exec (.readySet stage true l) s = .next t ∧ t.flag (stageField stage) = true ∧ t.mem = s.mem ∧
          (all → t.ready = true ∧ t.boot = { s.boot with running := false }) ∧ (¬ all → t.ready = s.ready ∧ t.boot = s.boot) ∧
          (stage = .cells → t.cells = [] ∧ t.ftb0 = FtbBank.empty ∧ t.ftb1 = FtbBank.empty) ∧ (stage ≠ .cells → t.cells = s.cells) ∧
          (∀ r, stage = .optics → l = [r] → r.powers.any (s.overPower (r.laser % 16)) = true → s.lasLit (r.laser % 16) = true →
            t.lasState (r.laser % 16) = 6) ∧
          (stage = .optics → l = [] → litBias t full ∧ PortsFollowLight [] s t))) ∧
    (∀ (volts power avg1 avg100 : Nat) (dies : List Nat),
      let lim := s.planLimits
      let hot := dies.foldl Nat.max 0
      let low := decide (152 ≤ volts) && decide (volts < 160)
      let was := decide (152 ≤ s.fld .pwrSenseVoltage) && decide (s.fld .pwrSenseVoltage < 160)
      let trips := decide (lim.2.2 ≤ hot) || decide (lim.1 < avg100)
      ∃ t, exec (.sensorSample volts power avg1 avg100 dies) s = .next t ∧ t = { s with regs := t.regs, power := t.power } ∧
        RegsSet [(.pwrSensePower, [], Nat.min 4095 power), (.pwrSenseTemperature, [], Nat.min 255 hot),
          (.pwrSenseVoltage, [], Nat.min 255 volts), (.pwrStatusOverPower, [], if lim.1 < avg1 then 1 else s.fld .pwrStatusOverPower),
          (.pwrStatusTempWarn, [], if lim.2.1 ≤ hot then 1 else s.fld .pwrStatusTempWarn),
          (.pwrStatusThermalTrip, [], if lim.2.2 ≤ hot then 1 else s.fld .pwrStatusThermalTrip),
          (.pwrStateProtective, [], if trips then 1 else s.fld .pwrStateProtective),
          (.pwrStateMoving, [], if trips && !prot then b2n (Nat.max 1 target != now) else s.fld .pwrStateMoving)] s t ∧
        let events := (if low && !was then [5] else []) ++ (if decide (lim.1 < avg1) && !s.flag .pwrStatusOverPower then [1] else []) ++
          (if decide (lim.2.1 ≤ hot) && !s.flag .pwrStatusTempWarn then [2] else []) ++ if trips && !prot then [3] else []
        t.power = { s.power with
          held := s.power.held || (trips && !prot), events := s.power.events ++ events, faults := logged events }) ∧
    (s.power.descent = true → now = 0 → ∃ t, exec .descentTimeout s = .next t ∧ stops t ∧ t.mem = s.mem) ∧
    (s.power.descent = false ∨ now ≠ 0 → exec .descentTimeout s = .next s) ∧
    (∀ (p q : Bool), (p = true ∧ q = true ∧ s.power.wet = false → ∃ t, exec (.protectiveClear p q) s = .next t ∧
        t = { s with regs := t.regs, power := { s.power with descent := false } } ∧
        RegsSet [(.pwrStateProtective, [], 0), (.pwrStateMoving, [], b2n ((if s.power.held then Nat.max 1 target else target) != now))] s t) ∧
      (¬ (p = true ∧ q = true ∧ s.power.wet = false) → exec (.protectiveClear p q) s = .next s)) ∧
    exec (.leakDetected false) s = .next { s with power := { s.power with wet := false } } ∧
    (∃ t, exec (.leakDetected true) s = .next t ∧ t = { s with regs := t.regs, power := t.power } ∧
      RegsSet [(.pwrStateProtective, [], 1), (.pwrStateMoving, [], if prot then s.fld .pwrStateMoving else b2n (Nat.max 1 target != now))] s t ∧
      let events := if prot then [6] else [6, 3]
      t.power = { s.power with wet := true, held := s.power.held || !prot, events := s.power.events ++ events, faults := logged events }) ∧
    (∀ (cause : ShutdownCause), ∃ t, exec (.hardwareShutdown cause) s = .next t ∧ t.psNow = 4 ∧ t.psTarget = 4 ∧ t.fld .pwrStateMoving = 0 ∧
      t.fld .pwrStatusLastShutdown = shutdownCode cause ∧ t.power.events = s.power.events ++ [4] ∧ t.power.faults = logged [4] ∧ t.linkUp = false ∧ t.ready = false ∧
      t.mem = [] ∧ t.cells = [] ∧ t.stash = s.stash ∧ (cause = .temperature → t.power.input = s.power.input ∧ t.island = s.island) ∧
      (cause ≠ .temperature → t.power.input = false ∧ t.island.powered = false ∧ t.island.acc = s.island.acc ∧
        (s.island.powered = true → t.island.buffer = [] ∧ t.island.tag = none) ∧ (s.island.powered = false → t.island = s.island))) ∧
    (∀ (ccal : BitVec 16) (mv : Nat), ∃ t, exec (.supervisorPowerUp ccal mv) s = .next t ∧
      let fits := s.power.input && decide (620000000000 ≤ bankCharge ccal.toNat mv)
      t.stash = { s.stash with
        boot := (s.stash.boot + 1) % 2 ^ 32, ccal := if fits then ccal.toNat else s.stash.ccal
        waiting := if fits then [] else [(1, .calibration ccal.toNat)] } ∧
      t.fld .pwrCountStashRefused = b2n !fits ∧ t.fld .pwrHoldupEnergy = Nat.min 65535 (bankCharge ccal.toNat mv / 2000000000) ∧ t.fld .pwrBootBoot = (s.stash.boot + 1) % 2 ^ 32 ∧
      t.fld .pwrHoldupCcal = ccal.toNat ∧ t.fld .pwrStatusHoldupWorn = b2n (decide (ccal.toNat < 1200)) ∧ t.power.bank = mv ∧ t.hclk = 0 ∧
      t.boot = ⟨true, false, false, false⟩ ∧ t.linkUp = true ∧ t.ready = false ∧ t.mem = [] ∧ t.cells = [] ∧ t.island = s.island ∧
      t.psNow = if s.power.input then 0 else 4) ∧
    (s.power.input = true → exec .inputPowerRestored s = .next s) ∧
    (s.power.input = false → ∃ t, exec .inputPowerRestored s = .next t ∧ t = { s with power := { s.power with input := true }, island := t.island } ∧
      t.island.powered = true ∧ (s.island.powered = true → t.island = s.island) ∧
      (s.island.powered = false →
        let v := { s.island with powered := true, boots := (s.island.boots + 1) % 2 ^ 32, uptime := 0 }
        t.island = { v with seq := t.island.seq, log := t.island.log, buffer := t.island.buffer } ∧
          (s.island.seq < 2 ^ 32 → IslandLogged 3 (Config.islandData 3 []) { s with island := v } t))) ∧
    (∃ t, exec .perstAssertion s = .next t ∧ t.mem = s.mem ∧ t.cells = [] ∧ t.queues = [] ∧ t.ctxs = [] ∧ t.boot = ⟨true, false, false, false⟩ ∧
      t.ready = false ∧ t.stash = s.stash ∧ t.island = s.island ∧ t.host = s.host ∧ t.linkUp = s.linkUp ∧
      ∀ a, tabGet regReset t.regs a = if keptReg a then tabGet regReset s.regs a else regReset a) ∧
    ∀ (code : BitVec 8), exec (.jtagInstruction code) s =
      .next { s with power := { s.power with jtag := if s.boot.perst = true ∧ now = 4 then some code else none } }

/-- MBOX_CFG_WRITE, MBOX_MAP_WRITE, CACHE_ENABLE_WRITE, SNPINV, SNPDATA, SNPCUR, MAILBOX_READ_DATA, HEAD_LINE_UPDATE, GO_WRITEPULL and GO_WRITEPULLDROP: the mailbox reads its doorbell lines while it is on, evicts every line where enable is cleared and holds none where ready or Cache Enable is clear, answers each snoop from the state of the line, keeps snoops for a read and answers them from an eviction buffer, and takes the tails of a doorbell line as doorbells (R465 to R468, R474, R488). Rests on 16_host_link_media_ports_station_time.md. -/
def Obligations.MailboxLinesFollowTheirProtocol : Prop :=
  (∀ (enable : Bool) (val : BitVec 64) (s : State),
    let follows := fun (t : State) =>
      let idle := fun (n : Nat) => !(s.line n).reading && (s.line n).evict == none
      let reads := fun (n : Nat) => t.mboxOn && (s.line n).kind == 1 && (s.line n).state == .invalid && idle n
      let evicts := fun (n : Nat) => !t.mboxOn && t.cachesLines && (s.line n).state != .invalid && idle n
      (∀ n, n < 256 → t.line n =
        if reads n then { s.line n with reading := true, addr := t.lineAddr n }
        else if evicts n then { s.line n with state := .invalid, evict := some ((s.line n).state, (s.line n).bytes) }
        else if t.cachesLines then s.line n
        else if idle n ∧ s.lineMap n ≠ ((s.line n).kind, (s.line n).group) then
          { MboxLine.empty with kind := s.fld .mboxMapKind [n], group := s.fld .mboxMapGroup [n] }
        else { s.line n with state := .invalid, held := [] }) ∧
      (∀ n, 256 ≤ n → t.line n = s.line n) ∧
      t.mboxOut = s.mboxOut ++ (List.range 256).flatMap fun n =>
        if reads n then [⟨n, .rdShared, []⟩]
        else if evicts n then [⟨n, if (s.line n).state = .shared then .cleanEvict else .dirtyEvict, []⟩]
        else if t.cachesLines then [] else (s.line n).held.map fun _ => ⟨n, .rspIHitI, []⟩
    (∃ t, exec (.cacheEnableWrite enable) s = .next t ∧ t = { s with cacheOn := enable, mbox := t.mbox, mboxOut := t.mboxOut } ∧ follows t) ∧
    (s.HostUp →
      let w := val.toNat
      let fixed := s.flag .mboxCfgEnable = true ∧ w / 2 ^ 14 % 2 ^ 34 ≠ s.fld .mboxCfgBase
      (fixed → exec (.mboxCfgWrite val) s = .next s) ∧
      (¬ fixed → ∃ t, exec (.mboxCfgWrite val) s = .next t ∧ t = { s with regs := t.regs, mbox := t.mbox, mboxOut := t.mboxOut } ∧ follows t ∧
        RegsSet [(.mboxCfgBase, [], w / 2 ^ 14 % 2 ^ 34), (.mboxCfgEnable, [], w % 2),
          (.mboxCfgMapRefused, [], if w / 2 % 2 = 1 then 0 else s.fld .mboxCfgMapRefused)] s t))) ∧
  (∀ (n : Fin 256) (val : BitVec 32) (s : State), s.HostUp →
    let v := s.line n
    let m := (val.toNat / 2 ^ 30, val.toNat % 2 ^ 8)
    let taken := (m.1 = 1 ∨ m.1 = 2) ∧ ∃ k : Nat, k < 256 ∧ k ≠ (n : Nat) ∧ s.lineMap k = m
    let others := fun (t : State) => ∀ k : Nat, k ≠ (n : Nat) → t.line k = s.line k
    let busy := v.reading = true ∨ v.evict ≠ none
    let sets := [(Fld.mboxMapKind, [(n : Nat)], m.1), (.mboxMapGroup, [(n : Nat)], m.2)]
    (taken → ∃ t, exec (.mboxMapWrite n val) s = .next t ∧ SetsOnly [(.mboxCfgMapRefused, [], 1)] s t) ∧
    (¬ taken → (m = (v.kind, v.group) ∨ busy) → ∃ t, exec (.mboxMapWrite n val) s = .next t ∧ SetsOnly sets s t) ∧
    (¬ taken → m ≠ (v.kind, v.group) → ¬ busy → v.state ≠ .invalid → ∃ t, exec (.mboxMapWrite n val) s = .next t ∧
      t = { s with regs := t.regs, mbox := t.mbox, mboxOut := t.mboxOut } ∧ RegsSet sets s t ∧ others t ∧
      t.line n = { v with state := .invalid, evict := some (v.state, v.bytes) } ∧
      t.mboxOut = s.mboxOut ++ [⟨n, if v.state = .shared then .cleanEvict else .dirtyEvict, []⟩]) ∧
    (¬ taken → m ≠ (v.kind, v.group) → ¬ busy → v.state = .invalid → ∃ t, exec (.mboxMapWrite n val) s = .next t ∧
      let reads := s.mboxOn && m.1 == 1
      t = { s with regs := t.regs, mbox := t.mbox, mboxOut := t.mboxOut } ∧ RegsSet sets s t ∧ others t ∧
      t.line n = { MboxLine.empty with
        kind := m.1, group := m.2, held := v.held, reading := reads, addr := if reads then s.lineAddr n else 0 } ∧
      t.mboxOut = s.mboxOut ++ if reads then [⟨n, .rdShared, []⟩] else [])) ∧
  ∀ (n : Fin 256) (s : State),
    let v := s.line n
    let others := fun (t : State) => ∀ k : Nat, k ≠ (n : Nat) → t.line k = s.line k
    let snp := fun (q : Snoop) => match q with | .inv => Instr.snpInv n | .data => Instr.snpData n | .cur => Instr.snpCur n
    let back := fun (bytes : List Byte) (t : State) => ∀ x, tabGet memReset t.host x =
      if v.addr ≤ x ∧ x < v.addr + bytes.length then bytes.getD (x - v.addr) 0 else tabGet memReset s.host x
    let reply := fun (st : LineState) (q : Snoop) (bytes : List Byte) => match st, q with
      | .invalid, _ => CxlMsg.mk n .rspIHitI []
      | .shared, .inv => ⟨n, .rspIHitI, []⟩
      | .shared, _ => ⟨n, .rspSHitSE, []⟩
      | .modified, .inv => ⟨n, .rspIFwdM, bytes⟩
      | .modified, _ => ⟨n, .rspSFwdM, bytes⟩
    let leaves := fun (st : LineState) (q : Snoop) => if q = .inv ∨ st = .invalid then LineState.invalid else .shared
    let forwards := fun (st : LineState) (bytes : List Byte) (t : State) => if st = .modified then back bytes t else t.host = s.host
    (∀ q, s.cachesLines = false → exec (snp q) s = .next { s with mboxOut := s.mboxOut ++ [⟨n, .rspIHitI, []⟩] }) ∧
    (∀ q, s.cachesLines = true → v.evict = none → v.reading = true → ∃ t, exec (snp q) s = .next t ∧ t = { s with mbox := t.mbox } ∧ others t ∧
      t.line n = { v with held := v.held ++ [q] }) ∧
    (∀ q, s.cachesLines = true → v.evict = none → v.reading = false → ∃ t, exec (snp q) s = .next t ∧
      let st := leaves v.state q
      let again := s.mboxOn && v.kind == 1 && st == .invalid
      t = { s with mbox := t.mbox, mboxOut := t.mboxOut, host := t.host } ∧ others t ∧ forwards v.state v.bytes t ∧
      t.line n = { v with state := st, reading := again, addr := if again then s.lineAddr n else v.addr } ∧
      t.mboxOut = s.mboxOut ++ [reply v.state q v.bytes] ++ if again then [⟨n, .rdShared, []⟩] else []) ∧
    (∀ q st bytes, s.cachesLines = true → v.evict = some (st, bytes) → ∃ t, exec (snp q) s = .next t ∧ others t ∧ forwards st bytes t ∧
      t = { s with mbox := t.mbox, mboxOut := s.mboxOut ++ [reply st q bytes], host := t.host } ∧
      t.line n = { v with evict := some (.invalid, bytes) }) ∧
    (∀ (data : List (BitVec 32)),
      let tails := (List.range 16).map fun k => (data.getD k 0).toNat
      let bytes := tails.flatMap fun w => leBytes 4 w
      let here := s.mboxOn = true ∧ v.addr = s.lineAddr n
      let heads := (List.range 16).flatMap fun k => leBytes 4 (s.fld .queHeadHead [16 * v.group + k])
      let rings := (List.range 16).foldl (fun u k =>
        if v.seen.getD k 0 = tails.getD k 0 then u else u.liveDoorbell (16 * v.group + k) (tails.getD k 0)) s
      let reading := v.reading = true ∧ v.evict = none
      (v.reading = false → exec (.mailboxReadData n data) s = .next s) ∧
      (reading → s.cachesLines = false → ∃ t, exec (.mailboxReadData n data) s = .next t ∧
        t = { s with mbox := t.mbox, mboxOut := s.mboxOut ++ v.held.map fun _ => ⟨n, .rspIHitI, []⟩ } ∧ others t ∧
        t.line n = if s.lineMap n = (v.kind, v.group) then { v with reading := false, state := .invalid, held := [] }
          else { MboxLine.empty with kind := s.fld .mboxMapKind [n], group := s.fld .mboxMapGroup [n] }) ∧
      (reading → s.cachesLines = true → ¬ here → v.held = [] → ∃ t, exec (.mailboxReadData n data) s = .next t ∧
        t = { s with mbox := t.mbox, mboxOut := s.mboxOut ++ [⟨n, .cleanEvict, []⟩] } ∧ others t ∧
        t.line n = { v with reading := false, state := .invalid, bytes := bytes, evict := some (.shared, bytes) }) ∧
      (reading → here → v.kind = 2 → v.held = [] → ∃ t, exec (.mailboxReadData n data) s = .next t ∧
        t = { s with mbox := t.mbox, mboxOut := t.mboxOut } ∧ others t ∧
        (s.lineMap n = (v.kind, v.group) → t.mboxOut = s.mboxOut ∧ t.line n = { v with reading := false, state := .modified, bytes := heads }) ∧
        (s.lineMap n ≠ (v.kind, v.group) → t.mboxOut = s.mboxOut ++ [⟨n, .dirtyEvict, []⟩] ∧
          t.line n = { v with reading := false, state := .invalid, bytes := heads, evict := some (.modified, heads) })) ∧
      (reading → here → v.kind ≠ 2 → v.held = [] → ∃ t, exec (.mailboxReadData n data) s = .next t ∧
        t = { rings with mbox := t.mbox, mboxOut := t.mboxOut } ∧ others t ∧ (v.seen.length = 16 → (t.line n).seen = tails) ∧
        (s.lineMap n = (v.kind, v.group) → t.mboxOut = s.mboxOut ∧
          t.line n = { v with reading := false, state := .shared, bytes := bytes, seen := (t.line n).seen }) ∧
        (s.lineMap n ≠ (v.kind, v.group) → t.mboxOut = s.mboxOut ++ [⟨n, .cleanEvict, []⟩] ∧
          t.line n = { v with reading := false, state := .invalid, bytes := bytes, seen := (t.line n).seen, evict := some (.shared, bytes) })) ∧
      (∀ k, k < 16 → v.seen.getD k 0 ≠ tails.getD k 0 → (∀ j, j < 16 → j ≠ k → v.seen.getD j 0 = tails.getD j 0) →
        s.replaying = false → s.recording = false → s.inFlow = true →
        let q := 16 * v.group + k
        let w := tails.getD k 0
        (s.tailBad q w = false → SetsOnly [(.queTailTail, [q], w)] s rings) ∧
        (s.tailBad q w = true → SetsOnly [(.queStatusDoorbellRefused, [q], 1),
          (.queCountDoorbellsRefused, [q], satAdd 16 (s.fld .queCountDoorbellsRefused [q]) 1)] s rings)) ∧
      (∀ q, reading → here → v.kind = 1 → s.lineMap n = (v.kind, v.group) → v.held = [q] → ∃ t, exec (.mailboxReadData n data) s = .next t ∧
        t = { rings with mbox := t.mbox, mboxOut := t.mboxOut } ∧ others t ∧
        t.line n = { v with
          reading := q == .inv, state := if q = .inv then .invalid else .shared, bytes := bytes, held := [], seen := (t.line n).seen } ∧
        t.mboxOut = s.mboxOut ++ [reply .shared q bytes] ++ if q = .inv then [⟨n, .rdShared, []⟩] else [])) ∧
    (
      let writes := s.mboxOn = true ∧ v.kind = 2 ∧ v.evict = none ∧ v.reading = false
      let heads := (List.range 16).flatMap fun k => leBytes 4 (s.fld .queHeadHead [16 * v.group + k])
      (writes → v.state = .modified → ∃ t, exec (.headLineUpdate n) s = .next t ∧ t = { s with mbox := t.mbox } ∧ others t ∧
        t.line n = { v with bytes := heads }) ∧
      (writes → v.state ≠ .modified → ∃ t, exec (.headLineUpdate n) s = .next t ∧ others t ∧
        t = { s with mbox := t.mbox, mboxOut := s.mboxOut ++ [⟨n, .rdOwn, []⟩] } ∧
        t.line n = { v with reading := true, addr := s.lineAddr n }) ∧
      (¬ writes → exec (.headLineUpdate n) s = .next s)) ∧
    (v.evict = none → exec (.goWritePull n) s = .next s ∧ exec (.goWritePullDrop n) s = .next s) ∧
    ∀ st bytes, v.evict = some (st, bytes) →
      let idle := v.state == .invalid && !v.reading
      let w := if s.lineMap n = (v.kind, v.group) ∨ idle = false then { v with evict := none }
        else { MboxLine.empty with kind := s.fld .mboxMapKind [n], group := s.fld .mboxMapGroup [n], held := v.held }
      let again := s.mboxOn && w.kind == 1 && idle
      let reads := if again then [CxlMsg.mk n .rdShared []] else []
      let ends := fun (t : State) => others t ∧
        t.line n = { w with reading := w.reading || again, addr := if again then s.lineAddr n else w.addr }
      (∃ t, exec (.goWritePullDrop n) s = .next t ∧ t = { s with mbox := t.mbox, mboxOut := s.mboxOut ++ reads } ∧ ends t) ∧
      ∃ t, exec (.goWritePull n) s = .next t ∧ ends t ∧ back bytes t ∧
        t = { s with mbox := t.mbox, mboxOut := s.mboxOut ++ [⟨n, .data, bytes⟩] ++ reads, host := t.host }

/-- STATION_FRAME_BOUNDARY, STATION_STEP, REFERENCE_LOSS, REFERENCE_RESTORED, TIME_LOCK, EXPOSURE_PULSE, PTP_MESSAGE, MEDIA_PACKET_RECEIVE, HOUSE_RTP_PACKET, STREAM_COMMIT, MEDIA_LATCH, MEDIA_FRAME_SEND, HOST_PAGE_WRITE, LINK_DOWN and HOST_LINK_RETURN: a frame begins with what waits for it, the lock follows the reference, the frame of an exposure pulse starts 8 TCLK cycles after its edge, the best PTP master gives the offset, packets fill their planes and windows or are counted, streams latch, send and repeat, and pages go to the host whole (R458, R464, R470, R471, R474, R476 to R486, R489 to R492). The order of a pixel group and what a house stream calls a unit are the model's choice (log entry 85). Rests on 16_host_link_media_ports_station_time.md, 15_shodo_fabric_and_laser_modules.md, 14_determinism_and_freeze_mode.md, 09_memory_tiers_and_integrity.md, 17_power_clocks_and_metering.md. -/
def Obligations.TimeMediaAndHostLinkMove : Prop :=
  (∀ (s : State),
    let st := s.station
    let lock := s.fld .sttStatusLock
    let frame := s.fld .sttPositionFrame
    let source := getBits (s.reg .sttCfg) 31 30
    let num := getBits (s.reg .sttRate) 31 12
    let begins := fun (r : Option RefTime) (t : State) =>
      (t.station.ticks, t.station.early) = (match r with | some x => (x.into / (5 * num), x.into % (5 * num)) | none => (0, st.nextEarly)) ∧
      t.fld .sttPositionFrame = (match r.bind (·.frame) with | some k => k | none => (frame + 1) % 2 ^ 32) ∧
      (t.fld .sttPositionLine, t.fld .sttPositionSubline) = t.positionAt ∧
      (∀ n, t.stream n = { s.stream n with cur := if (s.stream n).latched = none then (s.stream n).cur else (s.stream n).latched }) ∧
      t.barrier = (if s.barrier.outstanding then s.barrier else
        { s.barrier with node := (s.reg .fabNode).toNat, tree := (s.reg .fabTree).toNat, members := s.fld .fabMembersMembers }) ∧
      (let body := leBytes 2 (s.fld .pwrMeterTagTag) ++ leBytes 1 (t.fld .sttPositionFrame)
       t.island = { s.island with message := some (BitVec.ofNat 32 (leNat (body ++ leBytes 1 (crc8 body)))) }) ∧
      t.power = { s.power with descent := s.power.descent || s.flag .pwrStateProtective } ∧
      t.station = { t.station with cfg := s.reg .sttCfg, rate := s.reg .sttRate, boundary := true, edge := none, step := false, tclk := st.tclk }
    let relocks := fun (i : Instr) (v : Nat) (l : List (Fld × List Nat)) (w : StationSt) => ∃ t, exec i s = .next t ∧
      t = { s with regs := t.regs, station := w, msix := t.msix, alerts := s.alerts ++ [3] } ∧
      t.fld .sttStatusLock = v ∧ t.fld .hubReadyTimeLocked = b2n (v == 2) ∧
      RegsBut ([(.sttStatusLock, []), (.hubReadyTimeLocked, []), (⟨.msixPba, 63, 0⟩, [4])] ++ l) s t
    (s.stationOn = false ∨ st.exposure = true → exec .stationFrameBoundary s = .next s) ∧
    (s.stationOn = true → st.exposure = false →
      let ref := State.refNow { s with station := { st with cfg := s.reg .sttCfg, rate := s.reg .sttRate } }
      (source = st.source → st.step = false → ∃ t, exec .stationFrameBoundary s = .next t ∧ begins (if s.ready then none else ref) t ∧
        t = { s with regs := t.regs, station := t.station, barrier := t.barrier, media := t.media, island := t.island, power := t.power } ∧
        t.station = { st with
          ticks := t.station.ticks, early := t.station.early, cfg := s.reg .sttCfg, rate := s.reg .sttRate, boundary := true, edge := none } ∧
        RegsBut [(.sttPositionFrame, []), (.sttPositionLine, []), (.sttPositionSubline, [])] s t) ∧
      (source = st.source → st.step = true → ∃ t, exec .stationFrameBoundary s = .next t ∧ begins ref t ∧
        t.fld .sttStatusStepped = 1 ∧ ∀ c, c < 64 → ∀ f ∈ (t.ctx c).frames, f.timing = false) ∧
      (source ≠ st.source → ∃ t, exec .stationFrameBoundary s = .next t ∧ t.fld .sttStatusLock = (if source = 0 then 0 else 1) ∧
        t.station.cfg = s.reg .sttCfg ∧ t.station.master = none ∧ t.station.offset = none ∧ t.station.counted = false)) ∧
    (∀ (width : Nat),
      let early := width < 100 ∨ st.edge ≠ none ∨ st.ticks < 400 * s.fld .sttVlineMinGap
      (s.stationOn = false ∨ st.exposure = false → exec (.exposurePulse width) s = .next s) ∧
      (s.stationOn = true → st.exposure = true → early → ∃ t, exec (.exposurePulse width) s = .next t ∧
        SetsOnly [(.sttStatusPulsesIgnored, [], satAdd 16 (s.fld .sttStatusPulsesIgnored) 1)] s t) ∧
      (s.stationOn = true → st.exposure = true → ¬ early →
        exec (.exposurePulse width) s = .next { s with station := { st with edge := some 8 } })) ∧
    (s.pending = [] → s.stationOn = true → s.flag .sttStatusSlewing = false → 4000000 ≤ st.phase →
      (∀ k, st.edge = some (k + 2) → ∃ t, step s = .next t ∧ t.station = { st with
        tclk := st.tclk + 1, ticks := st.ticks + 1, boundary := false, edge := some (k + 1), phase := st.phase - 4000000, starts := true }) ∧
      (st.edge = some 1 → source = st.source → st.step = false → s.ready = true → ∃ t, step s = .next t ∧ t.station.ticks = 0 ∧
        t.station.edge = none ∧ t.station.boundary = true ∧ t.fld .sttPositionFrame = (frame + 1) % 2 ^ 32 ∧
        (t.reg .sttExposure).toNat = (st.tclk + 1) % 2 ^ 64)) ∧
    (∀ (val : BitVec 32), s.HostUp → exec (.stationStep val) s = .next (if val.getLsbD 0 then { s with station := { st with step := true } } else s)) ∧
    (lock = 1 ∨ lock = 2 → relocks .referenceLoss 3 [(.sttStatusSlewing, [])] { st with master := none } ∧
      ∀ t, exec .referenceLoss s = .next t → t.fld .sttStatusSlewing = 0) ∧
    (lock ≠ 1 → lock ≠ 2 → exec .referenceLoss s = .next { s with station := { st with master := none } }) ∧
    (lock = 3 → relocks .referenceRestored 1 [] st) ∧
    (lock ≠ 3 → exec .referenceRestored s = .next s) ∧ (lock = 1 → st.source ≠ 2 ∨ st.counted = true → relocks .timeLock 2 [] st) ∧
    (lock = 1 → st.source = 2 → st.counted = false → relocks .timeLock 2 [(.sttPositionFrame, [])] { st with counted := true } ∧
      ∀ t, exec .timeLock s = .next t → t.fld .sttPositionFrame = 0) ∧ (lock ≠ 1 → exec .timeLock s = .next s) ∧
    ∀ (port : Fin 4) (domain : BitVec 7) (sender : BitVec 64) (seq : BitVec 16) (m x : Int),
      let msg := fun (k : PtpKind) => exec (.ptpMessage port ⟨domain, sender, seq⟩ k m x) s
      let ours := st.source = 1 ∧ s.mediaLink port = true ∧ (port : Nat) = getBits st.cfg 28 27 ∧ domain.toNat = getBits st.cfg 26 20
      let followed := st.master.map (·.2) = some sender.toNat
      let became := fun (v : StationSt) => (Host.Outcome.next { s with station := v } : Host.Outcome State Fault Refusal)
      (¬ ours → ∀ k, msg k = .next s) ∧
      (ours →
        (∀ rank, (st.master = none ∨ followed → msg (.announce rank) = became { st with master := some (rank, sender.toNat) }) ∧
          ∀ r i, st.master = some (r, i) → i ≠ sender.toNat → msg (.announce rank) =
            if rank < r then became { st with master := some (rank, sender.toNat), twoStep := none, sync := none, request := none }
            else .next s) ∧
        msg .delayReq = became { st with request := some (seq.toNat, x) } ∧
        (¬ followed → ∀ k, k = .sync true ∨ k = .sync false ∨ k = .followUp ∨ k = .delayResp → msg k = .next s) ∧
        (followed →
          msg (.sync true) = became { st with twoStep := some (seq.toNat, x) } ∧ msg (.sync false) = became { st with sync := some (m, x) } ∧
          (∀ t, st.twoStep = some (seq.toNat, t) → msg .followUp = became { st with twoStep := none, sync := some (m, t) }) ∧
          ((∀ t, st.twoStep ≠ some (seq.toNat, t)) → msg .followUp = .next s) ∧
          ((st.sync = none ∨ ∀ t, st.request ≠ some (seq.toNat, t)) → msg .delayResp = .next s) ∧
          ∀ t1 t2 t3, st.sync = some (t1, t2) → st.request = some (seq.toNat, t3) →
            let d := ((t2 - t1) - (m - t3)) / 2
            let half := (5 * (st.tclk : Int) - 2 * d).toNat
            let p := 2000000000 * st.den
            (s.ready = true → ∃ t, msg .delayResp = .next t ∧
              t = { s with regs := t.regs, station := { st with request := none, offset := some d } } ∧
              RegsSet [(.sttStatusSlewing, [], b2n (d != 0))] s t) ∧
            (s.ready = false → ∃ t, msg .delayResp = .next t ∧ t = { s with regs := t.regs, station := { st with
                request := none, offset := some d, ticks := t.station.ticks, early := t.station.early } } ∧
              (0 < st.num → 0 < st.den → t.fld .sttPositionFrame = half * st.num / p % 2 ^ 32 ∧
                t.station.ticks = half * st.num % p / (5 * st.num)) ∧
              RegsBut [(.sttPositionFrame, []), (.sttPositionLine, []), (.sttPositionSubline, [])] s t)))) ∧
  (∀ (n : Fin 64) (port : Fin 4) (path : Bool) (no stamp : BitVec 32) (row off : Nat) (payload : List Byte) (s : State),
    let v := s.stream n
    let cmd := Instr.mediaPacketReceive n port path no stamp ⟨row, off⟩ payload
    let fits := row < (Config.streamSize n).1 ∧ off + packetLen n payload ≤ (Config.streamSize n).2
    let discards := [(Fld.mdpCountDiscarded, ([] : List Nat), satAdd 16 (s.fld .mdpCountDiscarded) 1)]
    let second := Config.streamMerged n = true ∧ no.toNat ∈ v.seen
    let took := fun (t : State) => (∀ k : Nat, k ≠ (n : Nat) → t.stream k = s.stream k) ∧
      t.stream n = { v with seen := keptSeqs v.seen no.toNat }
    (s.mediaLink port = false → exec cmd s = .next s) ∧
    (s.mediaLink port = true → s.ready = false → ∃ t, exec cmd s = .next t ∧ SetsOnly discards s t) ∧
    (s.mediaLink port = true → s.ready = true → ∃ t, exec cmd s = .next t ∧
      (second → t = s) ∧
      (¬ second → took t ∧ t = { s with regs := t.regs, media := t.media, mem := t.mem, cells := t.cells }) ∧
      (¬ second → (v.cur = none ∨ ¬ fits) → RegsSet discards s t ∧ t.mem = s.mem ∧ t.cells = s.cells) ∧
      ∀ table, ¬ second → v.cur = some table → fits →
        let spans := s.packetCells n table row off stamp payload
        let open_ := fun (e : Nat × List Byte) => s.mediaShut e.1 e.2.length = []
        t.fld .mdpCountPathBUsed = satAdd 15 (s.fld .mdpCountPathBUsed) (b2n path) ∧
        ((∀ e ∈ spans, open_ e) → RegsBut [(.mdpCountPathBUsed, [])] s t) ∧
        (∀ e ∈ spans, ∀ g ∈ s.mediaShut e.1 e.2.length, t.fld .shelfStatusAccessRefused [g] = 1) ∧
        (∀ x, (∀ e ∈ spans, open_ e → x < e.1 ∨ e.1 + e.2.length ≤ x) → t.devByte x = s.devByte x) ∧
        ∀ pre e post j, spans = pre ++ e :: post → open_ e → j < e.2.length → s.place (e.1 + j) ≠ .hole →
          (∀ e' ∈ post, e.1 + j < e'.1 ∨ e'.1 + e'.2.length ≤ e.1 + j) → t.devByte (e.1 + j) = e.2.getD j 0)) ∧
  (∀ (c : Fin 64) (port : Fin 4) (payload : List Byte) (s : State),
    let f := leNat (payload.take 4)
    let unit := leNat ((payload.drop 4).take 2)
    let off := leNat ((payload.drop 8).take 4)
    let bytes := payload.drop 12
    let taken := s.ready = true ∧ 12 ≤ payload.length ∧ s.packetOk c f unit off bytes.length = true
    let at_ := ingressBase c (f % 2) unit + off
    (s.mediaLink port = false → exec (.houseRtpPacket c ⟨port, payload⟩) s = .next s) ∧
    (s.mediaLink port = true → ∃ t, exec (.houseRtpPacket c ⟨port, payload⟩) s = .next t ∧
      (¬ taken → SetsOnly [(.mdpCountDiscarded, [], satAdd 16 (s.fld .mdpCountDiscarded) 1)] s t) ∧
      (taken → t = { s with mem := t.mem, cells := t.cells, ingress := t.ingress } ∧
        (t.ing c).staged = (s.ing c).staged ++ bytes ∧ (t.ing c).next = (s.ing c).next ∧
        tabGet spansReset ((t.ing c).slot f).units unit = tabGet spansReset ((s.ing c).slot f).units unit ++ [(off, bytes.length)] ∧
        (∀ k : Nat, k ≠ (c : Nat) → t.ing k = s.ing k) ∧ DevBut at_ bytes.length s t ∧
        ∀ j, j < bytes.length → s.place (at_ + j) ≠ .hole → t.devByte (at_ + j) = bytes.getD j 0))) ∧
  (∀ (n : Fin 128) (val : BitVec 64) (s : State),
    let v := s.stream n
    let others := fun (t : State) => ∀ k : Nat, k ≠ (n : Nat) → t.stream k = s.stream k
    let frame := s.fld .sttPositionFrame
    let due := s.latchNow n = true ∧ v.latchAt.map (·.1) ≠ some frame
    (s.HostUp →
      (val.getLsbD 31 = false → exec (.streamCommit n val) s = .next s) ∧
      (val.getLsbD 31 = true → ∃ t, exec (.streamCommit n val) s = .next t ∧ t = { s with regs := t.regs, media := t.media } ∧ others t ∧
        let a := some (s.reg .strmAddr [n]).toNat
        let base := if v.committed = none ∧ v.latched = none ∧ v.cur = none ∧ 64 ≤ (n : Nat)
          then s.tally (Config.sendTally ((n : Nat) - 64) % 4096) else v.base
        t.stream n = (if s.latchedNow n then { v with committed := none, latched := a, base := base }
          else { v with committed := a, base := base }) ∧
        RegsSet [(.strmCommitPending, [(n : Nat)], b2n !(s.latchedNow n)),
          (.strmCommitTakenFrame, [(n : Nat)], (frame + if s.beforeLatch n then 1 else 2) % 2 ^ 32)] s t)) ∧
    (¬ due → exec (.mediaLatch n) s = .next s) ∧
    (due → ∃ t, exec (.mediaLatch n) s = .next t ∧ t = { s with regs := t.regs, media := t.media } ∧ others t ∧
      t.stream n = { v with
        committed := none, latched := if v.committed = none then v.latched else v.committed, latchAt := some (frame, s.hclk) } ∧
      RegsSet [(.strmCommitPending, [(n : Nat)], if v.committed = none then s.fld .strmCommitPending [n] else 0)] s t)) ∧
  (∀ (n : Fin 64) (s : State),
    let k := 64 + (n : Nat)
    let v := s.stream k
    let ports := ((Config.streamPorts k).map (· % 4)).filter s.mediaUp
    ∃ t, exec (.mediaFrameSend n) s = .next t ∧
      t = { s with regs := t.regs, media := t.media, mediaOut := t.mediaOut, egress := t.egress } ∧
      (ports = [] → t = s) ∧ (∀ j : Nat, j ≠ k → t.stream j = s.stream j) ∧
      match Config.houseSend n with
      | none => t.egress = s.egress ∧ (v.cur = none → t = s) ∧
        ∀ a, v.cur = some a → ports ≠ [] →
          let late := v.last.isSome && !s.sendReached n v.sent
          let buf := if late then v.last.getD a else a
          t.mediaOut = s.mediaOut ++ ports.map (fun p => ⟨p, k, buf, (s.frameBytes k buf).1⟩) ∧
          t.stream k = { v with sent := v.sent + 1, last := some buf } ∧
          t.fld .strmCommitRepeats [k] = satAdd 16 (s.fld .strmCommitRepeats [k]) (b2n late) ∧
          ((∀ l ∈ s.frameCells k buf, ∀ e ∈ l, s.mediaShut e.1 e.2 = []) → RegsBut [(.strmCommitRepeats, [k])] s t)
      | some c => t.media = s.media ∧ (∀ c' : Nat, c' ≠ c → t.egr c' = s.egr c') ∧
        (Config.houseBytes n = 0 → (s.egr c).cur ≠ none → t = s) ∧ ((s.egr c).cur = none → (s.egr c).due = 0 → t = s) ∧
        (∃ out, t.mediaOut = s.mediaOut ++ out ∧ ∀ m ∈ out, m.stream = k ∧ m.table = 0 ∧ m.bytes.length ≤ 12 + houseMax ∧ m.port ∈ ports) ∧
        ∀ r, (s.egr c).cur = some r → 0 < Config.houseBytes n → ports ≠ [] →
          let len := Nat.min (Nat.min r.left (Config.houseBytes n)) houseMax
          let e := s.egr c
          s.mediaOut ++ ports.map (fun p => ⟨p, k, 0, houseHeader e.frame e.unit e.sent (decide (r.left ≤ len)) ++ (s.mediaRead r.addr len).1⟩)
            <+: t.mediaOut) ∧
  (∀ (c : Fin 64) (credits : Bool) (s : State),
    let v := s.egr c
    let goes := s.linkUp = true ∧ credits = true ∧ s.hostPageFree c = true
    (v.pages = [] → exec (.hostPageWrite c credits) s = .next (s.egressRun c)) ∧
    (v.pages = [] → v.cur = none → v.due = 0 → exec (.hostPageWrite c credits) s = .next s) ∧
    (v.pages ≠ [] → ¬ goes → ∃ t, exec (.hostPageWrite c credits) s = .next t ∧ SetsOnly [(.outStatusStalled, [(c : Nat)], 1)] s t) ∧
    (∀ p rest, v.pages = p :: rest → goes → exec (.hostPageWrite c credits) s = .next ((s.writePage c p).egressRun c)) ∧
    (∀ p rest, v.pages = p :: rest → goes → v.cur = none → v.due = 0 → ∃ t, exec (.hostPageWrite c credits) s = .next t ∧
      t = { s with regs := t.regs, host := t.host, egress := t.egress } ∧ (∀ k : Nat, k ≠ (c : Nat) → t.egr k = s.egr k) ∧
      t.egr c = { v with pages := rest, nextPage := v.nextPage + 1, cut := false, gap := false, discarded := if v.gap then 0 else v.discarded } ∧
      t.fld .outStatusStalled [c] = 0 ∧ RegsBut [(.outStatusStalled, [(c : Nat)]), (.outStatusFreePages, [(c : Nat)])] s t ∧
      let i := v.nextPage % 2 ^ s.fld .outCfgLog2Size [c]
      let page := leNat (s.hostRead (s.fld .outRingBase [c] * 4096 + 8 * i) 8)
      let rec_ := s.fld .outRecBase [c] * 4096 + 16 * i
      let record := hostRecord c p v.gap (if v.gap then v.discarded else 0)
      ∀ x, tabGet memReset t.host x = if rec_ ≤ x ∧ x < rec_ + record.length then record.getD (x - rec_) 0
        else if page ≤ x ∧ x < page + p.len then s.devByte (s.spillAt c p.slot + (x - page)) else tabGet memReset s.host x)) ∧
  ∀ (s : State),
    (s.linkUp = false → exec .linkDown s = .next s) ∧
    (s.linkUp = true → ∃ t, exec .linkDown s = .next t ∧ t = { s with regs := t.regs, egress := t.egress, linkUp := false } ∧
      RegsBut ((List.range 64).map fun c => (.outStatusStalled, [c])) s t ∧ ∀ c, c < 64 →
        if (s.egr c).pages ≠ [] ∧ s.hostPageFree c = true then t.fld .outStatusStalled [c] = 1 ∧ t.egr c = { s.egr c with cut := true }
        else t.fld .outStatusStalled [c] = s.fld .outStatusStalled [c] ∧ t.egr c = s.egr c) ∧
    (s.linkUp = true → exec .hostLinkReturn s = .next s) ∧
    (s.linkUp = false → (∀ c, c < 64 → (s.egr c).cut = true → (s.egr c).pages = []) →
      exec .hostLinkReturn s = .next { s with linkUp := true }) ∧
    ∀ c p rest, c < 64 → s.linkUp = false → (s.egr c).cut = true → (s.egr c).pages = p :: rest →
      (∀ k, k < 64 → k ≠ c → (s.egr k).cut = false) →
      let u := State.writePage { s with linkUp := true } c p
      exec .hostLinkReturn s = .next (u.egressRun c) ∧ u.linkUp = true ∧ u.mem = s.mem ∧ (u.egr c).pages = rest ∧ (u.egr c).cut = false ∧
        (u.egr c).nextPage = (s.egr c).nextPage + 1 ∧ u.fld .outStatusStalled [c] = 0

/-- STASH_SESSION, STASH_RETRY, WEAR_STASH_WRITE, PLDM_FIRMWARE_UPDATE, METER_INTERVAL, TAG_MESSAGE, TAG_TIMEOUT, METER_SUMMARY, ISLAND_FIRMWARE_UPDATE, SEAL_OPEN, SEAL_CLOSE, METER_CALIBRATION_CHANGE and VERIFICATION_READ: a session is written whole where the bank holds its energy and kept otherwise, with the fault records that wait, energy goes to the tag in force, a tag message counts where its CRC holds, a new image goes to the inactive slot, and the island logs what it must (R406, R447, R494, R505 to R516, R521, R575, R583). The bytes of a record's type data and the voltage measured for the wear session are free values, an identifier of a plan that is held keeps its plan, and a new image leaves nothing of one that was not whole (the model's choices, log entry 78). Rests on 17_power_clocks_and_metering.md, 14_determinism_and_freeze_mode.md, 15_shodo_fabric_and_laser_modules.md, 20_connectors_ratings_and_address_map.md. -/
def Obligations.StashAndIslandKeepTheirRecords : Prop :=
  (∀ (mv : Nat) (s : State),
    let fits := fun (n : Nat) => s.power.input && decide (600000000000 + 20000000000 * n ≤ bankCharge (s.fld .pwrHoldupCcal) mv)
    let refused := fun (n : Nat) => (Fld.pwrCountStashRefused, ([] : List Nat), satAdd 16 (s.fld .pwrCountStashRefused) n)
    let energy := (Fld.pwrHoldupEnergy, ([] : List Nat), Nat.min 65535 (bankCharge (s.fld .pwrHoldupCcal) mv / 2000000000))
    let faults := s.stash.faults ++ s.power.faults
    let kept := fun (l : List (Nat × StashWrite)) (t : State) => RegsSet [energy, refused 1] s t ∧
      t = { s with regs := t.regs, power := { s.power with bank := mv }, stash := { s.stash with waiting := l } }
    let wrote := fun (t : State) => RegsSet [energy] s t ∧
      t = { s with regs := t.regs, power := { s.power with bank := mv, faults := [] }, stash := t.stash }
    (∀ (pages page0 : Nat) (data : List Byte),
      let w := StashWrite.pages page0 (data.take (4096 * pages))
      (pages < 1 ∨ 256 < pages → exec (.stashSession mv pages page0 data) s = .next s) ∧
      (1 ≤ pages → pages ≤ 256 → fits pages = false → ∃ t, exec (.stashSession mv pages page0 data) s = .next t ∧
        kept (s.stash.waiting ++ [(pages, w)]) t) ∧
      (1 ≤ pages → pages ≤ 256 → fits pages = true → ∃ t, exec (.stashSession mv pages page0 data) s = .next t ∧ wrote t ∧
        t.stash = { s.stash with bytes := t.stash.bytes, faults := faults } ∧
        ∀ x, tabGet memReset t.stash.bytes x =
          if 4096 * page0 ≤ x ∧ x < Nat.min 0x4000000 (4096 * page0 + Nat.min (4096 * pages) data.length)
          then data.getD (x - 4096 * page0) 0 else tabGet memReset s.stash.bytes x)) ∧
    (s.stash.waiting = [] → exec (.stashRetry mv) s = .next s) ∧
    (∀ n w rest, s.stash.waiting = (n, w) :: rest → ∃ t, exec (.stashRetry mv) s = .next t ∧
      (fits n = false → kept (rest ++ [(n, w)]) t) ∧
      (fits n = true → wrote t ∧ t.stash = { StashSt.apply { s.stash with waiting := rest } w with faults := faults })) ∧
    (mv = (Config.freeValue s.draws).toNat → ∃ u, exec .wearStashWrite s = .next u ∧ u.draws = s.draws + 1 ∧
      let t := { u with draws := s.draws }
      (fits 1 = false → kept (s.stash.waiting ++ [(1, .wear s.wearRecords)]) t) ∧
      (fits 1 = true → wrote t ∧ t.stash = { s.stash with wear := t.stash.wear, faults := faults } ∧
        ∀ m, m < 16 → s.lasState m ≠ 0 →
          (∀ k, k < 16 → k ≠ m → s.lasState k ≠ 0 → s.fld .lasSerialSerial [k] ≠ s.fld .lasSerialSerial [m]) →
          tabGet countReset t.stash.wear (s.fld .lasSerialSerial [m]) = s.fld .lasWearWear [m])) ∧
    (∀ (image : List Byte), ∃ t, exec (.pldmFirmwareUpdate ⟨.supervisor image, mv⟩) s = .next t ∧
      let xs := itemSessions (.supervisor image)
      let late := xs.filter fun e => !fits e.1
      t = { s with regs := t.regs, power := t.power, stash := t.stash } ∧ RegsSet [energy, refused late.length] s t ∧
      (∀ e ∈ xs, 1 ≤ e.1 ∧ e.1 ≤ 256) ∧
      t.stash.waiting = (s.stash.waiting.filter fun e => match e.2 with | .image _ _ _ => false | _ => true) ++ late ∧
      t.stash.firmware = (if late = [] then image else s.stash.firmware) ∧
      t.stash = { s.stash with firmware := t.stash.firmware, parts := t.stash.parts, waiting := t.stash.waiting, faults := t.stash.faults } ∧
      (late = [] → t.stash.parts = []) ∧
      (if late = xs then t.power = { s.power with bank := mv } ∧ t.stash.faults = s.stash.faults
        else t.power = { s.power with bank := mv, faults := [] } ∧ t.stash.faults = faults)) ∧
    (∀ (id : BitVec 16) (mhz : Nat), ∃ t, exec (.pldmFirmwareUpdate ⟨.clockPlan id mhz, mv⟩) s = .next t ∧
      (fits 1 = false → kept (s.stash.waiting ++ [(1, .clockPlan id.toNat mhz)]) t) ∧
      let plans := s.stash.clockPlans ++ if s.stash.clockPlans.any (fun e => e.1 == id.toNat) then [] else [(id.toNat, mhz)]
      (fits 1 = true → wrote t ∧ t.stash = { s.stash with faults := faults, clockPlans := plans })) ∧
    ∀ (id : BitVec 16) (cap warn trip : Nat), ∃ t, exec (.pldmFirmwareUpdate ⟨.powerPlan id cap warn trip, mv⟩) s = .next t ∧
      (fits 1 = false → kept (s.stash.waiting ++ [(1, .powerPlan id.toNat cap warn trip)]) t) ∧
      let refuses := decide (2400 < cap) || decide (95 < warn) || decide (105 < trip) || s.stash.powerPlans.any fun e => e.1 == id.toNat
      let plans := s.stash.powerPlans ++ if refuses then [] else [(id.toNat, cap, warn, trip)]
      (fits 1 = true → wrote t ∧ t.stash = { s.stash with faults := faults, powerPlans := plans })) ∧
  ∀ (energy : Nat) (ident image : List Byte) (data : BitVec 64) (noise : BitVec 32) (s : State),
    let v := s.island
    let count := Nat.min (2 ^ 32 - 1) (v.events + 1)
    let fault := fun (i : Instr) (m : Option (BitVec 32)) => ∃ t, exec i s = .next t ∧ t = { s with regs := t.regs, island := t.island } ∧
      RegsSet [(.mtrStatusTagFaults, [], satAdd 16 (s.fld .mtrStatusTagFaults) 1)] s t ∧ IslandLogged 2 (Config.islandData 2 []) s t ∧
      t.island = { v with message := m, next := none, seq := t.island.seq, log := t.island.log, buffer := t.island.buffer }
    let events := fun (i : Instr) (type : Nat) (d : BitVec 64) (w : IslandSt) => ∃ t, exec i s = .next t ∧
      t = { s with regs := t.regs, island := t.island } ∧ RegsBut ((List.range 6).map fun k => (⟨.mtrFw, 63, 0⟩, [k])) s t ∧
      IslandLogged type d s t ∧ t.fld .mtrFwWord [5] = count ∧
      t.island = { w with events := count, seq := t.island.seq, log := t.island.log, buffer := t.island.buffer }
    let written := if v.slotBOn then { v with slotA := image } else { v with slotB := image }
    (v.powered = false → exec (.meterInterval energy) s = .next s ∧ exec (.tagMessage noise) s = .next s ∧ exec .tagTimeout s = .next s ∧
      exec .meterSummary s = .next s ∧ (∀ b, exec (.islandFirmwareUpdate ident image b) s = .next s) ∧
      exec .sealOpen s = .next { s with island := { v with sealOpen := true } } ∧
      exec .sealClose s = .next { s with island := { v with sealOpen := false } } ∧
      exec (.meterCalibrationChange data) s = .next s ∧ ∀ q, exec (.verificationRead q) s = .next s) ∧
    (v.powered = true → ∃ t, exec (.meterInterval energy) s = .next t ∧
      t.island = { v with
        acc := t.island.acc, tag := v.next, uptime := v.uptime + 1000, log := t.island.log, buffer := t.island.buffer, pulses := t.island.pulses } ∧
      t = { s with island := t.island } ∧
      (let sum := (v.acc.map (·.2)).sum
       t.island.pulses = v.pulses + ((sum + energy) / 10000 - sum / 10000)) ∧
      (∀ r, tabGet accReset t.island.acc r = tabGet accReset v.acc r + if r = v.tag.getD 0 then energy else 0) ∧
      (s.holdupLine = true → t.island.buffer = v.buffer.drop 16) ∧
      (s.holdupLine = false → t.island.buffer = v.buffer ∧ t.island.log = v.log)) ∧
    (s.taskRuns 2 = true ∨ v.message = none → exec (.tagMessage noise) s = .next s) ∧
    (∀ m, v.message = some m → v.powered = true → s.taskRuns 2 = false →
      let w := (m ^^^ noise).toNat
      let good := crc8 (leBytes 3 w) = w / 2 ^ 24
      (good → exec (.tagMessage noise) s = .next { s with island := { v with message := none, next := some (w % 64) } }) ∧
      (¬ good → v.seq < 2 ^ 32 → fault (.tagMessage noise) none)) ∧
    (v.powered = true → v.seq < 2 ^ 32 → fault .tagTimeout v.message ∧
      (∃ t, exec .meterSummary s = .next t ∧ t = { s with island := t.island } ∧
        IslandLogged 1 (Config.islandData 1 (leBytes 8 (v.acc.map (·.2)).sum)) s t ∧
        t.island = { v with seq := t.island.seq, log := t.island.log, buffer := t.island.buffer }) ∧
      (v.sealOpen = true → events (.islandFirmwareUpdate ident image true) 5 (Config.islandData 5 (v.fwId ++ ident.take 16))
        { written with slotBOn := !v.slotBOn, fwId := ident.take 16, fwSum := crc32c image }) ∧
      (v.sealOpen = false → events .sealOpen 6 (Config.islandData 6 []) { v with sealOpen := true }) ∧
      (v.sealOpen = true → ∃ t, exec .sealClose s = .next t ∧ t = { s with island := t.island } ∧ IslandLogged 7 (Config.islandData 7 []) s t ∧
        t.island = { v with sealOpen := false, seq := t.island.seq, log := t.island.log, buffer := t.island.buffer }) ∧
      events (.meterCalibrationChange data) 8 (Config.islandData 8 (leBytes 8 data.toNat)) v) ∧
    (v.powered = true → v.sealOpen = true → exec (.islandFirmwareUpdate ident image false) s = .next { s with island := written }) ∧
    (v.sealOpen = false → (∀ b, exec (.islandFirmwareUpdate ident image b) s = .next s) ∧ exec .sealClose s = .next s) ∧
    (v.sealOpen = true → exec .sealOpen s = .next s) ∧
    (v.powered = true →
      exec (.verificationRead .identity) s = .next { s with island := { v with uart := v.uart ++ [v.fwId] } } ∧
      exec (.verificationRead .checksum) s = .next { s with island := { v with uart := v.uart ++ [leBytes 4 v.fwSum] } } ∧
      exec (.verificationRead .counter) s = .next { s with island := { v with uart := v.uart ++ [leBytes 4 v.events] } } ∧
      exec (.verificationRead .registers) s = .next { s with island := { v with uart := v.uart ++
        [(List.range 64).flatMap fun n => leBytes 8 (tabGet accReset v.acc n / 1000)] } } ∧
      exec (.verificationRead .log) s = .next { s with island := { v with uart := v.uart ++ [v.records.flatMap fun r => leBytes 32 r.toNat] } })
end

