-- ==== Sys2Proof/Laws/State.lean ====
section
/-! SUPPORT. Every field of State after each of the named updates of Machine/Ops.lean: what the update leaves unchanged. -/

namespace Sys2Proof.Machine

variable (s : State)

/-! setReg. -/

@[simp] theorem State.setReg_part (r : RegId) (v : DWord) (ix : List Nat) : (s.setReg r v ix).part = s.part := rfl
@[simp] theorem State.setReg_hclk (r : RegId) (v : DWord) (ix : List Nat) : (s.setReg r v ix).hclk = s.hclk := rfl
@[simp] theorem State.setReg_draws (r : RegId) (v : DWord) (ix : List Nat) : (s.setReg r v ix).draws = s.draws := rfl
@[simp] theorem State.setReg_bus (r : RegId) (v : DWord) (ix : List Nat) : (s.setReg r v ix).bus = s.bus := rfl
@[simp] theorem State.setReg_mem (r : RegId) (v : DWord) (ix : List Nat) : (s.setReg r v ix).mem = s.mem := rfl
@[simp] theorem State.setReg_host (r : RegId) (v : DWord) (ix : List Nat) : (s.setReg r v ix).host = s.host := rfl
@[simp] theorem State.setReg_cells (r : RegId) (v : DWord) (ix : List Nat) : (s.setReg r v ix).cells = s.cells := rfl
@[simp] theorem State.setReg_queues (r : RegId) (v : DWord) (ix : List Nat) : (s.setReg r v ix).queues = s.queues := rfl
@[simp] theorem State.setReg_seqs (r : RegId) (v : DWord) (ix : List Nat) : (s.setReg r v ix).seqs = s.seqs := rfl
@[simp] theorem State.setReg_owners (r : RegId) (v : DWord) (ix : List Nat) : (s.setReg r v ix).owners = s.owners := rfl
@[simp] theorem State.setReg_tallyPend (r : RegId) (v : DWord) (ix : List Nat) : (s.setReg r v ix).tallyPend = s.tallyPend := rfl
@[simp] theorem State.setReg_ftb0 (r : RegId) (v : DWord) (ix : List Nat) : (s.setReg r v ix).ftb0 = s.ftb0 := rfl
@[simp] theorem State.setReg_ftb1 (r : RegId) (v : DWord) (ix : List Nat) : (s.setReg r v ix).ftb1 = s.ftb1 := rfl
@[simp] theorem State.setReg_tableLoad (r : RegId) (v : DWord) (ix : List Nat) : (s.setReg r v ix).tableLoad = s.tableLoad := rfl
@[simp] theorem State.setReg_remaps (r : RegId) (v : DWord) (ix : List Nat) : (s.setReg r v ix).remaps = s.remaps := rfl
@[simp] theorem State.setReg_fw (r : RegId) (v : DWord) (ix : List Nat) : (s.setReg r v ix).fw = s.fw := rfl
@[simp] theorem State.setReg_ctxs (r : RegId) (v : DWord) (ix : List Nat) : (s.setReg r v ix).ctxs = s.ctxs := rfl
@[simp] theorem State.setReg_rr (r : RegId) (v : DWord) (ix : List Nat) : (s.setReg r v ix).rr = s.rr := rfl
@[simp] theorem State.setReg_thaw (r : RegId) (v : DWord) (ix : List Nat) : (s.setReg r v ix).thaw = s.thaw := rfl
@[simp] theorem State.setReg_shelves (r : RegId) (v : DWord) (ix : List Nat) : (s.setReg r v ix).shelves = s.shelves := rfl
@[simp] theorem State.setReg_ingress (r : RegId) (v : DWord) (ix : List Nat) : (s.setReg r v ix).ingress = s.ingress := rfl
@[simp] theorem State.setReg_egress (r : RegId) (v : DWord) (ix : List Nat) : (s.setReg r v ix).egress = s.egress := rfl
@[simp] theorem State.setReg_linkUp (r : RegId) (v : DWord) (ix : List Nat) : (s.setReg r v ix).linkUp = s.linkUp := rfl
@[simp] theorem State.setReg_jobs (r : RegId) (v : DWord) (ix : List Nat) : (s.setReg r v ix).jobs = s.jobs := rfl
@[simp] theorem State.setReg_tables (r : RegId) (v : DWord) (ix : List Nat) : (s.setReg r v ix).tables = s.tables := rfl
@[simp] theorem State.setReg_kblocks (r : RegId) (v : DWord) (ix : List Nat) : (s.setReg r v ix).kblocks = s.kblocks := rfl
@[simp] theorem State.setReg_power (r : RegId) (v : DWord) (ix : List Nat) : (s.setReg r v ix).power = s.power := rfl
@[simp] theorem State.setReg_ports (r : RegId) (v : DWord) (ix : List Nat) : (s.setReg r v ix).ports = s.ports := rfl
@[simp] theorem State.setReg_portOut (r : RegId) (v : DWord) (ix : List Nat) : (s.setReg r v ix).portOut = s.portOut := rfl
@[simp] theorem State.setReg_chans (r : RegId) (v : DWord) (ix : List Nat) : (s.setReg r v ix).chans = s.chans := rfl
@[simp] theorem State.setReg_barrier (r : RegId) (v : DWord) (ix : List Nat) : (s.setReg r v ix).barrier = s.barrier := rfl
@[simp] theorem State.setReg_lasers (r : RegId) (v : DWord) (ix : List Nat) : (s.setReg r v ix).lasers = s.lasers := rfl
@[simp] theorem State.setReg_shutters (r : RegId) (v : DWord) (ix : List Nat) : (s.setReg r v ix).shutters = s.shutters := rfl
@[simp] theorem State.setReg_station (r : RegId) (v : DWord) (ix : List Nat) : (s.setReg r v ix).station = s.station := rfl
@[simp] theorem State.setReg_mbox (r : RegId) (v : DWord) (ix : List Nat) : (s.setReg r v ix).mbox = s.mbox := rfl
@[simp] theorem State.setReg_mboxOut (r : RegId) (v : DWord) (ix : List Nat) : (s.setReg r v ix).mboxOut = s.mboxOut := rfl
@[simp] theorem State.setReg_cacheOn (r : RegId) (v : DWord) (ix : List Nat) : (s.setReg r v ix).cacheOn = s.cacheOn := rfl
@[simp] theorem State.setReg_media (r : RegId) (v : DWord) (ix : List Nat) : (s.setReg r v ix).media = s.media := rfl
@[simp] theorem State.setReg_mediaOut (r : RegId) (v : DWord) (ix : List Nat) : (s.setReg r v ix).mediaOut = s.mediaOut := rfl
@[simp] theorem State.setReg_boot (r : RegId) (v : DWord) (ix : List Nat) : (s.setReg r v ix).boot = s.boot := rfl
@[simp] theorem State.setReg_stash (r : RegId) (v : DWord) (ix : List Nat) : (s.setReg r v ix).stash = s.stash := rfl
@[simp] theorem State.setReg_island (r : RegId) (v : DWord) (ix : List Nat) : (s.setReg r v ix).island = s.island := rfl
@[simp] theorem State.setReg_trace (r : RegId) (v : DWord) (ix : List Nat) : (s.setReg r v ix).trace = s.trace := rfl
@[simp] theorem State.setReg_msix (r : RegId) (v : DWord) (ix : List Nat) : (s.setReg r v ix).msix = s.msix := rfl
@[simp] theorem State.setReg_alerts (r : RegId) (v : DWord) (ix : List Nat) : (s.setReg r v ix).alerts = s.alerts := rfl
@[simp] theorem State.setReg_pending (r : RegId) (v : DWord) (ix : List Nat) : (s.setReg r v ix).pending = s.pending := rfl

/-! setFld. -/

@[simp] theorem State.setFld_part (f : Fld) (v : Nat) (ix : List Nat) : (s.setFld f v ix).part = s.part := rfl
@[simp] theorem State.setFld_hclk (f : Fld) (v : Nat) (ix : List Nat) : (s.setFld f v ix).hclk = s.hclk := rfl
@[simp] theorem State.setFld_draws (f : Fld) (v : Nat) (ix : List Nat) : (s.setFld f v ix).draws = s.draws := rfl
@[simp] theorem State.setFld_bus (f : Fld) (v : Nat) (ix : List Nat) : (s.setFld f v ix).bus = s.bus := rfl
@[simp] theorem State.setFld_mem (f : Fld) (v : Nat) (ix : List Nat) : (s.setFld f v ix).mem = s.mem := rfl
@[simp] theorem State.setFld_host (f : Fld) (v : Nat) (ix : List Nat) : (s.setFld f v ix).host = s.host := rfl
@[simp] theorem State.setFld_cells (f : Fld) (v : Nat) (ix : List Nat) : (s.setFld f v ix).cells = s.cells := rfl
@[simp] theorem State.setFld_queues (f : Fld) (v : Nat) (ix : List Nat) : (s.setFld f v ix).queues = s.queues := rfl
@[simp] theorem State.setFld_seqs (f : Fld) (v : Nat) (ix : List Nat) : (s.setFld f v ix).seqs = s.seqs := rfl
@[simp] theorem State.setFld_owners (f : Fld) (v : Nat) (ix : List Nat) : (s.setFld f v ix).owners = s.owners := rfl
@[simp] theorem State.setFld_tallyPend (f : Fld) (v : Nat) (ix : List Nat) : (s.setFld f v ix).tallyPend = s.tallyPend := rfl
@[simp] theorem State.setFld_ftb0 (f : Fld) (v : Nat) (ix : List Nat) : (s.setFld f v ix).ftb0 = s.ftb0 := rfl
@[simp] theorem State.setFld_ftb1 (f : Fld) (v : Nat) (ix : List Nat) : (s.setFld f v ix).ftb1 = s.ftb1 := rfl
@[simp] theorem State.setFld_tableLoad (f : Fld) (v : Nat) (ix : List Nat) : (s.setFld f v ix).tableLoad = s.tableLoad := rfl
@[simp] theorem State.setFld_remaps (f : Fld) (v : Nat) (ix : List Nat) : (s.setFld f v ix).remaps = s.remaps := rfl
@[simp] theorem State.setFld_fw (f : Fld) (v : Nat) (ix : List Nat) : (s.setFld f v ix).fw = s.fw := rfl
@[simp] theorem State.setFld_ctxs (f : Fld) (v : Nat) (ix : List Nat) : (s.setFld f v ix).ctxs = s.ctxs := rfl
@[simp] theorem State.setFld_rr (f : Fld) (v : Nat) (ix : List Nat) : (s.setFld f v ix).rr = s.rr := rfl
@[simp] theorem State.setFld_thaw (f : Fld) (v : Nat) (ix : List Nat) : (s.setFld f v ix).thaw = s.thaw := rfl
@[simp] theorem State.setFld_shelves (f : Fld) (v : Nat) (ix : List Nat) : (s.setFld f v ix).shelves = s.shelves := rfl
@[simp] theorem State.setFld_ingress (f : Fld) (v : Nat) (ix : List Nat) : (s.setFld f v ix).ingress = s.ingress := rfl
@[simp] theorem State.setFld_egress (f : Fld) (v : Nat) (ix : List Nat) : (s.setFld f v ix).egress = s.egress := rfl
@[simp] theorem State.setFld_linkUp (f : Fld) (v : Nat) (ix : List Nat) : (s.setFld f v ix).linkUp = s.linkUp := rfl
@[simp] theorem State.setFld_jobs (f : Fld) (v : Nat) (ix : List Nat) : (s.setFld f v ix).jobs = s.jobs := rfl
@[simp] theorem State.setFld_tables (f : Fld) (v : Nat) (ix : List Nat) : (s.setFld f v ix).tables = s.tables := rfl
@[simp] theorem State.setFld_kblocks (f : Fld) (v : Nat) (ix : List Nat) : (s.setFld f v ix).kblocks = s.kblocks := rfl
@[simp] theorem State.setFld_power (f : Fld) (v : Nat) (ix : List Nat) : (s.setFld f v ix).power = s.power := rfl
@[simp] theorem State.setFld_ports (f : Fld) (v : Nat) (ix : List Nat) : (s.setFld f v ix).ports = s.ports := rfl
@[simp] theorem State.setFld_portOut (f : Fld) (v : Nat) (ix : List Nat) : (s.setFld f v ix).portOut = s.portOut := rfl
@[simp] theorem State.setFld_chans (f : Fld) (v : Nat) (ix : List Nat) : (s.setFld f v ix).chans = s.chans := rfl
@[simp] theorem State.setFld_barrier (f : Fld) (v : Nat) (ix : List Nat) : (s.setFld f v ix).barrier = s.barrier := rfl
@[simp] theorem State.setFld_lasers (f : Fld) (v : Nat) (ix : List Nat) : (s.setFld f v ix).lasers = s.lasers := rfl
@[simp] theorem State.setFld_shutters (f : Fld) (v : Nat) (ix : List Nat) : (s.setFld f v ix).shutters = s.shutters := rfl
@[simp] theorem State.setFld_station (f : Fld) (v : Nat) (ix : List Nat) : (s.setFld f v ix).station = s.station := rfl
@[simp] theorem State.setFld_mbox (f : Fld) (v : Nat) (ix : List Nat) : (s.setFld f v ix).mbox = s.mbox := rfl
@[simp] theorem State.setFld_mboxOut (f : Fld) (v : Nat) (ix : List Nat) : (s.setFld f v ix).mboxOut = s.mboxOut := rfl
@[simp] theorem State.setFld_cacheOn (f : Fld) (v : Nat) (ix : List Nat) : (s.setFld f v ix).cacheOn = s.cacheOn := rfl
@[simp] theorem State.setFld_media (f : Fld) (v : Nat) (ix : List Nat) : (s.setFld f v ix).media = s.media := rfl
@[simp] theorem State.setFld_mediaOut (f : Fld) (v : Nat) (ix : List Nat) : (s.setFld f v ix).mediaOut = s.mediaOut := rfl
@[simp] theorem State.setFld_boot (f : Fld) (v : Nat) (ix : List Nat) : (s.setFld f v ix).boot = s.boot := rfl
@[simp] theorem State.setFld_stash (f : Fld) (v : Nat) (ix : List Nat) : (s.setFld f v ix).stash = s.stash := rfl
@[simp] theorem State.setFld_island (f : Fld) (v : Nat) (ix : List Nat) : (s.setFld f v ix).island = s.island := rfl
@[simp] theorem State.setFld_trace (f : Fld) (v : Nat) (ix : List Nat) : (s.setFld f v ix).trace = s.trace := rfl
@[simp] theorem State.setFld_msix (f : Fld) (v : Nat) (ix : List Nat) : (s.setFld f v ix).msix = s.msix := rfl
@[simp] theorem State.setFld_alerts (f : Fld) (v : Nat) (ix : List Nat) : (s.setFld f v ix).alerts = s.alerts := rfl
@[simp] theorem State.setFld_pending (f : Fld) (v : Nat) (ix : List Nat) : (s.setFld f v ix).pending = s.pending := rfl

/-! raise. -/

@[simp] theorem State.raise_part (f : Fld) (ix : List Nat) : (s.raise f ix).part = s.part := rfl
@[simp] theorem State.raise_hclk (f : Fld) (ix : List Nat) : (s.raise f ix).hclk = s.hclk := rfl
@[simp] theorem State.raise_draws (f : Fld) (ix : List Nat) : (s.raise f ix).draws = s.draws := rfl
@[simp] theorem State.raise_bus (f : Fld) (ix : List Nat) : (s.raise f ix).bus = s.bus := rfl
@[simp] theorem State.raise_mem (f : Fld) (ix : List Nat) : (s.raise f ix).mem = s.mem := rfl
@[simp] theorem State.raise_host (f : Fld) (ix : List Nat) : (s.raise f ix).host = s.host := rfl
@[simp] theorem State.raise_cells (f : Fld) (ix : List Nat) : (s.raise f ix).cells = s.cells := rfl
@[simp] theorem State.raise_queues (f : Fld) (ix : List Nat) : (s.raise f ix).queues = s.queues := rfl
@[simp] theorem State.raise_seqs (f : Fld) (ix : List Nat) : (s.raise f ix).seqs = s.seqs := rfl
@[simp] theorem State.raise_owners (f : Fld) (ix : List Nat) : (s.raise f ix).owners = s.owners := rfl
@[simp] theorem State.raise_tallyPend (f : Fld) (ix : List Nat) : (s.raise f ix).tallyPend = s.tallyPend := rfl
@[simp] theorem State.raise_ftb0 (f : Fld) (ix : List Nat) : (s.raise f ix).ftb0 = s.ftb0 := rfl
@[simp] theorem State.raise_ftb1 (f : Fld) (ix : List Nat) : (s.raise f ix).ftb1 = s.ftb1 := rfl
@[simp] theorem State.raise_tableLoad (f : Fld) (ix : List Nat) : (s.raise f ix).tableLoad = s.tableLoad := rfl
@[simp] theorem State.raise_remaps (f : Fld) (ix : List Nat) : (s.raise f ix).remaps = s.remaps := rfl
@[simp] theorem State.raise_fw (f : Fld) (ix : List Nat) : (s.raise f ix).fw = s.fw := rfl
@[simp] theorem State.raise_ctxs (f : Fld) (ix : List Nat) : (s.raise f ix).ctxs = s.ctxs := rfl
@[simp] theorem State.raise_rr (f : Fld) (ix : List Nat) : (s.raise f ix).rr = s.rr := rfl
@[simp] theorem State.raise_thaw (f : Fld) (ix : List Nat) : (s.raise f ix).thaw = s.thaw := rfl
@[simp] theorem State.raise_shelves (f : Fld) (ix : List Nat) : (s.raise f ix).shelves = s.shelves := rfl
@[simp] theorem State.raise_ingress (f : Fld) (ix : List Nat) : (s.raise f ix).ingress = s.ingress := rfl
@[simp] theorem State.raise_egress (f : Fld) (ix : List Nat) : (s.raise f ix).egress = s.egress := rfl
@[simp] theorem State.raise_linkUp (f : Fld) (ix : List Nat) : (s.raise f ix).linkUp = s.linkUp := rfl
@[simp] theorem State.raise_jobs (f : Fld) (ix : List Nat) : (s.raise f ix).jobs = s.jobs := rfl
@[simp] theorem State.raise_tables (f : Fld) (ix : List Nat) : (s.raise f ix).tables = s.tables := rfl
@[simp] theorem State.raise_kblocks (f : Fld) (ix : List Nat) : (s.raise f ix).kblocks = s.kblocks := rfl
@[simp] theorem State.raise_power (f : Fld) (ix : List Nat) : (s.raise f ix).power = s.power := rfl
@[simp] theorem State.raise_ports (f : Fld) (ix : List Nat) : (s.raise f ix).ports = s.ports := rfl
@[simp] theorem State.raise_portOut (f : Fld) (ix : List Nat) : (s.raise f ix).portOut = s.portOut := rfl
@[simp] theorem State.raise_chans (f : Fld) (ix : List Nat) : (s.raise f ix).chans = s.chans := rfl
@[simp] theorem State.raise_barrier (f : Fld) (ix : List Nat) : (s.raise f ix).barrier = s.barrier := rfl
@[simp] theorem State.raise_lasers (f : Fld) (ix : List Nat) : (s.raise f ix).lasers = s.lasers := rfl
@[simp] theorem State.raise_shutters (f : Fld) (ix : List Nat) : (s.raise f ix).shutters = s.shutters := rfl
@[simp] theorem State.raise_station (f : Fld) (ix : List Nat) : (s.raise f ix).station = s.station := rfl
@[simp] theorem State.raise_mbox (f : Fld) (ix : List Nat) : (s.raise f ix).mbox = s.mbox := rfl
@[simp] theorem State.raise_mboxOut (f : Fld) (ix : List Nat) : (s.raise f ix).mboxOut = s.mboxOut := rfl
@[simp] theorem State.raise_cacheOn (f : Fld) (ix : List Nat) : (s.raise f ix).cacheOn = s.cacheOn := rfl
@[simp] theorem State.raise_media (f : Fld) (ix : List Nat) : (s.raise f ix).media = s.media := rfl
@[simp] theorem State.raise_mediaOut (f : Fld) (ix : List Nat) : (s.raise f ix).mediaOut = s.mediaOut := rfl
@[simp] theorem State.raise_boot (f : Fld) (ix : List Nat) : (s.raise f ix).boot = s.boot := rfl
@[simp] theorem State.raise_stash (f : Fld) (ix : List Nat) : (s.raise f ix).stash = s.stash := rfl
@[simp] theorem State.raise_island (f : Fld) (ix : List Nat) : (s.raise f ix).island = s.island := rfl
@[simp] theorem State.raise_trace (f : Fld) (ix : List Nat) : (s.raise f ix).trace = s.trace := rfl
@[simp] theorem State.raise_msix (f : Fld) (ix : List Nat) : (s.raise f ix).msix = s.msix := rfl
@[simp] theorem State.raise_alerts (f : Fld) (ix : List Nat) : (s.raise f ix).alerts = s.alerts := rfl
@[simp] theorem State.raise_pending (f : Fld) (ix : List Nat) : (s.raise f ix).pending = s.pending := rfl

/-! csetFld. -/

@[simp] theorem State.csetFld_part (f : Fld) (v p : Nat) : (s.csetFld f v p).part = s.part := rfl
@[simp] theorem State.csetFld_hclk (f : Fld) (v p : Nat) : (s.csetFld f v p).hclk = s.hclk := rfl
@[simp] theorem State.csetFld_draws (f : Fld) (v p : Nat) : (s.csetFld f v p).draws = s.draws := rfl
@[simp] theorem State.csetFld_bus (f : Fld) (v p : Nat) : (s.csetFld f v p).bus = s.bus := rfl
@[simp] theorem State.csetFld_mem (f : Fld) (v p : Nat) : (s.csetFld f v p).mem = s.mem := rfl
@[simp] theorem State.csetFld_host (f : Fld) (v p : Nat) : (s.csetFld f v p).host = s.host := rfl
@[simp] theorem State.csetFld_cells (f : Fld) (v p : Nat) : (s.csetFld f v p).cells = s.cells := rfl
@[simp] theorem State.csetFld_queues (f : Fld) (v p : Nat) : (s.csetFld f v p).queues = s.queues := rfl
@[simp] theorem State.csetFld_seqs (f : Fld) (v p : Nat) : (s.csetFld f v p).seqs = s.seqs := rfl
@[simp] theorem State.csetFld_owners (f : Fld) (v p : Nat) : (s.csetFld f v p).owners = s.owners := rfl
@[simp] theorem State.csetFld_tallyPend (f : Fld) (v p : Nat) : (s.csetFld f v p).tallyPend = s.tallyPend := rfl
@[simp] theorem State.csetFld_ftb0 (f : Fld) (v p : Nat) : (s.csetFld f v p).ftb0 = s.ftb0 := rfl
@[simp] theorem State.csetFld_ftb1 (f : Fld) (v p : Nat) : (s.csetFld f v p).ftb1 = s.ftb1 := rfl
@[simp] theorem State.csetFld_tableLoad (f : Fld) (v p : Nat) : (s.csetFld f v p).tableLoad = s.tableLoad := rfl
@[simp] theorem State.csetFld_remaps (f : Fld) (v p : Nat) : (s.csetFld f v p).remaps = s.remaps := rfl
@[simp] theorem State.csetFld_fw (f : Fld) (v p : Nat) : (s.csetFld f v p).fw = s.fw := rfl
@[simp] theorem State.csetFld_ctxs (f : Fld) (v p : Nat) : (s.csetFld f v p).ctxs = s.ctxs := rfl
@[simp] theorem State.csetFld_rr (f : Fld) (v p : Nat) : (s.csetFld f v p).rr = s.rr := rfl
@[simp] theorem State.csetFld_thaw (f : Fld) (v p : Nat) : (s.csetFld f v p).thaw = s.thaw := rfl
@[simp] theorem State.csetFld_shelves (f : Fld) (v p : Nat) : (s.csetFld f v p).shelves = s.shelves := rfl
@[simp] theorem State.csetFld_ingress (f : Fld) (v p : Nat) : (s.csetFld f v p).ingress = s.ingress := rfl
@[simp] theorem State.csetFld_egress (f : Fld) (v p : Nat) : (s.csetFld f v p).egress = s.egress := rfl
@[simp] theorem State.csetFld_linkUp (f : Fld) (v p : Nat) : (s.csetFld f v p).linkUp = s.linkUp := rfl
@[simp] theorem State.csetFld_jobs (f : Fld) (v p : Nat) : (s.csetFld f v p).jobs = s.jobs := rfl
@[simp] theorem State.csetFld_tables (f : Fld) (v p : Nat) : (s.csetFld f v p).tables = s.tables := rfl
@[simp] theorem State.csetFld_kblocks (f : Fld) (v p : Nat) : (s.csetFld f v p).kblocks = s.kblocks := rfl
@[simp] theorem State.csetFld_power (f : Fld) (v p : Nat) : (s.csetFld f v p).power = s.power := rfl
@[simp] theorem State.csetFld_ports (f : Fld) (v p : Nat) : (s.csetFld f v p).ports = s.ports := rfl
@[simp] theorem State.csetFld_portOut (f : Fld) (v p : Nat) : (s.csetFld f v p).portOut = s.portOut := rfl
@[simp] theorem State.csetFld_chans (f : Fld) (v p : Nat) : (s.csetFld f v p).chans = s.chans := rfl
@[simp] theorem State.csetFld_barrier (f : Fld) (v p : Nat) : (s.csetFld f v p).barrier = s.barrier := rfl
@[simp] theorem State.csetFld_lasers (f : Fld) (v p : Nat) : (s.csetFld f v p).lasers = s.lasers := rfl
@[simp] theorem State.csetFld_shutters (f : Fld) (v p : Nat) : (s.csetFld f v p).shutters = s.shutters := rfl
@[simp] theorem State.csetFld_station (f : Fld) (v p : Nat) : (s.csetFld f v p).station = s.station := rfl
@[simp] theorem State.csetFld_mbox (f : Fld) (v p : Nat) : (s.csetFld f v p).mbox = s.mbox := rfl
@[simp] theorem State.csetFld_mboxOut (f : Fld) (v p : Nat) : (s.csetFld f v p).mboxOut = s.mboxOut := rfl
@[simp] theorem State.csetFld_cacheOn (f : Fld) (v p : Nat) : (s.csetFld f v p).cacheOn = s.cacheOn := rfl
@[simp] theorem State.csetFld_media (f : Fld) (v p : Nat) : (s.csetFld f v p).media = s.media := rfl
@[simp] theorem State.csetFld_mediaOut (f : Fld) (v p : Nat) : (s.csetFld f v p).mediaOut = s.mediaOut := rfl
@[simp] theorem State.csetFld_boot (f : Fld) (v p : Nat) : (s.csetFld f v p).boot = s.boot := rfl
@[simp] theorem State.csetFld_stash (f : Fld) (v p : Nat) : (s.csetFld f v p).stash = s.stash := rfl
@[simp] theorem State.csetFld_island (f : Fld) (v p : Nat) : (s.csetFld f v p).island = s.island := rfl
@[simp] theorem State.csetFld_trace (f : Fld) (v p : Nat) : (s.csetFld f v p).trace = s.trace := rfl
@[simp] theorem State.csetFld_msix (f : Fld) (v p : Nat) : (s.csetFld f v p).msix = s.msix := rfl
@[simp] theorem State.csetFld_alerts (f : Fld) (v p : Nat) : (s.csetFld f v p).alerts = s.alerts := rfl
@[simp] theorem State.csetFld_pending (f : Fld) (v p : Nat) : (s.csetFld f v p).pending = s.pending := rfl

/-! craise. -/

@[simp] theorem State.craise_part (f : Fld) (p : Nat) : (s.craise f p).part = s.part := rfl
@[simp] theorem State.craise_hclk (f : Fld) (p : Nat) : (s.craise f p).hclk = s.hclk := rfl
@[simp] theorem State.craise_draws (f : Fld) (p : Nat) : (s.craise f p).draws = s.draws := rfl
@[simp] theorem State.craise_bus (f : Fld) (p : Nat) : (s.craise f p).bus = s.bus := rfl
@[simp] theorem State.craise_mem (f : Fld) (p : Nat) : (s.craise f p).mem = s.mem := rfl
@[simp] theorem State.craise_host (f : Fld) (p : Nat) : (s.craise f p).host = s.host := rfl
@[simp] theorem State.craise_cells (f : Fld) (p : Nat) : (s.craise f p).cells = s.cells := rfl
@[simp] theorem State.craise_queues (f : Fld) (p : Nat) : (s.craise f p).queues = s.queues := rfl
@[simp] theorem State.craise_seqs (f : Fld) (p : Nat) : (s.craise f p).seqs = s.seqs := rfl
@[simp] theorem State.craise_owners (f : Fld) (p : Nat) : (s.craise f p).owners = s.owners := rfl
@[simp] theorem State.craise_tallyPend (f : Fld) (p : Nat) : (s.craise f p).tallyPend = s.tallyPend := rfl
@[simp] theorem State.craise_ftb0 (f : Fld) (p : Nat) : (s.craise f p).ftb0 = s.ftb0 := rfl
@[simp] theorem State.craise_ftb1 (f : Fld) (p : Nat) : (s.craise f p).ftb1 = s.ftb1 := rfl
@[simp] theorem State.craise_tableLoad (f : Fld) (p : Nat) : (s.craise f p).tableLoad = s.tableLoad := rfl
@[simp] theorem State.craise_remaps (f : Fld) (p : Nat) : (s.craise f p).remaps = s.remaps := rfl
@[simp] theorem State.craise_fw (f : Fld) (p : Nat) : (s.craise f p).fw = s.fw := rfl
@[simp] theorem State.craise_ctxs (f : Fld) (p : Nat) : (s.craise f p).ctxs = s.ctxs := rfl
@[simp] theorem State.craise_rr (f : Fld) (p : Nat) : (s.craise f p).rr = s.rr := rfl
@[simp] theorem State.craise_thaw (f : Fld) (p : Nat) : (s.craise f p).thaw = s.thaw := rfl
@[simp] theorem State.craise_shelves (f : Fld) (p : Nat) : (s.craise f p).shelves = s.shelves := rfl
@[simp] theorem State.craise_ingress (f : Fld) (p : Nat) : (s.craise f p).ingress = s.ingress := rfl
@[simp] theorem State.craise_egress (f : Fld) (p : Nat) : (s.craise f p).egress = s.egress := rfl
@[simp] theorem State.craise_linkUp (f : Fld) (p : Nat) : (s.craise f p).linkUp = s.linkUp := rfl
@[simp] theorem State.craise_jobs (f : Fld) (p : Nat) : (s.craise f p).jobs = s.jobs := rfl
@[simp] theorem State.craise_tables (f : Fld) (p : Nat) : (s.craise f p).tables = s.tables := rfl
@[simp] theorem State.craise_kblocks (f : Fld) (p : Nat) : (s.craise f p).kblocks = s.kblocks := rfl
@[simp] theorem State.craise_power (f : Fld) (p : Nat) : (s.craise f p).power = s.power := rfl
@[simp] theorem State.craise_ports (f : Fld) (p : Nat) : (s.craise f p).ports = s.ports := rfl
@[simp] theorem State.craise_portOut (f : Fld) (p : Nat) : (s.craise f p).portOut = s.portOut := rfl
@[simp] theorem State.craise_chans (f : Fld) (p : Nat) : (s.craise f p).chans = s.chans := rfl
@[simp] theorem State.craise_barrier (f : Fld) (p : Nat) : (s.craise f p).barrier = s.barrier := rfl
@[simp] theorem State.craise_lasers (f : Fld) (p : Nat) : (s.craise f p).lasers = s.lasers := rfl
@[simp] theorem State.craise_shutters (f : Fld) (p : Nat) : (s.craise f p).shutters = s.shutters := rfl
@[simp] theorem State.craise_station (f : Fld) (p : Nat) : (s.craise f p).station = s.station := rfl
@[simp] theorem State.craise_mbox (f : Fld) (p : Nat) : (s.craise f p).mbox = s.mbox := rfl
@[simp] theorem State.craise_mboxOut (f : Fld) (p : Nat) : (s.craise f p).mboxOut = s.mboxOut := rfl
@[simp] theorem State.craise_cacheOn (f : Fld) (p : Nat) : (s.craise f p).cacheOn = s.cacheOn := rfl
@[simp] theorem State.craise_media (f : Fld) (p : Nat) : (s.craise f p).media = s.media := rfl
@[simp] theorem State.craise_mediaOut (f : Fld) (p : Nat) : (s.craise f p).mediaOut = s.mediaOut := rfl
@[simp] theorem State.craise_boot (f : Fld) (p : Nat) : (s.craise f p).boot = s.boot := rfl
@[simp] theorem State.craise_stash (f : Fld) (p : Nat) : (s.craise f p).stash = s.stash := rfl
@[simp] theorem State.craise_island (f : Fld) (p : Nat) : (s.craise f p).island = s.island := rfl
@[simp] theorem State.craise_trace (f : Fld) (p : Nat) : (s.craise f p).trace = s.trace := rfl
@[simp] theorem State.craise_msix (f : Fld) (p : Nat) : (s.craise f p).msix = s.msix := rfl
@[simp] theorem State.craise_alerts (f : Fld) (p : Nat) : (s.craise f p).alerts = s.alerts := rfl
@[simp] theorem State.craise_pending (f : Fld) (p : Nat) : (s.craise f p).pending = s.pending := rfl

/-! setCell. -/

@[simp] theorem State.setCell_part (p : Nat) (c : Cell) : (s.setCell p c).part = s.part := rfl
@[simp] theorem State.setCell_hclk (p : Nat) (c : Cell) : (s.setCell p c).hclk = s.hclk := rfl
@[simp] theorem State.setCell_draws (p : Nat) (c : Cell) : (s.setCell p c).draws = s.draws := rfl
@[simp] theorem State.setCell_bus (p : Nat) (c : Cell) : (s.setCell p c).bus = s.bus := rfl
@[simp] theorem State.setCell_regs (p : Nat) (c : Cell) : (s.setCell p c).regs = s.regs := rfl
@[simp] theorem State.setCell_mem (p : Nat) (c : Cell) : (s.setCell p c).mem = s.mem := rfl
@[simp] theorem State.setCell_host (p : Nat) (c : Cell) : (s.setCell p c).host = s.host := rfl
@[simp] theorem State.setCell_queues (p : Nat) (c : Cell) : (s.setCell p c).queues = s.queues := rfl
@[simp] theorem State.setCell_seqs (p : Nat) (c : Cell) : (s.setCell p c).seqs = s.seqs := rfl
@[simp] theorem State.setCell_owners (p : Nat) (c : Cell) : (s.setCell p c).owners = s.owners := rfl
@[simp] theorem State.setCell_tallyPend (p : Nat) (c : Cell) : (s.setCell p c).tallyPend = s.tallyPend := rfl
@[simp] theorem State.setCell_ftb0 (p : Nat) (c : Cell) : (s.setCell p c).ftb0 = s.ftb0 := rfl
@[simp] theorem State.setCell_ftb1 (p : Nat) (c : Cell) : (s.setCell p c).ftb1 = s.ftb1 := rfl
@[simp] theorem State.setCell_tableLoad (p : Nat) (c : Cell) : (s.setCell p c).tableLoad = s.tableLoad := rfl
@[simp] theorem State.setCell_remaps (p : Nat) (c : Cell) : (s.setCell p c).remaps = s.remaps := rfl
@[simp] theorem State.setCell_fw (p : Nat) (c : Cell) : (s.setCell p c).fw = s.fw := rfl
@[simp] theorem State.setCell_ctxs (p : Nat) (c : Cell) : (s.setCell p c).ctxs = s.ctxs := rfl
@[simp] theorem State.setCell_rr (p : Nat) (c : Cell) : (s.setCell p c).rr = s.rr := rfl
@[simp] theorem State.setCell_thaw (p : Nat) (c : Cell) : (s.setCell p c).thaw = s.thaw := rfl
@[simp] theorem State.setCell_shelves (p : Nat) (c : Cell) : (s.setCell p c).shelves = s.shelves := rfl
@[simp] theorem State.setCell_ingress (p : Nat) (c : Cell) : (s.setCell p c).ingress = s.ingress := rfl
@[simp] theorem State.setCell_egress (p : Nat) (c : Cell) : (s.setCell p c).egress = s.egress := rfl
@[simp] theorem State.setCell_linkUp (p : Nat) (c : Cell) : (s.setCell p c).linkUp = s.linkUp := rfl
@[simp] theorem State.setCell_jobs (p : Nat) (c : Cell) : (s.setCell p c).jobs = s.jobs := rfl
@[simp] theorem State.setCell_tables (p : Nat) (c : Cell) : (s.setCell p c).tables = s.tables := rfl
@[simp] theorem State.setCell_kblocks (p : Nat) (c : Cell) : (s.setCell p c).kblocks = s.kblocks := rfl
@[simp] theorem State.setCell_power (p : Nat) (c : Cell) : (s.setCell p c).power = s.power := rfl
@[simp] theorem State.setCell_ports (p : Nat) (c : Cell) : (s.setCell p c).ports = s.ports := rfl
@[simp] theorem State.setCell_portOut (p : Nat) (c : Cell) : (s.setCell p c).portOut = s.portOut := rfl
@[simp] theorem State.setCell_chans (p : Nat) (c : Cell) : (s.setCell p c).chans = s.chans := rfl
@[simp] theorem State.setCell_barrier (p : Nat) (c : Cell) : (s.setCell p c).barrier = s.barrier := rfl
@[simp] theorem State.setCell_lasers (p : Nat) (c : Cell) : (s.setCell p c).lasers = s.lasers := rfl
@[simp] theorem State.setCell_shutters (p : Nat) (c : Cell) : (s.setCell p c).shutters = s.shutters := rfl
@[simp] theorem State.setCell_station (p : Nat) (c : Cell) : (s.setCell p c).station = s.station := rfl
@[simp] theorem State.setCell_mbox (p : Nat) (c : Cell) : (s.setCell p c).mbox = s.mbox := rfl
@[simp] theorem State.setCell_mboxOut (p : Nat) (c : Cell) : (s.setCell p c).mboxOut = s.mboxOut := rfl
@[simp] theorem State.setCell_cacheOn (p : Nat) (c : Cell) : (s.setCell p c).cacheOn = s.cacheOn := rfl
@[simp] theorem State.setCell_media (p : Nat) (c : Cell) : (s.setCell p c).media = s.media := rfl
@[simp] theorem State.setCell_mediaOut (p : Nat) (c : Cell) : (s.setCell p c).mediaOut = s.mediaOut := rfl
@[simp] theorem State.setCell_boot (p : Nat) (c : Cell) : (s.setCell p c).boot = s.boot := rfl
@[simp] theorem State.setCell_stash (p : Nat) (c : Cell) : (s.setCell p c).stash = s.stash := rfl
@[simp] theorem State.setCell_island (p : Nat) (c : Cell) : (s.setCell p c).island = s.island := rfl
@[simp] theorem State.setCell_trace (p : Nat) (c : Cell) : (s.setCell p c).trace = s.trace := rfl
@[simp] theorem State.setCell_msix (p : Nat) (c : Cell) : (s.setCell p c).msix = s.msix := rfl
@[simp] theorem State.setCell_alerts (p : Nat) (c : Cell) : (s.setCell p c).alerts = s.alerts := rfl
@[simp] theorem State.setCell_pending (p : Nat) (c : Cell) : (s.setCell p c).pending = s.pending := rfl

/-! onCell. -/

@[simp] theorem State.onCell_part (p : Nat) (f : Cell → Cell) : (s.onCell p f).part = s.part := rfl
@[simp] theorem State.onCell_hclk (p : Nat) (f : Cell → Cell) : (s.onCell p f).hclk = s.hclk := rfl
@[simp] theorem State.onCell_draws (p : Nat) (f : Cell → Cell) : (s.onCell p f).draws = s.draws := rfl
@[simp] theorem State.onCell_bus (p : Nat) (f : Cell → Cell) : (s.onCell p f).bus = s.bus := rfl
@[simp] theorem State.onCell_regs (p : Nat) (f : Cell → Cell) : (s.onCell p f).regs = s.regs := rfl
@[simp] theorem State.onCell_mem (p : Nat) (f : Cell → Cell) : (s.onCell p f).mem = s.mem := rfl
@[simp] theorem State.onCell_host (p : Nat) (f : Cell → Cell) : (s.onCell p f).host = s.host := rfl
@[simp] theorem State.onCell_queues (p : Nat) (f : Cell → Cell) : (s.onCell p f).queues = s.queues := rfl
@[simp] theorem State.onCell_seqs (p : Nat) (f : Cell → Cell) : (s.onCell p f).seqs = s.seqs := rfl
@[simp] theorem State.onCell_owners (p : Nat) (f : Cell → Cell) : (s.onCell p f).owners = s.owners := rfl
@[simp] theorem State.onCell_tallyPend (p : Nat) (f : Cell → Cell) : (s.onCell p f).tallyPend = s.tallyPend := rfl
@[simp] theorem State.onCell_ftb0 (p : Nat) (f : Cell → Cell) : (s.onCell p f).ftb0 = s.ftb0 := rfl
@[simp] theorem State.onCell_ftb1 (p : Nat) (f : Cell → Cell) : (s.onCell p f).ftb1 = s.ftb1 := rfl
@[simp] theorem State.onCell_tableLoad (p : Nat) (f : Cell → Cell) : (s.onCell p f).tableLoad = s.tableLoad := rfl
@[simp] theorem State.onCell_remaps (p : Nat) (f : Cell → Cell) : (s.onCell p f).remaps = s.remaps := rfl
@[simp] theorem State.onCell_fw (p : Nat) (f : Cell → Cell) : (s.onCell p f).fw = s.fw := rfl
@[simp] theorem State.onCell_ctxs (p : Nat) (f : Cell → Cell) : (s.onCell p f).ctxs = s.ctxs := rfl
@[simp] theorem State.onCell_rr (p : Nat) (f : Cell → Cell) : (s.onCell p f).rr = s.rr := rfl
@[simp] theorem State.onCell_thaw (p : Nat) (f : Cell → Cell) : (s.onCell p f).thaw = s.thaw := rfl
@[simp] theorem State.onCell_shelves (p : Nat) (f : Cell → Cell) : (s.onCell p f).shelves = s.shelves := rfl
@[simp] theorem State.onCell_ingress (p : Nat) (f : Cell → Cell) : (s.onCell p f).ingress = s.ingress := rfl
@[simp] theorem State.onCell_egress (p : Nat) (f : Cell → Cell) : (s.onCell p f).egress = s.egress := rfl
@[simp] theorem State.onCell_linkUp (p : Nat) (f : Cell → Cell) : (s.onCell p f).linkUp = s.linkUp := rfl
@[simp] theorem State.onCell_jobs (p : Nat) (f : Cell → Cell) : (s.onCell p f).jobs = s.jobs := rfl
@[simp] theorem State.onCell_tables (p : Nat) (f : Cell → Cell) : (s.onCell p f).tables = s.tables := rfl
@[simp] theorem State.onCell_kblocks (p : Nat) (f : Cell → Cell) : (s.onCell p f).kblocks = s.kblocks := rfl
@[simp] theorem State.onCell_power (p : Nat) (f : Cell → Cell) : (s.onCell p f).power = s.power := rfl
@[simp] theorem State.onCell_ports (p : Nat) (f : Cell → Cell) : (s.onCell p f).ports = s.ports := rfl
@[simp] theorem State.onCell_portOut (p : Nat) (f : Cell → Cell) : (s.onCell p f).portOut = s.portOut := rfl
@[simp] theorem State.onCell_chans (p : Nat) (f : Cell → Cell) : (s.onCell p f).chans = s.chans := rfl
@[simp] theorem State.onCell_barrier (p : Nat) (f : Cell → Cell) : (s.onCell p f).barrier = s.barrier := rfl
@[simp] theorem State.onCell_lasers (p : Nat) (f : Cell → Cell) : (s.onCell p f).lasers = s.lasers := rfl
@[simp] theorem State.onCell_shutters (p : Nat) (f : Cell → Cell) : (s.onCell p f).shutters = s.shutters := rfl
@[simp] theorem State.onCell_station (p : Nat) (f : Cell → Cell) : (s.onCell p f).station = s.station := rfl
@[simp] theorem State.onCell_mbox (p : Nat) (f : Cell → Cell) : (s.onCell p f).mbox = s.mbox := rfl
@[simp] theorem State.onCell_mboxOut (p : Nat) (f : Cell → Cell) : (s.onCell p f).mboxOut = s.mboxOut := rfl
@[simp] theorem State.onCell_cacheOn (p : Nat) (f : Cell → Cell) : (s.onCell p f).cacheOn = s.cacheOn := rfl
@[simp] theorem State.onCell_media (p : Nat) (f : Cell → Cell) : (s.onCell p f).media = s.media := rfl
@[simp] theorem State.onCell_mediaOut (p : Nat) (f : Cell → Cell) : (s.onCell p f).mediaOut = s.mediaOut := rfl
@[simp] theorem State.onCell_boot (p : Nat) (f : Cell → Cell) : (s.onCell p f).boot = s.boot := rfl
@[simp] theorem State.onCell_stash (p : Nat) (f : Cell → Cell) : (s.onCell p f).stash = s.stash := rfl
@[simp] theorem State.onCell_island (p : Nat) (f : Cell → Cell) : (s.onCell p f).island = s.island := rfl
@[simp] theorem State.onCell_trace (p : Nat) (f : Cell → Cell) : (s.onCell p f).trace = s.trace := rfl
@[simp] theorem State.onCell_msix (p : Nat) (f : Cell → Cell) : (s.onCell p f).msix = s.msix := rfl
@[simp] theorem State.onCell_alerts (p : Nat) (f : Cell → Cell) : (s.onCell p f).alerts = s.alerts := rfl
@[simp] theorem State.onCell_pending (p : Nat) (f : Cell → Cell) : (s.onCell p f).pending = s.pending := rfl

/-! cwrite. -/

@[simp] theorem State.cwrite_part (p a : Nat) (bs : List Byte) : (s.cwrite p a bs).part = s.part := rfl
@[simp] theorem State.cwrite_hclk (p a : Nat) (bs : List Byte) : (s.cwrite p a bs).hclk = s.hclk := rfl
@[simp] theorem State.cwrite_draws (p a : Nat) (bs : List Byte) : (s.cwrite p a bs).draws = s.draws := rfl
@[simp] theorem State.cwrite_bus (p a : Nat) (bs : List Byte) : (s.cwrite p a bs).bus = s.bus := rfl
@[simp] theorem State.cwrite_regs (p a : Nat) (bs : List Byte) : (s.cwrite p a bs).regs = s.regs := rfl
@[simp] theorem State.cwrite_mem (p a : Nat) (bs : List Byte) : (s.cwrite p a bs).mem = s.mem := rfl
@[simp] theorem State.cwrite_host (p a : Nat) (bs : List Byte) : (s.cwrite p a bs).host = s.host := rfl
@[simp] theorem State.cwrite_queues (p a : Nat) (bs : List Byte) : (s.cwrite p a bs).queues = s.queues := rfl
@[simp] theorem State.cwrite_seqs (p a : Nat) (bs : List Byte) : (s.cwrite p a bs).seqs = s.seqs := rfl
@[simp] theorem State.cwrite_owners (p a : Nat) (bs : List Byte) : (s.cwrite p a bs).owners = s.owners := rfl
@[simp] theorem State.cwrite_tallyPend (p a : Nat) (bs : List Byte) : (s.cwrite p a bs).tallyPend = s.tallyPend := rfl
@[simp] theorem State.cwrite_ftb0 (p a : Nat) (bs : List Byte) : (s.cwrite p a bs).ftb0 = s.ftb0 := rfl
@[simp] theorem State.cwrite_ftb1 (p a : Nat) (bs : List Byte) : (s.cwrite p a bs).ftb1 = s.ftb1 := rfl
@[simp] theorem State.cwrite_tableLoad (p a : Nat) (bs : List Byte) : (s.cwrite p a bs).tableLoad = s.tableLoad := rfl
@[simp] theorem State.cwrite_remaps (p a : Nat) (bs : List Byte) : (s.cwrite p a bs).remaps = s.remaps := rfl
@[simp] theorem State.cwrite_fw (p a : Nat) (bs : List Byte) : (s.cwrite p a bs).fw = s.fw := rfl
@[simp] theorem State.cwrite_ctxs (p a : Nat) (bs : List Byte) : (s.cwrite p a bs).ctxs = s.ctxs := rfl
@[simp] theorem State.cwrite_rr (p a : Nat) (bs : List Byte) : (s.cwrite p a bs).rr = s.rr := rfl
@[simp] theorem State.cwrite_thaw (p a : Nat) (bs : List Byte) : (s.cwrite p a bs).thaw = s.thaw := rfl
@[simp] theorem State.cwrite_shelves (p a : Nat) (bs : List Byte) : (s.cwrite p a bs).shelves = s.shelves := rfl
@[simp] theorem State.cwrite_ingress (p a : Nat) (bs : List Byte) : (s.cwrite p a bs).ingress = s.ingress := rfl
@[simp] theorem State.cwrite_egress (p a : Nat) (bs : List Byte) : (s.cwrite p a bs).egress = s.egress := rfl
@[simp] theorem State.cwrite_linkUp (p a : Nat) (bs : List Byte) : (s.cwrite p a bs).linkUp = s.linkUp := rfl
@[simp] theorem State.cwrite_jobs (p a : Nat) (bs : List Byte) : (s.cwrite p a bs).jobs = s.jobs := rfl
@[simp] theorem State.cwrite_tables (p a : Nat) (bs : List Byte) : (s.cwrite p a bs).tables = s.tables := rfl
@[simp] theorem State.cwrite_kblocks (p a : Nat) (bs : List Byte) : (s.cwrite p a bs).kblocks = s.kblocks := rfl
@[simp] theorem State.cwrite_power (p a : Nat) (bs : List Byte) : (s.cwrite p a bs).power = s.power := rfl
@[simp] theorem State.cwrite_ports (p a : Nat) (bs : List Byte) : (s.cwrite p a bs).ports = s.ports := rfl
@[simp] theorem State.cwrite_portOut (p a : Nat) (bs : List Byte) : (s.cwrite p a bs).portOut = s.portOut := rfl
@[simp] theorem State.cwrite_chans (p a : Nat) (bs : List Byte) : (s.cwrite p a bs).chans = s.chans := rfl
@[simp] theorem State.cwrite_barrier (p a : Nat) (bs : List Byte) : (s.cwrite p a bs).barrier = s.barrier := rfl
@[simp] theorem State.cwrite_lasers (p a : Nat) (bs : List Byte) : (s.cwrite p a bs).lasers = s.lasers := rfl
@[simp] theorem State.cwrite_shutters (p a : Nat) (bs : List Byte) : (s.cwrite p a bs).shutters = s.shutters := rfl
@[simp] theorem State.cwrite_station (p a : Nat) (bs : List Byte) : (s.cwrite p a bs).station = s.station := rfl
@[simp] theorem State.cwrite_mbox (p a : Nat) (bs : List Byte) : (s.cwrite p a bs).mbox = s.mbox := rfl
@[simp] theorem State.cwrite_mboxOut (p a : Nat) (bs : List Byte) : (s.cwrite p a bs).mboxOut = s.mboxOut := rfl
@[simp] theorem State.cwrite_cacheOn (p a : Nat) (bs : List Byte) : (s.cwrite p a bs).cacheOn = s.cacheOn := rfl
@[simp] theorem State.cwrite_media (p a : Nat) (bs : List Byte) : (s.cwrite p a bs).media = s.media := rfl
@[simp] theorem State.cwrite_mediaOut (p a : Nat) (bs : List Byte) : (s.cwrite p a bs).mediaOut = s.mediaOut := rfl
@[simp] theorem State.cwrite_boot (p a : Nat) (bs : List Byte) : (s.cwrite p a bs).boot = s.boot := rfl
@[simp] theorem State.cwrite_stash (p a : Nat) (bs : List Byte) : (s.cwrite p a bs).stash = s.stash := rfl
@[simp] theorem State.cwrite_island (p a : Nat) (bs : List Byte) : (s.cwrite p a bs).island = s.island := rfl
@[simp] theorem State.cwrite_trace (p a : Nat) (bs : List Byte) : (s.cwrite p a bs).trace = s.trace := rfl
@[simp] theorem State.cwrite_msix (p a : Nat) (bs : List Byte) : (s.cwrite p a bs).msix = s.msix := rfl
@[simp] theorem State.cwrite_alerts (p a : Nat) (bs : List Byte) : (s.cwrite p a bs).alerts = s.alerts := rfl
@[simp] theorem State.cwrite_pending (p a : Nat) (bs : List Byte) : (s.cwrite p a bs).pending = s.pending := rfl

/-! setQueue. -/

@[simp] theorem State.setQueue_part (q : Nat) (v : QueueSt) : (s.setQueue q v).part = s.part := rfl
@[simp] theorem State.setQueue_hclk (q : Nat) (v : QueueSt) : (s.setQueue q v).hclk = s.hclk := rfl
@[simp] theorem State.setQueue_draws (q : Nat) (v : QueueSt) : (s.setQueue q v).draws = s.draws := rfl
@[simp] theorem State.setQueue_bus (q : Nat) (v : QueueSt) : (s.setQueue q v).bus = s.bus := rfl
@[simp] theorem State.setQueue_regs (q : Nat) (v : QueueSt) : (s.setQueue q v).regs = s.regs := rfl
@[simp] theorem State.setQueue_mem (q : Nat) (v : QueueSt) : (s.setQueue q v).mem = s.mem := rfl
@[simp] theorem State.setQueue_host (q : Nat) (v : QueueSt) : (s.setQueue q v).host = s.host := rfl
@[simp] theorem State.setQueue_cells (q : Nat) (v : QueueSt) : (s.setQueue q v).cells = s.cells := rfl
@[simp] theorem State.setQueue_seqs (q : Nat) (v : QueueSt) : (s.setQueue q v).seqs = s.seqs := rfl
@[simp] theorem State.setQueue_owners (q : Nat) (v : QueueSt) : (s.setQueue q v).owners = s.owners := rfl
@[simp] theorem State.setQueue_tallyPend (q : Nat) (v : QueueSt) : (s.setQueue q v).tallyPend = s.tallyPend := rfl
@[simp] theorem State.setQueue_ftb0 (q : Nat) (v : QueueSt) : (s.setQueue q v).ftb0 = s.ftb0 := rfl
@[simp] theorem State.setQueue_ftb1 (q : Nat) (v : QueueSt) : (s.setQueue q v).ftb1 = s.ftb1 := rfl
@[simp] theorem State.setQueue_tableLoad (q : Nat) (v : QueueSt) : (s.setQueue q v).tableLoad = s.tableLoad := rfl
@[simp] theorem State.setQueue_remaps (q : Nat) (v : QueueSt) : (s.setQueue q v).remaps = s.remaps := rfl
@[simp] theorem State.setQueue_fw (q : Nat) (v : QueueSt) : (s.setQueue q v).fw = s.fw := rfl
@[simp] theorem State.setQueue_ctxs (q : Nat) (v : QueueSt) : (s.setQueue q v).ctxs = s.ctxs := rfl
@[simp] theorem State.setQueue_rr (q : Nat) (v : QueueSt) : (s.setQueue q v).rr = s.rr := rfl
@[simp] theorem State.setQueue_thaw (q : Nat) (v : QueueSt) : (s.setQueue q v).thaw = s.thaw := rfl
@[simp] theorem State.setQueue_shelves (q : Nat) (v : QueueSt) : (s.setQueue q v).shelves = s.shelves := rfl
@[simp] theorem State.setQueue_ingress (q : Nat) (v : QueueSt) : (s.setQueue q v).ingress = s.ingress := rfl
@[simp] theorem State.setQueue_egress (q : Nat) (v : QueueSt) : (s.setQueue q v).egress = s.egress := rfl
@[simp] theorem State.setQueue_linkUp (q : Nat) (v : QueueSt) : (s.setQueue q v).linkUp = s.linkUp := rfl
@[simp] theorem State.setQueue_jobs (q : Nat) (v : QueueSt) : (s.setQueue q v).jobs = s.jobs := rfl
@[simp] theorem State.setQueue_tables (q : Nat) (v : QueueSt) : (s.setQueue q v).tables = s.tables := rfl
@[simp] theorem State.setQueue_kblocks (q : Nat) (v : QueueSt) : (s.setQueue q v).kblocks = s.kblocks := rfl
@[simp] theorem State.setQueue_power (q : Nat) (v : QueueSt) : (s.setQueue q v).power = s.power := rfl
@[simp] theorem State.setQueue_ports (q : Nat) (v : QueueSt) : (s.setQueue q v).ports = s.ports := rfl
@[simp] theorem State.setQueue_portOut (q : Nat) (v : QueueSt) : (s.setQueue q v).portOut = s.portOut := rfl
@[simp] theorem State.setQueue_chans (q : Nat) (v : QueueSt) : (s.setQueue q v).chans = s.chans := rfl
@[simp] theorem State.setQueue_barrier (q : Nat) (v : QueueSt) : (s.setQueue q v).barrier = s.barrier := rfl
@[simp] theorem State.setQueue_lasers (q : Nat) (v : QueueSt) : (s.setQueue q v).lasers = s.lasers := rfl
@[simp] theorem State.setQueue_shutters (q : Nat) (v : QueueSt) : (s.setQueue q v).shutters = s.shutters := rfl
@[simp] theorem State.setQueue_station (q : Nat) (v : QueueSt) : (s.setQueue q v).station = s.station := rfl
@[simp] theorem State.setQueue_mbox (q : Nat) (v : QueueSt) : (s.setQueue q v).mbox = s.mbox := rfl
@[simp] theorem State.setQueue_mboxOut (q : Nat) (v : QueueSt) : (s.setQueue q v).mboxOut = s.mboxOut := rfl
@[simp] theorem State.setQueue_cacheOn (q : Nat) (v : QueueSt) : (s.setQueue q v).cacheOn = s.cacheOn := rfl
@[simp] theorem State.setQueue_media (q : Nat) (v : QueueSt) : (s.setQueue q v).media = s.media := rfl
@[simp] theorem State.setQueue_mediaOut (q : Nat) (v : QueueSt) : (s.setQueue q v).mediaOut = s.mediaOut := rfl
@[simp] theorem State.setQueue_boot (q : Nat) (v : QueueSt) : (s.setQueue q v).boot = s.boot := rfl
@[simp] theorem State.setQueue_stash (q : Nat) (v : QueueSt) : (s.setQueue q v).stash = s.stash := rfl
@[simp] theorem State.setQueue_island (q : Nat) (v : QueueSt) : (s.setQueue q v).island = s.island := rfl
@[simp] theorem State.setQueue_trace (q : Nat) (v : QueueSt) : (s.setQueue q v).trace = s.trace := rfl
@[simp] theorem State.setQueue_msix (q : Nat) (v : QueueSt) : (s.setQueue q v).msix = s.msix := rfl
@[simp] theorem State.setQueue_alerts (q : Nat) (v : QueueSt) : (s.setQueue q v).alerts = s.alerts := rfl
@[simp] theorem State.setQueue_pending (q : Nat) (v : QueueSt) : (s.setQueue q v).pending = s.pending := rfl

/-! onQueue. -/

@[simp] theorem State.onQueue_part (q : Nat) (f : QueueSt → QueueSt) : (s.onQueue q f).part = s.part := rfl
@[simp] theorem State.onQueue_hclk (q : Nat) (f : QueueSt → QueueSt) : (s.onQueue q f).hclk = s.hclk := rfl
@[simp] theorem State.onQueue_draws (q : Nat) (f : QueueSt → QueueSt) : (s.onQueue q f).draws = s.draws := rfl
@[simp] theorem State.onQueue_bus (q : Nat) (f : QueueSt → QueueSt) : (s.onQueue q f).bus = s.bus := rfl
@[simp] theorem State.onQueue_regs (q : Nat) (f : QueueSt → QueueSt) : (s.onQueue q f).regs = s.regs := rfl
@[simp] theorem State.onQueue_mem (q : Nat) (f : QueueSt → QueueSt) : (s.onQueue q f).mem = s.mem := rfl
@[simp] theorem State.onQueue_host (q : Nat) (f : QueueSt → QueueSt) : (s.onQueue q f).host = s.host := rfl
@[simp] theorem State.onQueue_cells (q : Nat) (f : QueueSt → QueueSt) : (s.onQueue q f).cells = s.cells := rfl
@[simp] theorem State.onQueue_seqs (q : Nat) (f : QueueSt → QueueSt) : (s.onQueue q f).seqs = s.seqs := rfl
@[simp] theorem State.onQueue_owners (q : Nat) (f : QueueSt → QueueSt) : (s.onQueue q f).owners = s.owners := rfl
@[simp] theorem State.onQueue_tallyPend (q : Nat) (f : QueueSt → QueueSt) : (s.onQueue q f).tallyPend = s.tallyPend := rfl
@[simp] theorem State.onQueue_ftb0 (q : Nat) (f : QueueSt → QueueSt) : (s.onQueue q f).ftb0 = s.ftb0 := rfl
@[simp] theorem State.onQueue_ftb1 (q : Nat) (f : QueueSt → QueueSt) : (s.onQueue q f).ftb1 = s.ftb1 := rfl
@[simp] theorem State.onQueue_tableLoad (q : Nat) (f : QueueSt → QueueSt) : (s.onQueue q f).tableLoad = s.tableLoad := rfl
@[simp] theorem State.onQueue_remaps (q : Nat) (f : QueueSt → QueueSt) : (s.onQueue q f).remaps = s.remaps := rfl
@[simp] theorem State.onQueue_fw (q : Nat) (f : QueueSt → QueueSt) : (s.onQueue q f).fw = s.fw := rfl
@[simp] theorem State.onQueue_ctxs (q : Nat) (f : QueueSt → QueueSt) : (s.onQueue q f).ctxs = s.ctxs := rfl
@[simp] theorem State.onQueue_rr (q : Nat) (f : QueueSt → QueueSt) : (s.onQueue q f).rr = s.rr := rfl
@[simp] theorem State.onQueue_thaw (q : Nat) (f : QueueSt → QueueSt) : (s.onQueue q f).thaw = s.thaw := rfl
@[simp] theorem State.onQueue_shelves (q : Nat) (f : QueueSt → QueueSt) : (s.onQueue q f).shelves = s.shelves := rfl
@[simp] theorem State.onQueue_ingress (q : Nat) (f : QueueSt → QueueSt) : (s.onQueue q f).ingress = s.ingress := rfl
@[simp] theorem State.onQueue_egress (q : Nat) (f : QueueSt → QueueSt) : (s.onQueue q f).egress = s.egress := rfl
@[simp] theorem State.onQueue_linkUp (q : Nat) (f : QueueSt → QueueSt) : (s.onQueue q f).linkUp = s.linkUp := rfl
@[simp] theorem State.onQueue_jobs (q : Nat) (f : QueueSt → QueueSt) : (s.onQueue q f).jobs = s.jobs := rfl
@[simp] theorem State.onQueue_tables (q : Nat) (f : QueueSt → QueueSt) : (s.onQueue q f).tables = s.tables := rfl
@[simp] theorem State.onQueue_kblocks (q : Nat) (f : QueueSt → QueueSt) : (s.onQueue q f).kblocks = s.kblocks := rfl
@[simp] theorem State.onQueue_power (q : Nat) (f : QueueSt → QueueSt) : (s.onQueue q f).power = s.power := rfl
@[simp] theorem State.onQueue_ports (q : Nat) (f : QueueSt → QueueSt) : (s.onQueue q f).ports = s.ports := rfl
@[simp] theorem State.onQueue_portOut (q : Nat) (f : QueueSt → QueueSt) : (s.onQueue q f).portOut = s.portOut := rfl
@[simp] theorem State.onQueue_chans (q : Nat) (f : QueueSt → QueueSt) : (s.onQueue q f).chans = s.chans := rfl
@[simp] theorem State.onQueue_barrier (q : Nat) (f : QueueSt → QueueSt) : (s.onQueue q f).barrier = s.barrier := rfl
@[simp] theorem State.onQueue_lasers (q : Nat) (f : QueueSt → QueueSt) : (s.onQueue q f).lasers = s.lasers := rfl
@[simp] theorem State.onQueue_shutters (q : Nat) (f : QueueSt → QueueSt) : (s.onQueue q f).shutters = s.shutters := rfl
@[simp] theorem State.onQueue_station (q : Nat) (f : QueueSt → QueueSt) : (s.onQueue q f).station = s.station := rfl
@[simp] theorem State.onQueue_mbox (q : Nat) (f : QueueSt → QueueSt) : (s.onQueue q f).mbox = s.mbox := rfl
@[simp] theorem State.onQueue_mboxOut (q : Nat) (f : QueueSt → QueueSt) : (s.onQueue q f).mboxOut = s.mboxOut := rfl
@[simp] theorem State.onQueue_cacheOn (q : Nat) (f : QueueSt → QueueSt) : (s.onQueue q f).cacheOn = s.cacheOn := rfl
@[simp] theorem State.onQueue_media (q : Nat) (f : QueueSt → QueueSt) : (s.onQueue q f).media = s.media := rfl
@[simp] theorem State.onQueue_mediaOut (q : Nat) (f : QueueSt → QueueSt) : (s.onQueue q f).mediaOut = s.mediaOut := rfl
@[simp] theorem State.onQueue_boot (q : Nat) (f : QueueSt → QueueSt) : (s.onQueue q f).boot = s.boot := rfl
@[simp] theorem State.onQueue_stash (q : Nat) (f : QueueSt → QueueSt) : (s.onQueue q f).stash = s.stash := rfl
@[simp] theorem State.onQueue_island (q : Nat) (f : QueueSt → QueueSt) : (s.onQueue q f).island = s.island := rfl
@[simp] theorem State.onQueue_trace (q : Nat) (f : QueueSt → QueueSt) : (s.onQueue q f).trace = s.trace := rfl
@[simp] theorem State.onQueue_msix (q : Nat) (f : QueueSt → QueueSt) : (s.onQueue q f).msix = s.msix := rfl
@[simp] theorem State.onQueue_alerts (q : Nat) (f : QueueSt → QueueSt) : (s.onQueue q f).alerts = s.alerts := rfl
@[simp] theorem State.onQueue_pending (q : Nat) (f : QueueSt → QueueSt) : (s.onQueue q f).pending = s.pending := rfl

/-! setSeq. -/

@[simp] theorem State.setSeq_part (n : Nat) (v : SeqSt) : (s.setSeq n v).part = s.part := rfl
@[simp] theorem State.setSeq_hclk (n : Nat) (v : SeqSt) : (s.setSeq n v).hclk = s.hclk := rfl
@[simp] theorem State.setSeq_draws (n : Nat) (v : SeqSt) : (s.setSeq n v).draws = s.draws := rfl
@[simp] theorem State.setSeq_bus (n : Nat) (v : SeqSt) : (s.setSeq n v).bus = s.bus := rfl
@[simp] theorem State.setSeq_regs (n : Nat) (v : SeqSt) : (s.setSeq n v).regs = s.regs := rfl
@[simp] theorem State.setSeq_mem (n : Nat) (v : SeqSt) : (s.setSeq n v).mem = s.mem := rfl
@[simp] theorem State.setSeq_host (n : Nat) (v : SeqSt) : (s.setSeq n v).host = s.host := rfl
@[simp] theorem State.setSeq_cells (n : Nat) (v : SeqSt) : (s.setSeq n v).cells = s.cells := rfl
@[simp] theorem State.setSeq_queues (n : Nat) (v : SeqSt) : (s.setSeq n v).queues = s.queues := rfl
@[simp] theorem State.setSeq_owners (n : Nat) (v : SeqSt) : (s.setSeq n v).owners = s.owners := rfl
@[simp] theorem State.setSeq_tallyPend (n : Nat) (v : SeqSt) : (s.setSeq n v).tallyPend = s.tallyPend := rfl
@[simp] theorem State.setSeq_ftb0 (n : Nat) (v : SeqSt) : (s.setSeq n v).ftb0 = s.ftb0 := rfl
@[simp] theorem State.setSeq_ftb1 (n : Nat) (v : SeqSt) : (s.setSeq n v).ftb1 = s.ftb1 := rfl
@[simp] theorem State.setSeq_tableLoad (n : Nat) (v : SeqSt) : (s.setSeq n v).tableLoad = s.tableLoad := rfl
@[simp] theorem State.setSeq_remaps (n : Nat) (v : SeqSt) : (s.setSeq n v).remaps = s.remaps := rfl
@[simp] theorem State.setSeq_fw (n : Nat) (v : SeqSt) : (s.setSeq n v).fw = s.fw := rfl
@[simp] theorem State.setSeq_ctxs (n : Nat) (v : SeqSt) : (s.setSeq n v).ctxs = s.ctxs := rfl
@[simp] theorem State.setSeq_rr (n : Nat) (v : SeqSt) : (s.setSeq n v).rr = s.rr := rfl
@[simp] theorem State.setSeq_thaw (n : Nat) (v : SeqSt) : (s.setSeq n v).thaw = s.thaw := rfl
@[simp] theorem State.setSeq_shelves (n : Nat) (v : SeqSt) : (s.setSeq n v).shelves = s.shelves := rfl
@[simp] theorem State.setSeq_ingress (n : Nat) (v : SeqSt) : (s.setSeq n v).ingress = s.ingress := rfl
@[simp] theorem State.setSeq_egress (n : Nat) (v : SeqSt) : (s.setSeq n v).egress = s.egress := rfl
@[simp] theorem State.setSeq_linkUp (n : Nat) (v : SeqSt) : (s.setSeq n v).linkUp = s.linkUp := rfl
@[simp] theorem State.setSeq_jobs (n : Nat) (v : SeqSt) : (s.setSeq n v).jobs = s.jobs := rfl
@[simp] theorem State.setSeq_tables (n : Nat) (v : SeqSt) : (s.setSeq n v).tables = s.tables := rfl
@[simp] theorem State.setSeq_kblocks (n : Nat) (v : SeqSt) : (s.setSeq n v).kblocks = s.kblocks := rfl
@[simp] theorem State.setSeq_power (n : Nat) (v : SeqSt) : (s.setSeq n v).power = s.power := rfl
@[simp] theorem State.setSeq_ports (n : Nat) (v : SeqSt) : (s.setSeq n v).ports = s.ports := rfl
@[simp] theorem State.setSeq_portOut (n : Nat) (v : SeqSt) : (s.setSeq n v).portOut = s.portOut := rfl
@[simp] theorem State.setSeq_chans (n : Nat) (v : SeqSt) : (s.setSeq n v).chans = s.chans := rfl
@[simp] theorem State.setSeq_barrier (n : Nat) (v : SeqSt) : (s.setSeq n v).barrier = s.barrier := rfl
@[simp] theorem State.setSeq_lasers (n : Nat) (v : SeqSt) : (s.setSeq n v).lasers = s.lasers := rfl
@[simp] theorem State.setSeq_shutters (n : Nat) (v : SeqSt) : (s.setSeq n v).shutters = s.shutters := rfl
@[simp] theorem State.setSeq_station (n : Nat) (v : SeqSt) : (s.setSeq n v).station = s.station := rfl
@[simp] theorem State.setSeq_mbox (n : Nat) (v : SeqSt) : (s.setSeq n v).mbox = s.mbox := rfl
@[simp] theorem State.setSeq_mboxOut (n : Nat) (v : SeqSt) : (s.setSeq n v).mboxOut = s.mboxOut := rfl
@[simp] theorem State.setSeq_cacheOn (n : Nat) (v : SeqSt) : (s.setSeq n v).cacheOn = s.cacheOn := rfl
@[simp] theorem State.setSeq_media (n : Nat) (v : SeqSt) : (s.setSeq n v).media = s.media := rfl
@[simp] theorem State.setSeq_mediaOut (n : Nat) (v : SeqSt) : (s.setSeq n v).mediaOut = s.mediaOut := rfl
@[simp] theorem State.setSeq_boot (n : Nat) (v : SeqSt) : (s.setSeq n v).boot = s.boot := rfl
@[simp] theorem State.setSeq_stash (n : Nat) (v : SeqSt) : (s.setSeq n v).stash = s.stash := rfl
@[simp] theorem State.setSeq_island (n : Nat) (v : SeqSt) : (s.setSeq n v).island = s.island := rfl
@[simp] theorem State.setSeq_trace (n : Nat) (v : SeqSt) : (s.setSeq n v).trace = s.trace := rfl
@[simp] theorem State.setSeq_msix (n : Nat) (v : SeqSt) : (s.setSeq n v).msix = s.msix := rfl
@[simp] theorem State.setSeq_alerts (n : Nat) (v : SeqSt) : (s.setSeq n v).alerts = s.alerts := rfl
@[simp] theorem State.setSeq_pending (n : Nat) (v : SeqSt) : (s.setSeq n v).pending = s.pending := rfl

/-! setShelf. -/

@[simp] theorem State.setShelf_part (g : Nat) (v : ShelfSt) : (s.setShelf g v).part = s.part := rfl
@[simp] theorem State.setShelf_hclk (g : Nat) (v : ShelfSt) : (s.setShelf g v).hclk = s.hclk := rfl
@[simp] theorem State.setShelf_draws (g : Nat) (v : ShelfSt) : (s.setShelf g v).draws = s.draws := rfl
@[simp] theorem State.setShelf_bus (g : Nat) (v : ShelfSt) : (s.setShelf g v).bus = s.bus := rfl
@[simp] theorem State.setShelf_regs (g : Nat) (v : ShelfSt) : (s.setShelf g v).regs = s.regs := rfl
@[simp] theorem State.setShelf_mem (g : Nat) (v : ShelfSt) : (s.setShelf g v).mem = s.mem := rfl
@[simp] theorem State.setShelf_host (g : Nat) (v : ShelfSt) : (s.setShelf g v).host = s.host := rfl
@[simp] theorem State.setShelf_cells (g : Nat) (v : ShelfSt) : (s.setShelf g v).cells = s.cells := rfl
@[simp] theorem State.setShelf_queues (g : Nat) (v : ShelfSt) : (s.setShelf g v).queues = s.queues := rfl
@[simp] theorem State.setShelf_seqs (g : Nat) (v : ShelfSt) : (s.setShelf g v).seqs = s.seqs := rfl
@[simp] theorem State.setShelf_owners (g : Nat) (v : ShelfSt) : (s.setShelf g v).owners = s.owners := rfl
@[simp] theorem State.setShelf_tallyPend (g : Nat) (v : ShelfSt) : (s.setShelf g v).tallyPend = s.tallyPend := rfl
@[simp] theorem State.setShelf_ftb0 (g : Nat) (v : ShelfSt) : (s.setShelf g v).ftb0 = s.ftb0 := rfl
@[simp] theorem State.setShelf_ftb1 (g : Nat) (v : ShelfSt) : (s.setShelf g v).ftb1 = s.ftb1 := rfl
@[simp] theorem State.setShelf_tableLoad (g : Nat) (v : ShelfSt) : (s.setShelf g v).tableLoad = s.tableLoad := rfl
@[simp] theorem State.setShelf_remaps (g : Nat) (v : ShelfSt) : (s.setShelf g v).remaps = s.remaps := rfl
@[simp] theorem State.setShelf_fw (g : Nat) (v : ShelfSt) : (s.setShelf g v).fw = s.fw := rfl
@[simp] theorem State.setShelf_ctxs (g : Nat) (v : ShelfSt) : (s.setShelf g v).ctxs = s.ctxs := rfl
@[simp] theorem State.setShelf_rr (g : Nat) (v : ShelfSt) : (s.setShelf g v).rr = s.rr := rfl
@[simp] theorem State.setShelf_thaw (g : Nat) (v : ShelfSt) : (s.setShelf g v).thaw = s.thaw := rfl
@[simp] theorem State.setShelf_ingress (g : Nat) (v : ShelfSt) : (s.setShelf g v).ingress = s.ingress := rfl
@[simp] theorem State.setShelf_egress (g : Nat) (v : ShelfSt) : (s.setShelf g v).egress = s.egress := rfl
@[simp] theorem State.setShelf_linkUp (g : Nat) (v : ShelfSt) : (s.setShelf g v).linkUp = s.linkUp := rfl
@[simp] theorem State.setShelf_jobs (g : Nat) (v : ShelfSt) : (s.setShelf g v).jobs = s.jobs := rfl
@[simp] theorem State.setShelf_tables (g : Nat) (v : ShelfSt) : (s.setShelf g v).tables = s.tables := rfl
@[simp] theorem State.setShelf_kblocks (g : Nat) (v : ShelfSt) : (s.setShelf g v).kblocks = s.kblocks := rfl
@[simp] theorem State.setShelf_power (g : Nat) (v : ShelfSt) : (s.setShelf g v).power = s.power := rfl
@[simp] theorem State.setShelf_ports (g : Nat) (v : ShelfSt) : (s.setShelf g v).ports = s.ports := rfl
@[simp] theorem State.setShelf_portOut (g : Nat) (v : ShelfSt) : (s.setShelf g v).portOut = s.portOut := rfl
@[simp] theorem State.setShelf_chans (g : Nat) (v : ShelfSt) : (s.setShelf g v).chans = s.chans := rfl
@[simp] theorem State.setShelf_barrier (g : Nat) (v : ShelfSt) : (s.setShelf g v).barrier = s.barrier := rfl
@[simp] theorem State.setShelf_lasers (g : Nat) (v : ShelfSt) : (s.setShelf g v).lasers = s.lasers := rfl
@[simp] theorem State.setShelf_shutters (g : Nat) (v : ShelfSt) : (s.setShelf g v).shutters = s.shutters := rfl
@[simp] theorem State.setShelf_station (g : Nat) (v : ShelfSt) : (s.setShelf g v).station = s.station := rfl
@[simp] theorem State.setShelf_mbox (g : Nat) (v : ShelfSt) : (s.setShelf g v).mbox = s.mbox := rfl
@[simp] theorem State.setShelf_mboxOut (g : Nat) (v : ShelfSt) : (s.setShelf g v).mboxOut = s.mboxOut := rfl
@[simp] theorem State.setShelf_cacheOn (g : Nat) (v : ShelfSt) : (s.setShelf g v).cacheOn = s.cacheOn := rfl
@[simp] theorem State.setShelf_media (g : Nat) (v : ShelfSt) : (s.setShelf g v).media = s.media := rfl
@[simp] theorem State.setShelf_mediaOut (g : Nat) (v : ShelfSt) : (s.setShelf g v).mediaOut = s.mediaOut := rfl
@[simp] theorem State.setShelf_boot (g : Nat) (v : ShelfSt) : (s.setShelf g v).boot = s.boot := rfl
@[simp] theorem State.setShelf_stash (g : Nat) (v : ShelfSt) : (s.setShelf g v).stash = s.stash := rfl
@[simp] theorem State.setShelf_island (g : Nat) (v : ShelfSt) : (s.setShelf g v).island = s.island := rfl
@[simp] theorem State.setShelf_trace (g : Nat) (v : ShelfSt) : (s.setShelf g v).trace = s.trace := rfl
@[simp] theorem State.setShelf_msix (g : Nat) (v : ShelfSt) : (s.setShelf g v).msix = s.msix := rfl
@[simp] theorem State.setShelf_alerts (g : Nat) (v : ShelfSt) : (s.setShelf g v).alerts = s.alerts := rfl
@[simp] theorem State.setShelf_pending (g : Nat) (v : ShelfSt) : (s.setShelf g v).pending = s.pending := rfl

/-! signalTally. -/

@[simp] theorem State.signalTally_part (src : Option Nat) (t inc : Nat) : (s.signalTally src t inc).part = s.part := rfl
@[simp] theorem State.signalTally_hclk (src : Option Nat) (t inc : Nat) : (s.signalTally src t inc).hclk = s.hclk := rfl
@[simp] theorem State.signalTally_draws (src : Option Nat) (t inc : Nat) : (s.signalTally src t inc).draws = s.draws := rfl
@[simp] theorem State.signalTally_bus (src : Option Nat) (t inc : Nat) : (s.signalTally src t inc).bus = s.bus := rfl
@[simp] theorem State.signalTally_regs (src : Option Nat) (t inc : Nat) : (s.signalTally src t inc).regs = s.regs := rfl
@[simp] theorem State.signalTally_mem (src : Option Nat) (t inc : Nat) : (s.signalTally src t inc).mem = s.mem := rfl
@[simp] theorem State.signalTally_host (src : Option Nat) (t inc : Nat) : (s.signalTally src t inc).host = s.host := rfl
@[simp] theorem State.signalTally_cells (src : Option Nat) (t inc : Nat) : (s.signalTally src t inc).cells = s.cells := rfl
@[simp] theorem State.signalTally_queues (src : Option Nat) (t inc : Nat) : (s.signalTally src t inc).queues = s.queues := rfl
@[simp] theorem State.signalTally_seqs (src : Option Nat) (t inc : Nat) : (s.signalTally src t inc).seqs = s.seqs := rfl
@[simp] theorem State.signalTally_owners (src : Option Nat) (t inc : Nat) : (s.signalTally src t inc).owners = s.owners := rfl
@[simp] theorem State.signalTally_ftb0 (src : Option Nat) (t inc : Nat) : (s.signalTally src t inc).ftb0 = s.ftb0 := rfl
@[simp] theorem State.signalTally_ftb1 (src : Option Nat) (t inc : Nat) : (s.signalTally src t inc).ftb1 = s.ftb1 := rfl
@[simp] theorem State.signalTally_tableLoad (src : Option Nat) (t inc : Nat) : (s.signalTally src t inc).tableLoad = s.tableLoad := rfl
@[simp] theorem State.signalTally_remaps (src : Option Nat) (t inc : Nat) : (s.signalTally src t inc).remaps = s.remaps := rfl
@[simp] theorem State.signalTally_fw (src : Option Nat) (t inc : Nat) : (s.signalTally src t inc).fw = s.fw := rfl
@[simp] theorem State.signalTally_ctxs (src : Option Nat) (t inc : Nat) : (s.signalTally src t inc).ctxs = s.ctxs := rfl
@[simp] theorem State.signalTally_rr (src : Option Nat) (t inc : Nat) : (s.signalTally src t inc).rr = s.rr := rfl
@[simp] theorem State.signalTally_thaw (src : Option Nat) (t inc : Nat) : (s.signalTally src t inc).thaw = s.thaw := rfl
@[simp] theorem State.signalTally_shelves (src : Option Nat) (t inc : Nat) : (s.signalTally src t inc).shelves = s.shelves := rfl
@[simp] theorem State.signalTally_ingress (src : Option Nat) (t inc : Nat) : (s.signalTally src t inc).ingress = s.ingress := rfl
@[simp] theorem State.signalTally_egress (src : Option Nat) (t inc : Nat) : (s.signalTally src t inc).egress = s.egress := rfl
@[simp] theorem State.signalTally_linkUp (src : Option Nat) (t inc : Nat) : (s.signalTally src t inc).linkUp = s.linkUp := rfl
@[simp] theorem State.signalTally_jobs (src : Option Nat) (t inc : Nat) : (s.signalTally src t inc).jobs = s.jobs := rfl
@[simp] theorem State.signalTally_tables (src : Option Nat) (t inc : Nat) : (s.signalTally src t inc).tables = s.tables := rfl
@[simp] theorem State.signalTally_kblocks (src : Option Nat) (t inc : Nat) : (s.signalTally src t inc).kblocks = s.kblocks := rfl
@[simp] theorem State.signalTally_power (src : Option Nat) (t inc : Nat) : (s.signalTally src t inc).power = s.power := rfl
@[simp] theorem State.signalTally_ports (src : Option Nat) (t inc : Nat) : (s.signalTally src t inc).ports = s.ports := rfl
@[simp] theorem State.signalTally_portOut (src : Option Nat) (t inc : Nat) : (s.signalTally src t inc).portOut = s.portOut := rfl
@[simp] theorem State.signalTally_chans (src : Option Nat) (t inc : Nat) : (s.signalTally src t inc).chans = s.chans := rfl
@[simp] theorem State.signalTally_barrier (src : Option Nat) (t inc : Nat) : (s.signalTally src t inc).barrier = s.barrier := rfl
@[simp] theorem State.signalTally_lasers (src : Option Nat) (t inc : Nat) : (s.signalTally src t inc).lasers = s.lasers := rfl
@[simp] theorem State.signalTally_shutters (src : Option Nat) (t inc : Nat) : (s.signalTally src t inc).shutters = s.shutters := rfl
@[simp] theorem State.signalTally_station (src : Option Nat) (t inc : Nat) : (s.signalTally src t inc).station = s.station := rfl
@[simp] theorem State.signalTally_mbox (src : Option Nat) (t inc : Nat) : (s.signalTally src t inc).mbox = s.mbox := rfl
@[simp] theorem State.signalTally_mboxOut (src : Option Nat) (t inc : Nat) : (s.signalTally src t inc).mboxOut = s.mboxOut := rfl
@[simp] theorem State.signalTally_cacheOn (src : Option Nat) (t inc : Nat) : (s.signalTally src t inc).cacheOn = s.cacheOn := rfl
@[simp] theorem State.signalTally_media (src : Option Nat) (t inc : Nat) : (s.signalTally src t inc).media = s.media := rfl
@[simp] theorem State.signalTally_mediaOut (src : Option Nat) (t inc : Nat) : (s.signalTally src t inc).mediaOut = s.mediaOut := rfl
@[simp] theorem State.signalTally_boot (src : Option Nat) (t inc : Nat) : (s.signalTally src t inc).boot = s.boot := rfl
@[simp] theorem State.signalTally_stash (src : Option Nat) (t inc : Nat) : (s.signalTally src t inc).stash = s.stash := rfl
@[simp] theorem State.signalTally_island (src : Option Nat) (t inc : Nat) : (s.signalTally src t inc).island = s.island := rfl
@[simp] theorem State.signalTally_trace (src : Option Nat) (t inc : Nat) : (s.signalTally src t inc).trace = s.trace := rfl
@[simp] theorem State.signalTally_msix (src : Option Nat) (t inc : Nat) : (s.signalTally src t inc).msix = s.msix := rfl
@[simp] theorem State.signalTally_alerts (src : Option Nat) (t inc : Nat) : (s.signalTally src t inc).alerts = s.alerts := rfl
@[simp] theorem State.signalTally_pending (src : Option Nat) (t inc : Nat) : (s.signalTally src t inc).pending = s.pending := rfl

theorem State.count_split (f : Fld) (inc : Nat) (ix : List Nat) {α : Type} (g : State → α)
    (h : ∀ v, g (s.setFld f v ix) = g s) : g (s.count f inc ix) = g s := by
  unfold State.count
  split
  · rfl
  · exact h _

/-! count. -/

@[simp] theorem State.count_part (f : Fld) (inc : Nat) (ix : List Nat) : (s.count f inc ix).part = s.part := s.count_split f inc ix State.part fun _ => rfl
@[simp] theorem State.count_hclk (f : Fld) (inc : Nat) (ix : List Nat) : (s.count f inc ix).hclk = s.hclk := s.count_split f inc ix State.hclk fun _ => rfl
@[simp] theorem State.count_draws (f : Fld) (inc : Nat) (ix : List Nat) : (s.count f inc ix).draws = s.draws := s.count_split f inc ix State.draws fun _ => rfl
@[simp] theorem State.count_bus (f : Fld) (inc : Nat) (ix : List Nat) : (s.count f inc ix).bus = s.bus := s.count_split f inc ix State.bus fun _ => rfl
@[simp] theorem State.count_mem (f : Fld) (inc : Nat) (ix : List Nat) : (s.count f inc ix).mem = s.mem := s.count_split f inc ix State.mem fun _ => rfl
@[simp] theorem State.count_host (f : Fld) (inc : Nat) (ix : List Nat) : (s.count f inc ix).host = s.host := s.count_split f inc ix State.host fun _ => rfl
@[simp] theorem State.count_cells (f : Fld) (inc : Nat) (ix : List Nat) : (s.count f inc ix).cells = s.cells := s.count_split f inc ix State.cells fun _ => rfl
@[simp] theorem State.count_queues (f : Fld) (inc : Nat) (ix : List Nat) : (s.count f inc ix).queues = s.queues := s.count_split f inc ix State.queues fun _ => rfl
@[simp] theorem State.count_seqs (f : Fld) (inc : Nat) (ix : List Nat) : (s.count f inc ix).seqs = s.seqs := s.count_split f inc ix State.seqs fun _ => rfl
@[simp] theorem State.count_owners (f : Fld) (inc : Nat) (ix : List Nat) : (s.count f inc ix).owners = s.owners := s.count_split f inc ix State.owners fun _ => rfl
@[simp] theorem State.count_tallyPend (f : Fld) (inc : Nat) (ix : List Nat) : (s.count f inc ix).tallyPend = s.tallyPend := s.count_split f inc ix State.tallyPend fun _ => rfl
@[simp] theorem State.count_ftb0 (f : Fld) (inc : Nat) (ix : List Nat) : (s.count f inc ix).ftb0 = s.ftb0 := s.count_split f inc ix State.ftb0 fun _ => rfl
@[simp] theorem State.count_ftb1 (f : Fld) (inc : Nat) (ix : List Nat) : (s.count f inc ix).ftb1 = s.ftb1 := s.count_split f inc ix State.ftb1 fun _ => rfl
@[simp] theorem State.count_tableLoad (f : Fld) (inc : Nat) (ix : List Nat) : (s.count f inc ix).tableLoad = s.tableLoad := s.count_split f inc ix State.tableLoad fun _ => rfl
@[simp] theorem State.count_remaps (f : Fld) (inc : Nat) (ix : List Nat) : (s.count f inc ix).remaps = s.remaps := s.count_split f inc ix State.remaps fun _ => rfl
@[simp] theorem State.count_fw (f : Fld) (inc : Nat) (ix : List Nat) : (s.count f inc ix).fw = s.fw := s.count_split f inc ix State.fw fun _ => rfl
@[simp] theorem State.count_ctxs (f : Fld) (inc : Nat) (ix : List Nat) : (s.count f inc ix).ctxs = s.ctxs := s.count_split f inc ix State.ctxs fun _ => rfl
@[simp] theorem State.count_rr (f : Fld) (inc : Nat) (ix : List Nat) : (s.count f inc ix).rr = s.rr := s.count_split f inc ix State.rr fun _ => rfl
@[simp] theorem State.count_thaw (f : Fld) (inc : Nat) (ix : List Nat) : (s.count f inc ix).thaw = s.thaw := s.count_split f inc ix State.thaw fun _ => rfl
@[simp] theorem State.count_shelves (f : Fld) (inc : Nat) (ix : List Nat) : (s.count f inc ix).shelves = s.shelves := s.count_split f inc ix State.shelves fun _ => rfl
@[simp] theorem State.count_ingress (f : Fld) (inc : Nat) (ix : List Nat) : (s.count f inc ix).ingress = s.ingress := s.count_split f inc ix State.ingress fun _ => rfl
@[simp] theorem State.count_egress (f : Fld) (inc : Nat) (ix : List Nat) : (s.count f inc ix).egress = s.egress := s.count_split f inc ix State.egress fun _ => rfl
@[simp] theorem State.count_linkUp (f : Fld) (inc : Nat) (ix : List Nat) : (s.count f inc ix).linkUp = s.linkUp := s.count_split f inc ix State.linkUp fun _ => rfl
@[simp] theorem State.count_jobs (f : Fld) (inc : Nat) (ix : List Nat) : (s.count f inc ix).jobs = s.jobs := s.count_split f inc ix State.jobs fun _ => rfl
@[simp] theorem State.count_tables (f : Fld) (inc : Nat) (ix : List Nat) : (s.count f inc ix).tables = s.tables := s.count_split f inc ix State.tables fun _ => rfl
@[simp] theorem State.count_kblocks (f : Fld) (inc : Nat) (ix : List Nat) : (s.count f inc ix).kblocks = s.kblocks := s.count_split f inc ix State.kblocks fun _ => rfl
@[simp] theorem State.count_power (f : Fld) (inc : Nat) (ix : List Nat) : (s.count f inc ix).power = s.power := s.count_split f inc ix State.power fun _ => rfl
@[simp] theorem State.count_ports (f : Fld) (inc : Nat) (ix : List Nat) : (s.count f inc ix).ports = s.ports := s.count_split f inc ix State.ports fun _ => rfl
@[simp] theorem State.count_portOut (f : Fld) (inc : Nat) (ix : List Nat) : (s.count f inc ix).portOut = s.portOut := s.count_split f inc ix State.portOut fun _ => rfl
@[simp] theorem State.count_chans (f : Fld) (inc : Nat) (ix : List Nat) : (s.count f inc ix).chans = s.chans := s.count_split f inc ix State.chans fun _ => rfl
@[simp] theorem State.count_barrier (f : Fld) (inc : Nat) (ix : List Nat) : (s.count f inc ix).barrier = s.barrier := s.count_split f inc ix State.barrier fun _ => rfl
@[simp] theorem State.count_lasers (f : Fld) (inc : Nat) (ix : List Nat) : (s.count f inc ix).lasers = s.lasers := s.count_split f inc ix State.lasers fun _ => rfl
@[simp] theorem State.count_shutters (f : Fld) (inc : Nat) (ix : List Nat) : (s.count f inc ix).shutters = s.shutters := s.count_split f inc ix State.shutters fun _ => rfl
@[simp] theorem State.count_station (f : Fld) (inc : Nat) (ix : List Nat) : (s.count f inc ix).station = s.station := s.count_split f inc ix State.station fun _ => rfl
@[simp] theorem State.count_mbox (f : Fld) (inc : Nat) (ix : List Nat) : (s.count f inc ix).mbox = s.mbox := s.count_split f inc ix State.mbox fun _ => rfl
@[simp] theorem State.count_mboxOut (f : Fld) (inc : Nat) (ix : List Nat) : (s.count f inc ix).mboxOut = s.mboxOut := s.count_split f inc ix State.mboxOut fun _ => rfl
@[simp] theorem State.count_cacheOn (f : Fld) (inc : Nat) (ix : List Nat) : (s.count f inc ix).cacheOn = s.cacheOn := s.count_split f inc ix State.cacheOn fun _ => rfl
@[simp] theorem State.count_media (f : Fld) (inc : Nat) (ix : List Nat) : (s.count f inc ix).media = s.media := s.count_split f inc ix State.media fun _ => rfl
@[simp] theorem State.count_mediaOut (f : Fld) (inc : Nat) (ix : List Nat) : (s.count f inc ix).mediaOut = s.mediaOut := s.count_split f inc ix State.mediaOut fun _ => rfl
@[simp] theorem State.count_boot (f : Fld) (inc : Nat) (ix : List Nat) : (s.count f inc ix).boot = s.boot := s.count_split f inc ix State.boot fun _ => rfl
@[simp] theorem State.count_stash (f : Fld) (inc : Nat) (ix : List Nat) : (s.count f inc ix).stash = s.stash := s.count_split f inc ix State.stash fun _ => rfl
@[simp] theorem State.count_island (f : Fld) (inc : Nat) (ix : List Nat) : (s.count f inc ix).island = s.island := s.count_split f inc ix State.island fun _ => rfl
@[simp] theorem State.count_trace (f : Fld) (inc : Nat) (ix : List Nat) : (s.count f inc ix).trace = s.trace := s.count_split f inc ix State.trace fun _ => rfl
@[simp] theorem State.count_msix (f : Fld) (inc : Nat) (ix : List Nat) : (s.count f inc ix).msix = s.msix := s.count_split f inc ix State.msix fun _ => rfl
@[simp] theorem State.count_alerts (f : Fld) (inc : Nat) (ix : List Nat) : (s.count f inc ix).alerts = s.alerts := s.count_split f inc ix State.alerts fun _ => rfl
@[simp] theorem State.count_pending (f : Fld) (inc : Nat) (ix : List Nat) : (s.count f inc ix).pending = s.pending := s.count_split f inc ix State.pending fun _ => rfl

/-! ccount. -/

@[simp] theorem State.ccount_part (f : Fld) (inc p : Nat) : (s.ccount f inc p).part = s.part := s.count_split f inc (cellIx p) State.part fun _ => rfl
@[simp] theorem State.ccount_hclk (f : Fld) (inc p : Nat) : (s.ccount f inc p).hclk = s.hclk := s.count_split f inc (cellIx p) State.hclk fun _ => rfl
@[simp] theorem State.ccount_draws (f : Fld) (inc p : Nat) : (s.ccount f inc p).draws = s.draws := s.count_split f inc (cellIx p) State.draws fun _ => rfl
@[simp] theorem State.ccount_bus (f : Fld) (inc p : Nat) : (s.ccount f inc p).bus = s.bus := s.count_split f inc (cellIx p) State.bus fun _ => rfl
@[simp] theorem State.ccount_mem (f : Fld) (inc p : Nat) : (s.ccount f inc p).mem = s.mem := s.count_split f inc (cellIx p) State.mem fun _ => rfl
@[simp] theorem State.ccount_host (f : Fld) (inc p : Nat) : (s.ccount f inc p).host = s.host := s.count_split f inc (cellIx p) State.host fun _ => rfl
@[simp] theorem State.ccount_cells (f : Fld) (inc p : Nat) : (s.ccount f inc p).cells = s.cells := s.count_split f inc (cellIx p) State.cells fun _ => rfl
@[simp] theorem State.ccount_queues (f : Fld) (inc p : Nat) : (s.ccount f inc p).queues = s.queues := s.count_split f inc (cellIx p) State.queues fun _ => rfl
@[simp] theorem State.ccount_seqs (f : Fld) (inc p : Nat) : (s.ccount f inc p).seqs = s.seqs := s.count_split f inc (cellIx p) State.seqs fun _ => rfl
@[simp] theorem State.ccount_owners (f : Fld) (inc p : Nat) : (s.ccount f inc p).owners = s.owners := s.count_split f inc (cellIx p) State.owners fun _ => rfl
@[simp] theorem State.ccount_tallyPend (f : Fld) (inc p : Nat) : (s.ccount f inc p).tallyPend = s.tallyPend := s.count_split f inc (cellIx p) State.tallyPend fun _ => rfl
@[simp] theorem State.ccount_ftb0 (f : Fld) (inc p : Nat) : (s.ccount f inc p).ftb0 = s.ftb0 := s.count_split f inc (cellIx p) State.ftb0 fun _ => rfl
@[simp] theorem State.ccount_ftb1 (f : Fld) (inc p : Nat) : (s.ccount f inc p).ftb1 = s.ftb1 := s.count_split f inc (cellIx p) State.ftb1 fun _ => rfl
@[simp] theorem State.ccount_tableLoad (f : Fld) (inc p : Nat) : (s.ccount f inc p).tableLoad = s.tableLoad := s.count_split f inc (cellIx p) State.tableLoad fun _ => rfl
@[simp] theorem State.ccount_remaps (f : Fld) (inc p : Nat) : (s.ccount f inc p).remaps = s.remaps := s.count_split f inc (cellIx p) State.remaps fun _ => rfl
@[simp] theorem State.ccount_fw (f : Fld) (inc p : Nat) : (s.ccount f inc p).fw = s.fw := s.count_split f inc (cellIx p) State.fw fun _ => rfl
@[simp] theorem State.ccount_ctxs (f : Fld) (inc p : Nat) : (s.ccount f inc p).ctxs = s.ctxs := s.count_split f inc (cellIx p) State.ctxs fun _ => rfl
@[simp] theorem State.ccount_rr (f : Fld) (inc p : Nat) : (s.ccount f inc p).rr = s.rr := s.count_split f inc (cellIx p) State.rr fun _ => rfl
@[simp] theorem State.ccount_thaw (f : Fld) (inc p : Nat) : (s.ccount f inc p).thaw = s.thaw := s.count_split f inc (cellIx p) State.thaw fun _ => rfl
@[simp] theorem State.ccount_shelves (f : Fld) (inc p : Nat) : (s.ccount f inc p).shelves = s.shelves := s.count_split f inc (cellIx p) State.shelves fun _ => rfl
@[simp] theorem State.ccount_ingress (f : Fld) (inc p : Nat) : (s.ccount f inc p).ingress = s.ingress := s.count_split f inc (cellIx p) State.ingress fun _ => rfl
@[simp] theorem State.ccount_egress (f : Fld) (inc p : Nat) : (s.ccount f inc p).egress = s.egress := s.count_split f inc (cellIx p) State.egress fun _ => rfl
@[simp] theorem State.ccount_linkUp (f : Fld) (inc p : Nat) : (s.ccount f inc p).linkUp = s.linkUp := s.count_split f inc (cellIx p) State.linkUp fun _ => rfl
@[simp] theorem State.ccount_jobs (f : Fld) (inc p : Nat) : (s.ccount f inc p).jobs = s.jobs := s.count_split f inc (cellIx p) State.jobs fun _ => rfl
@[simp] theorem State.ccount_tables (f : Fld) (inc p : Nat) : (s.ccount f inc p).tables = s.tables := s.count_split f inc (cellIx p) State.tables fun _ => rfl
@[simp] theorem State.ccount_kblocks (f : Fld) (inc p : Nat) : (s.ccount f inc p).kblocks = s.kblocks := s.count_split f inc (cellIx p) State.kblocks fun _ => rfl
@[simp] theorem State.ccount_power (f : Fld) (inc p : Nat) : (s.ccount f inc p).power = s.power := s.count_split f inc (cellIx p) State.power fun _ => rfl
@[simp] theorem State.ccount_ports (f : Fld) (inc p : Nat) : (s.ccount f inc p).ports = s.ports := s.count_split f inc (cellIx p) State.ports fun _ => rfl
@[simp] theorem State.ccount_portOut (f : Fld) (inc p : Nat) : (s.ccount f inc p).portOut = s.portOut := s.count_split f inc (cellIx p) State.portOut fun _ => rfl
@[simp] theorem State.ccount_chans (f : Fld) (inc p : Nat) : (s.ccount f inc p).chans = s.chans := s.count_split f inc (cellIx p) State.chans fun _ => rfl
@[simp] theorem State.ccount_barrier (f : Fld) (inc p : Nat) : (s.ccount f inc p).barrier = s.barrier := s.count_split f inc (cellIx p) State.barrier fun _ => rfl
@[simp] theorem State.ccount_lasers (f : Fld) (inc p : Nat) : (s.ccount f inc p).lasers = s.lasers := s.count_split f inc (cellIx p) State.lasers fun _ => rfl
@[simp] theorem State.ccount_shutters (f : Fld) (inc p : Nat) : (s.ccount f inc p).shutters = s.shutters := s.count_split f inc (cellIx p) State.shutters fun _ => rfl
@[simp] theorem State.ccount_station (f : Fld) (inc p : Nat) : (s.ccount f inc p).station = s.station := s.count_split f inc (cellIx p) State.station fun _ => rfl
@[simp] theorem State.ccount_mbox (f : Fld) (inc p : Nat) : (s.ccount f inc p).mbox = s.mbox := s.count_split f inc (cellIx p) State.mbox fun _ => rfl
@[simp] theorem State.ccount_mboxOut (f : Fld) (inc p : Nat) : (s.ccount f inc p).mboxOut = s.mboxOut := s.count_split f inc (cellIx p) State.mboxOut fun _ => rfl
@[simp] theorem State.ccount_cacheOn (f : Fld) (inc p : Nat) : (s.ccount f inc p).cacheOn = s.cacheOn := s.count_split f inc (cellIx p) State.cacheOn fun _ => rfl
@[simp] theorem State.ccount_media (f : Fld) (inc p : Nat) : (s.ccount f inc p).media = s.media := s.count_split f inc (cellIx p) State.media fun _ => rfl
@[simp] theorem State.ccount_mediaOut (f : Fld) (inc p : Nat) : (s.ccount f inc p).mediaOut = s.mediaOut := s.count_split f inc (cellIx p) State.mediaOut fun _ => rfl
@[simp] theorem State.ccount_boot (f : Fld) (inc p : Nat) : (s.ccount f inc p).boot = s.boot := s.count_split f inc (cellIx p) State.boot fun _ => rfl
@[simp] theorem State.ccount_stash (f : Fld) (inc p : Nat) : (s.ccount f inc p).stash = s.stash := s.count_split f inc (cellIx p) State.stash fun _ => rfl
@[simp] theorem State.ccount_island (f : Fld) (inc p : Nat) : (s.ccount f inc p).island = s.island := s.count_split f inc (cellIx p) State.island fun _ => rfl
@[simp] theorem State.ccount_trace (f : Fld) (inc p : Nat) : (s.ccount f inc p).trace = s.trace := s.count_split f inc (cellIx p) State.trace fun _ => rfl
@[simp] theorem State.ccount_msix (f : Fld) (inc p : Nat) : (s.ccount f inc p).msix = s.msix := s.count_split f inc (cellIx p) State.msix fun _ => rfl
@[simp] theorem State.ccount_alerts (f : Fld) (inc p : Nat) : (s.ccount f inc p).alerts = s.alerts := s.count_split f inc (cellIx p) State.alerts fun _ => rfl
@[simp] theorem State.ccount_pending (f : Fld) (inc p : Nat) : (s.ccount f inc p).pending = s.pending := s.count_split f inc (cellIx p) State.pending fun _ => rfl

/-! draw. -/

@[simp] theorem State.draw_fst : s.draw.1 = Config.freeValue s.draws := rfl
@[simp] theorem State.draw_part : s.draw.2.part = s.part := rfl
@[simp] theorem State.draw_hclk : s.draw.2.hclk = s.hclk := rfl
@[simp] theorem State.draw_bus : s.draw.2.bus = s.bus := rfl
@[simp] theorem State.draw_regs : s.draw.2.regs = s.regs := rfl
@[simp] theorem State.draw_mem : s.draw.2.mem = s.mem := rfl
@[simp] theorem State.draw_host : s.draw.2.host = s.host := rfl
@[simp] theorem State.draw_cells : s.draw.2.cells = s.cells := rfl
@[simp] theorem State.draw_queues : s.draw.2.queues = s.queues := rfl
@[simp] theorem State.draw_seqs : s.draw.2.seqs = s.seqs := rfl
@[simp] theorem State.draw_owners : s.draw.2.owners = s.owners := rfl
@[simp] theorem State.draw_tallyPend : s.draw.2.tallyPend = s.tallyPend := rfl
@[simp] theorem State.draw_ftb0 : s.draw.2.ftb0 = s.ftb0 := rfl
@[simp] theorem State.draw_ftb1 : s.draw.2.ftb1 = s.ftb1 := rfl
@[simp] theorem State.draw_tableLoad : s.draw.2.tableLoad = s.tableLoad := rfl
@[simp] theorem State.draw_remaps : s.draw.2.remaps = s.remaps := rfl
@[simp] theorem State.draw_fw : s.draw.2.fw = s.fw := rfl
@[simp] theorem State.draw_ctxs : s.draw.2.ctxs = s.ctxs := rfl
@[simp] theorem State.draw_rr : s.draw.2.rr = s.rr := rfl
@[simp] theorem State.draw_thaw : s.draw.2.thaw = s.thaw := rfl
@[simp] theorem State.draw_shelves : s.draw.2.shelves = s.shelves := rfl
@[simp] theorem State.draw_ingress : s.draw.2.ingress = s.ingress := rfl
@[simp] theorem State.draw_egress : s.draw.2.egress = s.egress := rfl
@[simp] theorem State.draw_linkUp : s.draw.2.linkUp = s.linkUp := rfl
@[simp] theorem State.draw_jobs : s.draw.2.jobs = s.jobs := rfl
@[simp] theorem State.draw_tables : s.draw.2.tables = s.tables := rfl
@[simp] theorem State.draw_kblocks : s.draw.2.kblocks = s.kblocks := rfl
@[simp] theorem State.draw_power : s.draw.2.power = s.power := rfl
@[simp] theorem State.draw_ports : s.draw.2.ports = s.ports := rfl
@[simp] theorem State.draw_portOut : s.draw.2.portOut = s.portOut := rfl
@[simp] theorem State.draw_chans : s.draw.2.chans = s.chans := rfl
@[simp] theorem State.draw_barrier : s.draw.2.barrier = s.barrier := rfl
@[simp] theorem State.draw_lasers : s.draw.2.lasers = s.lasers := rfl
@[simp] theorem State.draw_shutters : s.draw.2.shutters = s.shutters := rfl
@[simp] theorem State.draw_station : s.draw.2.station = s.station := rfl
@[simp] theorem State.draw_mbox : s.draw.2.mbox = s.mbox := rfl
@[simp] theorem State.draw_mboxOut : s.draw.2.mboxOut = s.mboxOut := rfl
@[simp] theorem State.draw_cacheOn : s.draw.2.cacheOn = s.cacheOn := rfl
@[simp] theorem State.draw_media : s.draw.2.media = s.media := rfl
@[simp] theorem State.draw_mediaOut : s.draw.2.mediaOut = s.mediaOut := rfl
@[simp] theorem State.draw_boot : s.draw.2.boot = s.boot := rfl
@[simp] theorem State.draw_stash : s.draw.2.stash = s.stash := rfl
@[simp] theorem State.draw_island : s.draw.2.island = s.island := rfl
@[simp] theorem State.draw_trace : s.draw.2.trace = s.trace := rfl
@[simp] theorem State.draw_msix : s.draw.2.msix = s.msix := rfl
@[simp] theorem State.draw_alerts : s.draw.2.alerts = s.alerts := rfl
@[simp] theorem State.draw_pending : s.draw.2.pending = s.pending := rfl

/-! The operations in terms of each other. -/

theorem State.setFld_eq (f : Fld) (v : Nat) (ix : List Nat) :
    s.setFld f v ix = s.setReg f.reg (putBits (s.reg f.reg ix) f.hi f.lo v) ix := rfl
theorem State.raise_eq (f : Fld) (ix : List Nat) : s.raise f ix = s.setFld f 1 ix := rfl
theorem State.csetFld_eq (f : Fld) (v p : Nat) : s.csetFld f v p = s.setFld f v (cellIx p) := rfl
theorem State.craise_eq (f : Fld) (p : Nat) : s.craise f p = s.setFld f 1 (cellIx p) := rfl
theorem State.onCell_eq (p : Nat) (f : Cell → Cell) : s.onCell p f = s.setCell p (f (s.cell p)) := rfl
theorem State.onQueue_eq (q : Nat) (f : QueueSt → QueueSt) : s.onQueue q f = s.setQueue q (f (s.queue q)) := rfl

end Sys2Proof.Machine
end

