-- ==== Sys2Proof/Laws/Tab.lean ====
section
/-! SUPPORT. Laws of the sparse tables: what a write reads as, and that it keeps the canonical form; laws of bit fields. -/

namespace Sys2Proof.Machine

theorem tabGet_tabErase_same {α : Type} (d : Nat → α) (t : Tab α) (k : Nat) : tabGet d (tabErase t k) k = d k := by
  induction t with
  | nil => rfl
  | cons e t ih =>
    obtain ⟨k', v⟩ := e
    by_cases h : k' = k
    · simp [tabErase, h, ih]
    · simp [tabErase, tabGet, h, ih]

theorem tabGet_tabErase_ne {α : Type} (d : Nat → α) (t : Tab α) {k j : Nat} (hj : j ≠ k) :
    tabGet d (tabErase t k) j = tabGet d t j := by
  induction t with
  | nil => rfl
  | cons e t ih =>
    obtain ⟨k', v⟩ := e
    by_cases h : k' = k
    · subst h
      simp [tabErase, tabGet, ih, Ne.symm hj]
    · simp [tabErase, tabGet, h, ih]

theorem tabGet_tabInsert_same {α : Type} (d : Nat → α) (t : Tab α) (k : Nat) (v : α) :
    tabGet d (tabInsert (tabErase t k) k v) k = v := by
  induction t with
  | nil => simp [tabErase, tabInsert, tabGet]
  | cons e t ih =>
    obtain ⟨k', v'⟩ := e
    by_cases h : k' = k
    · simp [tabErase, h, ih]
    · simp only [tabErase, h, if_false, tabInsert]
      split
      · simp [tabGet]
      · simp [tabGet, h, ih]

theorem tabGet_tabInsert_ne {α : Type} (d : Nat → α) (t : Tab α) {k j : Nat} (v : α) (hj : j ≠ k) :
    tabGet d (tabInsert t k v) j = tabGet d t j := by
  induction t with
  | nil => simp [tabInsert, tabGet, Ne.symm hj]
  | cons e t ih =>
    obtain ⟨k', v'⟩ := e
    simp only [tabInsert]
    split
    · simp [tabGet, Ne.symm hj]
    · simp [tabGet, ih]

/-- A key reads what was written to it. -/
@[simp] theorem tabGet_tabSet_same {α : Type} [DecidableEq α] (d : Nat → α) (t : Tab α) (k : Nat) (v : α) :
    tabGet d (tabSet d t k v) k = v := by
  unfold tabSet
  split
  · next h => rw [tabGet_tabErase_same, h]
  · exact tabGet_tabInsert_same d t k v

/-- A write leaves every other key. -/
theorem tabGet_tabSet_ne {α : Type} [DecidableEq α] (d : Nat → α) (t : Tab α) {k j : Nat} (v : α) (hj : j ≠ k) :
    tabGet d (tabSet d t k v) j = tabGet d t j := by
  unfold tabSet
  split
  · exact tabGet_tabErase_ne d t hj
  · rw [tabGet_tabInsert_ne d _ v hj, tabGet_tabErase_ne d t hj]

theorem tabGet_tabSet {α : Type} [DecidableEq α] (d : Nat → α) (t : Tab α) (k j : Nat) (v : α) :
    tabGet d (tabSet d t k v) j = if j = k then v else tabGet d t j := by
  split
  · next h => rw [h, tabGet_tabSet_same]
  · next h => exact tabGet_tabSet_ne d t v h

/-! The canonical form. -/

theorem tabWfFrom_cons {α : Type} [DecidableEq α] (d : Nat → α) (lo : Option Nat) (k : Nat) (v : α) (t : Tab α) :
    tabWfFrom d lo ((k, v) :: t) = true ↔ (∀ b, lo = some b → b < k) ∧ v ≠ d k ∧ tabWfFrom d (some k) t = true := by
  cases lo <;> simp [tabWfFrom, and_assoc]

theorem tabWfFrom_weaken {α : Type} [DecidableEq α] (d : Nat → α) {t : Tab α} {k : Nat} {lo : Option Nat}
    (h : tabWfFrom d (some k) t = true) (hlo : ∀ b, lo = some b → b < k) : tabWfFrom d lo t = true := by
  cases t with
  | nil => rfl
  | cons e t =>
    obtain ⟨k', v⟩ := e
    rw [tabWfFrom_cons] at h ⊢
    exact ⟨fun b hb => Nat.lt_trans (hlo b hb) (h.1 k rfl), h.2⟩

theorem tabWfFrom_tabErase {α : Type} [DecidableEq α] (d : Nat → α) (t : Tab α) (k : Nat) (lo : Option Nat)
    (h : tabWfFrom d lo t = true) : tabWfFrom d lo (tabErase t k) = true := by
  induction t generalizing lo with
  | nil => exact h
  | cons e t ih =>
    obtain ⟨k', v⟩ := e
    rw [tabWfFrom_cons] at h
    simp only [tabErase]
    split
    · exact tabWfFrom_weaken d (ih (some k') h.2.2) h.1
    · rw [tabWfFrom_cons]
      exact ⟨h.1, h.2.1, ih (some k') h.2.2⟩

theorem tabWfFrom_tabInsert {α : Type} [DecidableEq α] (d : Nat → α) (t : Tab α) {k : Nat} {v : α} (lo : Option Nat) (hv : v ≠ d k)
    (hk : ∀ b, lo = some b → b < k) (h : tabWfFrom d lo (tabErase t k) = true) :
    tabWfFrom d lo (tabInsert (tabErase t k) k v) = true := by
  induction t generalizing lo with
  | nil =>
    rw [tabErase, tabInsert, tabWfFrom_cons]
    exact ⟨hk, hv, rfl⟩
  | cons e t ih =>
    obtain ⟨k', v'⟩ := e
    by_cases he : k' = k
    · simp only [tabErase, he, if_true] at h ⊢
      exact ih lo hk h
    · simp only [tabErase, he, if_false] at h ⊢
      rw [tabWfFrom_cons] at h
      simp only [tabInsert]
      split
      · next hlt =>
        rw [tabWfFrom_cons, tabWfFrom_cons]
        exact ⟨hk, hv, fun b hb => by cases hb; exact hlt, h.2⟩
      · next hlt =>
        rw [tabWfFrom_cons]
        refine ⟨h.1, h.2.1, ih (some k') (fun b hb => ?_) h.2.2⟩
        cases hb
        omega

/-- A write keeps the canonical form. -/
theorem tabWf_tabSet {α : Type} [DecidableEq α] (d : Nat → α) (t : Tab α) (k : Nat) (v : α) (h : tabWf d t = true) :
    tabWf d (tabSet d t k v) = true := by
  have he : tabWfFrom d none (tabErase t k) = true := tabWfFrom_tabErase d t k none h
  unfold tabSet
  split
  · exact he
  · next hv => exact tabWfFrom_tabInsert d t none hv (fun _ hb => by cases hb) he

/-- Leaving entries out keeps the canonical form. -/
theorem tabWfFrom_filter {α : Type} [DecidableEq α] (d : Nat → α) (p : Nat × α → Bool) (t : Tab α) (lo : Option Nat)
    (h : tabWfFrom d lo t = true) : tabWfFrom d lo (t.filter p) = true := by
  induction t generalizing lo with
  | nil => exact h
  | cons e t ih =>
    obtain ⟨k, v⟩ := e
    rw [tabWfFrom_cons] at h
    rw [List.filter_cons]
    split
    · rw [tabWfFrom_cons]
      exact ⟨h.1, h.2.1, ih (some k) h.2.2⟩
    · exact tabWfFrom_weaken d (ih (some k) h.2.2) h.1

theorem tabWf_filter {α : Type} [DecidableEq α] (d : Nat → α) (p : Nat × α → Bool) (t : Tab α) (h : tabWf d t = true) :
    tabWf d (t.filter p) = true := tabWfFrom_filter d p t none h

theorem tabWf_nil {α : Type} [DecidableEq α] (d : Nat → α) : tabWf d ([] : Tab α) = true := rfl

theorem mem_tabErase {α : Type} {t : Tab α} {k : Nat} {e : Nat × α} (h : e ∈ tabErase t k) : e ∈ t := by
  induction t with
  | nil => exact h
  | cons x t ih =>
    obtain ⟨k', v⟩ := x
    simp only [tabErase] at h
    split at h
    · exact List.mem_cons_of_mem _ (ih h)
    · rcases List.mem_cons.mp h with rfl | h
      · exact List.mem_cons_self
      · exact List.mem_cons_of_mem _ (ih h)

theorem mem_tabInsert {α : Type} {t : Tab α} {k : Nat} {v : α} {e : Nat × α} (h : e ∈ tabInsert t k v) : e = (k, v) ∨ e ∈ t := by
  induction t with
  | nil => exact .inl (List.mem_singleton.mp h)
  | cons x t ih =>
    obtain ⟨k', v'⟩ := x
    simp only [tabInsert] at h
    split at h
    · exact List.mem_cons.mp h
    · rcases List.mem_cons.mp h with rfl | h
      · exact .inr List.mem_cons_self
      · exact (ih h).imp_right (List.mem_cons_of_mem _)

/-- An entry of a written table is the one written or was there before. -/
theorem mem_tabSet {α : Type} [DecidableEq α] {d : Nat → α} {t : Tab α} {k : Nat} {v : α} {e : Nat × α}
    (h : e ∈ tabSet d t k v) : e = (k, v) ∨ e ∈ t := by
  unfold tabSet at h
  split at h
  · exact .inr (mem_tabErase h)
  · exact (mem_tabInsert h).imp_right mem_tabErase

/-- A property of the default and of every entry holds of whatever a key reads as. -/
theorem tabGet_of_mem {α : Type} {d : Nat → α} {P : α → Prop} (t : Tab α) (k : Nat) (hd : P (d k)) (ht : ∀ e ∈ t, P e.2) :
    P (tabGet d t k) := by
  induction t with
  | nil => exact hd
  | cons e t ih =>
    obtain ⟨k', v⟩ := e
    simp only [tabGet]
    split
    · exact ht (k', v) List.mem_cons_self
    · exact ih fun x hx => ht x (List.mem_cons_of_mem _ hx)

/-! Bit fields. -/

theorem getLsbD_maskBits (hi lo i : Nat) (hh : hi < 64) (hl : lo ≤ hi) :
    (maskBits hi lo).getLsbD i = (decide (lo ≤ i) && decide (i ≤ hi)) := by
  unfold maskBits
  rw [BitVec.getLsbD_ofNat, Nat.testBit_mul_two_pow, Nat.testBit_two_pow_sub_one]
  by_cases h1 : lo ≤ i <;> by_cases h2 : i ≤ hi <;> simp [h1, h2] <;> omega

theorem putBits_getLsbD (w : DWord) (hi lo v i : Nat) (hh : hi < 64) (hl : lo ≤ hi) :
    (putBits w hi lo v).getLsbD i = if lo ≤ i ∧ i ≤ hi then v.testBit (i - lo) else w.getLsbD i := by
  unfold putBits
  rw [BitVec.getLsbD_or, BitVec.getLsbD_and, BitVec.getLsbD_and, BitVec.getLsbD_not, getLsbD_maskBits hi lo i hh hl, BitVec.getLsbD_ofNat,
    Nat.testBit_mul_two_pow]
  by_cases h : lo ≤ i ∧ i ≤ hi
  · have : i < 64 := by omega
    simp [h, this]
  · rw [if_neg h]
    by_cases hi64 : i < 64
    · have : (decide (lo ≤ i) && decide (i ≤ hi)) = false := by simpa using h
      simp [this, hi64]
    · have : w.getLsbD i = false := BitVec.getLsbD_of_ge w i (by omega)
      have : (decide (lo ≤ i) && decide (i ≤ hi)) = false := by simpa using h
      simp [*]

theorem getBits_testBit (w : DWord) (hi lo i : Nat) : (getBits w hi lo).testBit i = (decide (i < hi + 1 - lo) && w.getLsbD (lo + i)) := by
  unfold getBits bitsOf
  rw [Nat.testBit_mod_two_pow, Nat.testBit_div_two_pow]
  simp [BitVec.getLsbD, Nat.add_comm]

theorem getBits_lt (w : DWord) (hi lo : Nat) : getBits w hi lo < 2 ^ (hi + 1 - lo) := Nat.mod_lt _ (Nat.two_pow_pos _)

/-- A field reads what was put into it, cut to its width. -/
theorem getBits_putBits_same (w : DWord) (hi lo v : Nat) (hh : hi < 64) (hl : lo ≤ hi) :
    getBits (putBits w hi lo v) hi lo = v % 2 ^ (hi + 1 - lo) := by
  apply Nat.eq_of_testBit_eq
  intro i
  rw [getBits_testBit, Nat.testBit_mod_two_pow, putBits_getLsbD w hi lo v _ hh hl]
  by_cases h : i < hi + 1 - lo
  · have h1 : lo ≤ lo + i ∧ lo + i ≤ hi := by omega
    simp [h, h1]
  · simp [h]

/-- A field outside the bits written keeps its value. -/
theorem getBits_putBits_ne (w : DWord) (hi lo v hi' lo' : Nat) (hh : hi < 64) (hl : lo ≤ hi) (hd : hi < lo' ∨ hi' < lo) :
    getBits (putBits w hi lo v) hi' lo' = getBits w hi' lo' := by
  apply Nat.eq_of_testBit_eq
  intro i
  rw [getBits_testBit, getBits_testBit, putBits_getLsbD w hi lo v _ hh hl]
  by_cases h : i < hi' + 1 - lo'
  · have h1 : ¬ (lo ≤ lo' + i ∧ lo' + i ≤ hi) := by omega
    rw [if_neg h1]
  · simp [h]

end Sys2Proof.Machine
end

