-- ==== Sys2Proof/Laws/Ops.lean ====
section
/-! SUPPORT. One law per named operation: what a register, a field, a cell, a queue and a byte read as after each update, and what each
update leaves unchanged. -/

namespace Sys2Proof.Machine

/-! Registers. -/

@[simp] theorem State.reg_setReg_same (s : State) (r : RegId) (v : DWord) (ix : List Nat) : (s.setReg r v ix).reg r ix = v := by
  simp [State.reg, State.setReg]

theorem State.reg_setReg_ne (s : State) (r r' : RegId) (v : DWord) (ix ix' : List Nat) (h : r'.addr ix' ≠ r.addr ix) :
    (s.setReg r v ix).reg r' ix' = s.reg r' ix' := by
  simp [State.reg, State.setReg, tabGet_tabSet_ne _ _ _ h]

theorem State.fld_setReg_same (s : State) (f : Fld) (v : DWord) (ix : List Nat) :
    (s.setReg f.reg v ix).fld f ix = getBits v f.hi f.lo := by simp [State.fld]

theorem State.fld_setReg_ne (s : State) (r : RegId) (f : Fld) (v : DWord) (ix ix' : List Nat) (h : f.reg.addr ix' ≠ r.addr ix) :
    (s.setReg r v ix).fld f ix' = s.fld f ix' := by simp [State.fld, s.reg_setReg_ne _ _ _ _ _ h]

/-- A field reads what was written to it, cut to its width. -/
theorem State.fld_setFld_same (s : State) (f : Fld) (v : Nat) (ix : List Nat) (hh : f.hi < 64) (hl : f.lo ≤ f.hi) :
    (s.setFld f v ix).fld f ix = v % 2 ^ (f.hi + 1 - f.lo) := by
  rw [State.setFld_eq, State.fld_setReg_same, getBits_putBits_same _ _ _ _ hh hl]

/-- A field of another register, or of other bits, keeps its value. -/
theorem State.fld_setFld_ne (s : State) (f g : Fld) (v : Nat) (ix ix' : List Nat) (hh : f.hi < 64) (hl : f.lo ≤ f.hi)
    (h : g.reg.addr ix' ≠ f.reg.addr ix ∨ f.hi < g.lo ∨ g.hi < f.lo) : (s.setFld f v ix).fld g ix' = s.fld g ix' := by
  rw [State.setFld_eq]
  by_cases ha : g.reg.addr ix' = f.reg.addr ix
  · have hd : f.hi < g.lo ∨ g.hi < f.lo := h.resolve_left (fun hn => hn ha)
    have hr : s.reg g.reg ix' = s.reg f.reg ix := by simp [State.reg, ha]
    have : (s.setReg f.reg (putBits (s.reg f.reg ix) f.hi f.lo v) ix).reg g.reg ix' = putBits (s.reg f.reg ix) f.hi f.lo v := by
      simp [State.reg, State.setReg, ha]
    unfold State.fld
    rw [this, hr, getBits_putBits_ne _ _ _ _ _ _ hh hl hd]
  · exact State.fld_setReg_ne s f.reg g _ ix ix' ha

/-- A counting field holds at its maximum. -/
theorem State.fld_count_same (s : State) (f : Fld) (inc : Nat) (ix : List Nat) (hh : f.hi < 64) (hl : f.lo ≤ f.hi) :
    (s.count f inc ix).fld f ix = satAdd (f.hi + 1 - f.lo) (s.fld f ix) inc := by
  have hb : s.fld f ix < 2 ^ (f.hi + 1 - f.lo) := getBits_lt _ _ _
  unfold State.count
  split
  · next h =>
    simp only [satAdd, h, Nat.add_zero]
    exact (Nat.min_eq_left (by omega)).symm
  · rw [State.fld_setFld_same s f _ ix hh hl]
    apply Nat.mod_eq_of_lt
    have : satAdd (f.hi + 1 - f.lo) (s.fld f ix) inc ≤ 2 ^ (f.hi + 1 - f.lo) - 1 := Nat.min_le_right _ _
    omega

theorem State.fld_count_ne (s : State) (f g : Fld) (inc : Nat) (ix ix' : List Nat) (hh : f.hi < 64) (hl : f.lo ≤ f.hi)
    (h : g.reg.addr ix' ≠ f.reg.addr ix ∨ f.hi < g.lo ∨ g.hi < f.lo) : (s.count f inc ix).fld g ix' = s.fld g ix' := by
  unfold State.count
  split
  · rfl
  · exact State.fld_setFld_ne s f g _ ix ix' hh hl h

/-! Frames over registers. -/

theorem RegsBut.refl (l : List (Fld × List Nat)) (s : State) : RegsBut l s s := fun _ _ _ => rfl

theorem RegsBut.trans {l : List (Fld × List Nat)} {s t u : State} (h : RegsBut l s t) (h' : RegsBut l t u) : RegsBut l s u :=
  fun a i hx => (h' a i hx).trans (h a i hx)

theorem RegsBut.mono {l l' : List (Fld × List Nat)} {s t : State} (h : RegsBut l s t) (hs : ∀ x ∈ l, x ∈ l') : RegsBut l' s t :=
  fun a i hx => h a i fun x hm => hx x (hs x hm)

theorem RegsBut.of_regs {l : List (Fld × List Nat)} {s t : State} (h : t.regs = s.regs) : RegsBut l s t := by
  intro a i _
  simp [State.regBit, h]

/-- Writing a field changes no bit outside it. -/
theorem regsBut_setFld (s : State) (f : Fld) (v : Nat) (ix : List Nat) (hh : f.hi < 64) (hl : f.lo ≤ f.hi) :
    RegsBut [(f, ix)] s (s.setFld f v ix) := by
  intro a i hx
  have h := hx (f, ix) List.mem_cons_self
  by_cases ha : a = f.reg.addr ix
  · subst ha
    have hi : ¬ (f.lo ≤ i ∧ i ≤ f.hi) := by
      have hx : i < f.lo ∨ f.hi < i := h rfl
      omega
    simp only [State.regBit, State.setFld, State.setReg, tabGet_tabSet_same, putBits_getLsbD _ _ _ _ _ hh hl, if_neg hi, State.reg]
  · simp [State.regBit, State.setFld, State.setReg, tabGet_tabSet_ne _ _ _ ha]

theorem regsBut_count (s : State) (f : Fld) (inc : Nat) (ix : List Nat) (hh : f.hi < 64) (hl : f.lo ≤ f.hi) :
    RegsBut [(f, ix)] s (s.count f inc ix) := by
  unfold State.count
  split
  · exact RegsBut.refl _ _
  · exact regsBut_setFld s f _ ix hh hl

/-- Writing one field, where the value fits, sets that field and changes nothing else of the module. -/
theorem setsOnly_setFld (s : State) (f : Fld) (v : Nat) (ix : List Nat) (hh : f.hi < 64) (hl : f.lo ≤ f.hi)
    (hv : v < 2 ^ (f.hi + 1 - f.lo)) : SetsOnly [(f, ix, v)] s (s.setFld f v ix) := by
  refine ⟨rfl, ?_, regsBut_setFld s f v ix hh hl⟩
  intro x hx
  rw [List.mem_singleton.mp hx, State.fld_setFld_same s f v ix hh hl, Nat.mod_eq_of_lt hv]

/-! Cells, queues and sequencers. -/

@[simp] theorem State.cell_setCell_same (s : State) (p : Nat) (c : Cell) : (s.setCell p c).cell p = c := by
  simp [State.cell, State.setCell]

theorem State.cell_setCell_ne (s : State) {p p' : Nat} (c : Cell) (h : p' ≠ p) : (s.setCell p c).cell p' = s.cell p' := by
  simp [State.cell, State.setCell, tabGet_tabSet_ne _ _ _ h]

@[simp] theorem State.cell_onCell_same (s : State) (p : Nat) (f : Cell → Cell) : (s.onCell p f).cell p = f (s.cell p) := by
  simp [State.onCell]

theorem State.cell_onCell_ne (s : State) {p p' : Nat} (f : Cell → Cell) (h : p' ≠ p) : (s.onCell p f).cell p' = s.cell p' :=
  s.cell_setCell_ne _ h

theorem cellsBut_onCell (s : State) (p : Nat) (f : Cell → Cell) : CellsBut p s (s.onCell p f) := fun _ h => s.cell_onCell_ne f h

@[simp] theorem State.queue_setQueue_same (s : State) (q : Nat) (v : QueueSt) : (s.setQueue q v).queue q = v := by
  simp [State.queue, State.setQueue]

theorem State.queue_setQueue_ne (s : State) {q q' : Nat} (v : QueueSt) (h : q' ≠ q) : (s.setQueue q v).queue q' = s.queue q' := by
  simp [State.queue, State.setQueue, tabGet_tabSet_ne _ _ _ h]

@[simp] theorem State.seq_setSeq_same (s : State) (n : Nat) (v : SeqSt) : (s.setSeq n v).seq n = v := by
  simp [State.seq, State.setSeq]

@[simp] theorem State.shelf_setShelf_same (s : State) (g : Nat) (v : ShelfSt) : (s.setShelf g v).shelf g = v := by
  simp [State.shelf, State.setShelf]

/-! Bytes. -/

theorem tabGet_tabWrite_out (t : Tab Byte) (a : Nat) (bs : List Byte) (x : Nat) (h : x < a ∨ a + bs.length ≤ x) :
    tabGet memReset (tabWrite t a bs) x = tabGet memReset t x := by
  induction bs generalizing t a with
  | nil => rfl
  | cons b bs ih =>
    rw [List.length_cons] at h
    rw [tabWrite, ih _ (a + 1) (by omega), tabGet_tabSet_ne _ _ _ (by omega)]

theorem tabGet_tabWrite_in (t : Tab Byte) (a : Nat) (bs : List Byte) (i : Nat) (h : i < bs.length) :
    tabGet memReset (tabWrite t a bs) (a + i) = bs[i] := by
  induction bs generalizing t a i with
  | nil => exact absurd h (Nat.not_lt_zero _)
  | cons b bs ih =>
    cases i with
    | zero => rw [tabWrite, tabGet_tabWrite_out _ _ _ _ (by omega)]; simp
    | succ i =>
      have := ih (tabSet memReset t a b) (a + 1) i (by simpa using h)
      rw [tabWrite, ← Nat.add_assoc, Nat.add_right_comm, this]
      simp

theorem length_tabRead (t : Tab Byte) (n a : Nat) : (tabRead t n a).length = n := by
  induction n generalizing a with
  | zero => rfl
  | succ n ih => simp [tabRead, ih]

theorem tabRead_getElem (t : Tab Byte) (n a i : Nat) (h : i < (tabRead t n a).length) : (tabRead t n a)[i] = tabGet memReset t (a + i) := by
  induction n generalizing a i with
  | zero => simp [tabRead] at h
  | succ n ih =>
    cases i with
    | zero => simp [tabRead]
    | succ i =>
      simp only [tabRead, List.getElem_cons_succ]
      rw [ih, Nat.add_right_comm, Nat.add_assoc]

/-- Reading back a written span gives the bytes written. -/
theorem tabRead_tabWrite (t : Tab Byte) (a : Nat) (bs : List Byte) : tabRead (tabWrite t a bs) bs.length a = bs := by
  apply List.ext_getElem
  · exact length_tabRead _ _ _
  · intro i h1 h2
    rw [tabRead_getElem, tabGet_tabWrite_in _ _ _ _ h2]

theorem wf_tabWrite (t : Tab Byte) (a : Nat) (bs : List Byte) (h : Memory.wf t) : Memory.wf (tabWrite t a bs) := by
  induction bs generalizing t a with
  | nil => exact h
  | cons b bs ih => exact ih _ _ (tabWf_tabSet _ _ _ _ h)

@[simp] theorem Cell.write_mem (c : Cell) (a : Nat) (bs : List Byte) : (c.write a bs).mem = tabWrite c.mem a bs := rfl

theorem cellBut_write (c : Cell) (a : Nat) (bs : List Byte) : CellBut a bs.length c (c.write a bs) :=
  fun x h => tabGet_tabWrite_out c.mem a bs x h

/-! Device memory. -/

/-- The place of an address depends on the registers and the part alone. -/
theorem State.place_congr {s t : State} (hp : t.part = s.part) (hr : t.regs = s.regs) (a : Nat) : t.place a = s.place a := by
  unfold State.place State.cellOf State.serves State.cfld State.fld State.reg
  rw [hp, hr]

theorem State.cellOf_congr {s t : State} (hr : t.regs = s.regs) (c : Nat) : t.cellOf c = s.cellOf c := by
  unfold State.cellOf State.serves State.cfld State.fld State.reg
  rw [hr]

@[simp] theorem State.devSet_regs (s : State) (a : Nat) (b : Byte) : (s.devSet a b).regs = s.regs := by
  unfold State.devSet
  repeat' (first | rfl | split)
@[simp] theorem State.devSet_part (s : State) (a : Nat) (b : Byte) : (s.devSet a b).part = s.part := by
  unfold State.devSet
  repeat' (first | rfl | split)
@[simp] theorem State.devSet_host (s : State) (a : Nat) (b : Byte) : (s.devSet a b).host = s.host := by
  unfold State.devSet
  repeat' (first | rfl | split)

/-- A device write changes nothing but device memory and cell memory. -/
theorem State.devSet_frame (s : State) (a : Nat) (b : Byte) :
    s.devSet a b = { s with mem := (s.devSet a b).mem, cells := (s.devSet a b).cells } := by
  unfold State.devSet
  repeat' (first | rfl | split)

theorem State.devWrite_frame (s : State) (a : Nat) (bs : List Byte) :
    s.devWrite a bs = { s with mem := (s.devWrite a bs).mem, cells := (s.devWrite a bs).cells } := by
  induction bs generalizing s a with
  | nil => rfl
  | cons b bs ih =>
    rw [State.devWrite, ih (s.devSet a b) (a + 1)]
    rw [State.devSet_frame s a b]

/-! The canonical form of memory. -/

theorem State.MemOk.of_eq {s t : State} (h : s.MemOk) (hm : t.mem = s.mem) (hh : t.host = s.host) (hc : t.cells = s.cells) : t.MemOk := by
  unfold State.MemOk
  rw [hm, hh, hc]
  exact h

theorem cellReset_wf (k : Nat) : Memory.wf (cellReset k).mem := rfl

theorem State.MemOk.cell {s : State} (h : s.MemOk) (p : Nat) : Memory.wf (s.cell p).mem :=
  tabGet_of_mem (P := fun c : Cell => Memory.wf c.mem) s.cells p (cellReset_wf p) h.2.2

theorem State.MemOk.setCell {s : State} (h : s.MemOk) (p : Nat) {c : Cell} (hc : Memory.wf c.mem) : (s.setCell p c).MemOk := by
  refine ⟨h.1, h.2.1, fun e he => ?_⟩
  rcases mem_tabSet he with rfl | he
  · exact hc
  · exact h.2.2 e he

theorem State.MemOk.onCell {s : State} (h : s.MemOk) (p : Nat) {f : Cell → Cell} (hf : Memory.wf (f (s.cell p)).mem) :
    (s.onCell p f).MemOk := h.setCell p hf

theorem State.MemOk.cwrite {s : State} (h : s.MemOk) (p a : Nat) (bs : List Byte) : (s.cwrite p a bs).MemOk :=
  h.onCell p (wf_tabWrite _ _ _ (h.cell p))

/-- Every write of device memory keeps the canonical form. -/
theorem State.MemOk.devSet {s : State} (h : s.MemOk) (a : Nat) (b : Byte) : (s.devSet a b).MemOk := by
  unfold State.devSet
  split
  · exact h
  · split
    · next p _ => exact h.onCell p (tabWf_tabSet _ _ _ _ (h.cell p))
    · exact h
  · exact ⟨tabWf_tabSet _ _ _ _ h.1, h.2⟩

theorem State.MemOk.devWrite {s : State} (h : s.MemOk) (a : Nat) (bs : List Byte) : (s.devWrite a bs).MemOk := by
  induction bs generalizing s a with
  | nil => exact h
  | cons b bs ih => exact ih (h.devSet a b) (a + 1)

/-- What an unmapped address and an unlisted byte leave: a write to one device byte changes no other. -/
theorem State.devByte_devSet_mem (s : State) (a x : Nat) (b : Byte) (hw : ∀ c o, s.place x ≠ .window c o) (h : x ≠ a) :
    (s.devSet a b).devByte x = s.devByte x := by
  have hp : (s.devSet a b).place x = s.place x := State.place_congr (by simp) (by simp) x
  unfold State.devByte
  rw [hp]
  cases hx : s.place x with
  | window c o => exact absurd hx (hw c o)
  | hole => rfl
  | _ =>
    simp only
    unfold State.devSet
    split
    · rfl
    · split <;> rfl
    · exact tabGet_tabSet_ne _ _ _ h

/-! The host path (R14, R471, R473, R474). -/

theorem State.dropHeld_none {s : State} (h : s.bus.held = none) : s.dropHeld = s := by
  unfold State.dropHeld
  rw [h]

/-- With the link up, the module ready and no word held, a register write is its effect. -/
theorem State.hostWriteAt_up {s : State} (h : s.HostUp) (off : Nat) (f : State → State) : s.hostWriteAt off f = f s := by
  unfold State.hostWriteAt
  rw [State.dropHeld_none h.2.2, h.1, h.2.1]
  rfl

theorem State.hostTail_up {s : State} (h : s.HostUp) (f : State → State) : s.hostTail f = f s := by
  unfold State.hostTail
  rw [State.dropHeld_none h.2.2, h.1]
  rfl

/-- Nothing arrives while the link is down or before the configuration stage (R471, R473). -/
theorem State.hostWriteAt_down {s : State} (h : s.hostUp = false) (off : Nat) (f : State → State) : s.hostWriteAt off f = s := by
  simp [State.hostWriteAt, h]

/-- Outside the open blocks a write is discarded and counted while ready is 0 (R474). -/
theorem State.hostWriteAt_unready {s : State} (hl : s.hostUp = true) (hr : s.ready = false) (hh : s.bus.held = none) (off : Nat)
    (ho : hostOpen off = false) (f : State → State) : s.hostWriteAt off f = s.countReserved true false off := by
  unfold State.hostWriteAt
  rw [State.dropHeld_none hh, hl, hr, ho]
  rfl

end Sys2Proof.Machine
end

