-- ==== Sys2Proof/Laws/Words.lean ====
section
/-! SUPPORT. What a received Shodo word can do: the next of its sequence acts, a lost one does nothing, and one that skips is a fault. -/

namespace Sys2Proof.Machine

@[simp] theorem State.port_setPort_same (s : State) (a : Nat) (v : PortSt) : (s.setPort a v).port a = v := by
  simp [State.port, State.setPort]

theorem State.port_setPort_ne (s : State) (a b : Nat) (v : PortSt) (h : b ≠ a) : (s.setPort a v).port b = s.port b := by
  simp [State.port, State.setPort, tabGet_tabSet_ne _ _ _ h]

@[simp] theorem State.setPort_regs (s : State) (a : Nat) (v : PortSt) : (s.setPort a v).regs = s.regs := rfl

/-- The next word of a sequence is noted and acts (R437). -/
theorem State.takeWord_next {s : State} {a : Nat} {seq : BitVec 16} (h : s.WordNext a seq) (act : State → State) :
    s.takeWord a seq act = act (s.setPort a { s.port a with got := some seq.toNat }) := by
  obtain ⟨up, next⟩ := h
  unfold State.takeWord
  cases g : (s.port a).got with
  | none => simp [up]
  | some l => simp [up, next l g]

/-- A word that is lost leaves the state as it is (R437, R441). -/
theorem State.takeWord_lost {s : State} {a : Nat} {seq : BitVec 16} (h : s.WordLost a seq) (act : State → State) :
    s.takeWord a seq act = s := by
  unfold State.takeWord
  rcases h with down | ⟨l, g, behind⟩
  · simp [down]
  · have : (seq.toNat + 65536 - l) % 65536 ≠ 1 := by omega
    simp [g, this, behind]

/-- A word that skips others is a control-word fault (R437, R441). -/
theorem State.takeWord_skip {s : State} {a : Nat} {seq : BitVec 16} (hl : ¬ s.WordLost a seq) (hn : ¬ s.WordNext a seq)
    (act : State → State) : s.takeWord a seq act = ((s.count .portCountCtrlFaults 1 [a]).relockPort a).barrierGo := by
  have up : s.portUp a = true := by
    cases u : s.portUp a with
    | true => rfl
    | false => exact absurd (.inl u) hl
  unfold State.takeWord
  cases g : (s.port a).got with
  | none => exact absurd ⟨up, fun l h => by simp [g] at h⟩ hn
  | some l =>
    have skips : (seq.toNat + 65536 - l) % 65536 ≠ 1 := fun e => hn ⟨up, fun k h => by rw [g] at h; cases h; exact e⟩
    have ahead : ¬ ((seq.toNat + 65536 - l) % 65536 = 0 ∨ 32768 ≤ (seq.toNat + 65536 - l) % 65536) := fun b => hl (.inr ⟨l, g, b⟩)
    simp only [up, Bool.not_true, Bool.false_eq_true, if_false, skips, ahead]

end Sys2Proof.Machine
end

