-- ==== Sys2Proof/WellFormed.lean ====
section
/-! DEFINITION. Which commands are well formed: the operands that the types leave too wide. A command that is not well formed stands for
no step of the part; its meaning is still total. -/

namespace Sys2Proof

/-- A BAR0 access of 32 or 64 bits, aligned (R13, R17). -/
def alignedAccess (off : BitVec 28) (wide : Bool) : Bool := off.toNat % (if wide then 8 else 4) == 0

/-- The rings of an engine (R290, R298, R334). -/
def ringExists (e : RingEngine) (n : Nat) : Bool :=
  match e with
  | .kcx => decide (n < 16)
  | _ => decide (n < 8)

/-- A work list that a thaw window can bring: laser modules 0 to 15, physical cells 0 to 35 (R402, R455). -/
def workOk (w : ThawWork) : Bool := (w.lasers.all fun r => decide (r.laser < 16)) && w.failedSpares.all fun p => decide (p < 36)

/-- The command can be a step of the part. -/
def Instr.wf : Instr → Bool
  | .registerWrite off wide _ _ _ => alignedAccess off wide
  | .readClear off wide _ => alignedAccess off wide
  | .split64Access off _ _ => alignedAccess off false
  | .reservedAccess off wide _ _ => alignedAccess off wide
  | .misalignedAccess off bytes _ => decide (0 < bytes) && !((bytes == 4 || bytes == 8) && off.toNat % bytes == 0)
  | .bar2Access off len data =>
    let n := match data with | some bs => bs.length | none => len
    decide (0 < n) && decide (off.toNat + n ≤ 2 ^ 36)
  | .ringCfgWrite e n _ => ringExists e n
  | .ringFlush e n => ringExists e n
  | .ringResume e n => ringExists e n
  | .shelfAttached _ size _ => decide (size.toNat ≤ 4096)
  | .segmentComplete _ _ g => g.data.length == (g.flits.toNat + 1) * 64
  | .mailboxReadData _ data => data.length == 16
  | .thawWindowOpen _ w => workOk w
  | .thawWindowForced _ w => workOk w
  | .stashSession _ pages _ data => decide (0 < pages) && decide (pages ≤ 256) && data.length == pages * 4096
  | .islandFirmwareUpdate ident _ _ => ident.length == 16
  | .spareSwitch _ lane _ => decide ((lane : Nat) ≠ 7)
  | _ => true

end Sys2Proof
end

