-- ==== Sys2Proof/Tests/Slice0.lean ====
section
/-! SUPPORT. Tests: ill-formed commands that the check refuses, small steps with results taken from the spec, and a witness for the
hypotheses of every statement. -/

namespace Sys2Proof.Tests.Slice0

open Sys2Proof Sys2Proof.Machine

set_option Elab.async false

/-! States and structures of the tests. -/

/-- A state with some register fields set. -/
def withRegs (l : List (Fld × List Nat × Nat)) (s : State) : State := l.foldl (fun s x => s.setFld x.1 x.2.2 x.2.1) s

/-- The reset state with some register fields set. -/
def st (l : List (Fld × List Nat × Nat)) : State := withRegs l State.reset

/-- The same on a module that is ready, its lasers lit. -/
def up (l : List (Fld × List Nat × Nat)) : State := st ([(.hubReadyReady, [], 1), (.hubReadyConfig, [], 1), (.hubReadyOptics, [], 1)] ++ l)

/-- A structure of n bits from fields: byte offset, low bit, value. -/
def bitsRec (n : Nat) (l : List (Nat × Nat × Nat)) : BitVec n := BitVec.ofNat n (l.foldl (fun r x => r + x.2.2 * 2 ^ (8 * x.1 + x.2.1)) 0)

/-- Bytes at an address. -/
def at_ (a : Nat) (bs : List Byte) : Tab Byte := ((List.range bs.length).zip bs).filterMap fun x => if x.2 = 0 then none else some (a + x.1, x.2)

/-- A state whose device memory holds structures. -/
def withMem (l : List (Nat × List Byte)) (s : State) : State := { s with mem := l.flatMap fun x => at_ x.1 x.2 }

/-- The start of hub store. -/
def hs : Nat := 0x300080000000

/-- A structure with the CRC of its other bytes at 0x3C (R220, R222, R229). -/
def crcRec (n : Nat) (l : List (Nat × Nat × Nat)) : BitVec n :=
  let b := leBytes (n / 8) (bitsRec n l).toNat
  bitsRec n ((0x3C, 0, crc32c (b.take 0x3C ++ b.drop 0x40)) :: l)

/-- A cell command and a cell that runs it. -/
def cmd (mode : Mode) : CellCmd := ⟨5, 0, 0, mode, 0, some 0, false, 4, 4, [], 0, false, 0, false, false⟩
def live (mode : Mode) (c : Cell) : Cell := { c with cmd := some (cmd mode), run := { SeqRun.reset with state := .running } }

/-- A state with one cell. -/
def onCell (p : Nat) (c : Cell) (s : State) : State := s.setCell p c

/-- A queued cell instruction. -/
def ins (op : Nat) (l : List (Nat × Nat × Nat)) : QIns := ⟨7, 2, 3, 4, op, 0, bitsRec 1024 l, 0, false⟩

/-! The step, reset and the registers. -/

theorem witness_IdleStepIsOneCycle : State.reset.pending = [] ∧ (st [(.pwrStateCurrent, [], 3)]).pending = [] := by decide +kernel

theorem witness_EveryStepKeepsMemoryCanonical : State.reset.MemOk ∧ ∃ t, step State.reset = .next t :=
  ⟨⟨by decide, by decide, by decide⟩, _, rfl⟩

theorem witness_EveryCommandKeepsPartAndQueue : ∃ t, exec (.memClearDone 35) State.reset = .next t := ⟨_, rfl⟩

theorem witness_RegisterWritesFollowTheAccessCodes :
    (up []).HostUp ∧ RegId.addr .sttCfg [] % 4 = 0 ∧ barWord (RegId.addr .sttCfg []) = .single .sttCfg [] ∧ RegId.sttCfg ∈ storedRegs ∧
      barWord (RegId.addr .motCount []) = .single .motCount [] ∧ RegId.motCount ∈ storedRegs := by decide +kernel

theorem witness_ReadsClearRcFields :
    (up []).linkUp = true ∧ (up []).ready = true ∧ barWord (RegId.addr .pwrCount []) = .single .pwrCount [] ∧
      RegId.addr .pwrCount [] % 4 = 0 := by decide +kernel

theorem witness_HalvesOfARegisterActAsOne :
    (up []).HostUp ∧ 0x10 % 8 = 0 ∧ barWord 0x10 = .low .hubProfile [] ∧ barWord 0x14 = .high .hubProfile [] ∧
      RegId.islandOnly .hubProfile = false ∧ RegId.islandOnly .mtrTotal = true ∧ RegId.addr .mtrTotal [] % 8 = 0 ∧
      barWord (RegId.addr .mtrTotal []) = .low .mtrTotal [] ∧ barWord (RegId.addr .mtrTotal [] + 4) = .high .mtrTotal [] := by decide +kernel

theorem witness_ReservedSpaceReadsZeroAndIsCounted :
    (up []).hostUp = true ∧ (up []).bus.held = none ∧ barWord 0xFFFFFFC = .reserved ∧ barWord 0xFFFFFF8 = .reserved ∧
      0xFFFFFF8 % 8 = 0 ∧ barWord 0x24 = .reserved := by decide +kernel

theorem witness_MisalignedAccessesReadOnesAndAreCounted :
    (up []).hostUp = true ∧ (up []).bus.held = none ∧ ((2 ≠ 4 ∧ 2 ≠ 8) ∨ 0x20 % 2 ≠ 0) ∧ 0x22 % 4 ≠ 0 ∧ 0x24 % 8 ≠ 0 ∧
      inMsix 0x22 = false ∧ inMsix 0x1307FFF = false ∧ inMsix 0x1308810 = false ∧ inMsix 0x1308001 = true ∧ 0x1308001 % 4 ≠ 0 := by
  decide +kernel

theorem witness_ApertureReachesMemoryAndSkipsHoles :
    let s := up [(.apertureBase, [], 0x400)]
    s.linkUp = true ∧ s.bar2Base 0xFFFFFFFFF = 0x10FFFFFFFFF ∧
      (∀ i < 64, ∀ g < 2, shelfWindow (s.bar2Base 0 + i) = some g → s.shelfShut g = false) ∧
      (∀ i < 64, s.bar2Hole (s.bar2Base 0 + i) = false) ∧
      let s := up [(.apertureBase, [], 0x400 - 1)]
      (∀ i < 64, ∀ g < 2, shelfWindow (s.bar2Base 0x3FFFFFE0 + i) = some g → s.shelfShut g = false) ∧
        s.bar2Hole (s.bar2Base 0x3FFFFFE0 + 31) = true ∧ s.bar2Hole (s.bar2Base 0x3FFFFFE0 + 32) = false := by decide +kernel

theorem witness_ApertureReachesMemoryAndSkipsHoles_cell :
    (let s := up [(.apertureBase, [], 0x400)]; ∀ i < 64, s.windowCell (s.bar2Base 0 + i) = none) ∧
      (let s := up [(.apertureBase, [], 0xC000), (.memStatusClearBusy, cellIx 34, 0)]
       s.windowCell (s.bar2Base 0x3F7FFFFC) = some 34 ∧ s.cfld .memStatusClearBusy 34 = 0 ∧ s.bar2Hole (s.bar2Base 0x3F7FFFFC) = false) ∧
      let s := up [(.apertureBase, [], 0xC000)]
      (∀ i < 4, s.place (s.bar2Base 0x3F7FFFFC + i) = .window 31 (0x17FFFFC + i)) ∧ s.cellOf 31 = some 34 ∧
        s.cfld .memStatusClearBusy 34 = 1 ∧ (s.cell 34).cmd = none := by decide +kernel

/-- A shelf group that is not attached, or ends below the access, or waits for a detach, refuses it; an attached one takes it. -/
theorem witness_ApertureReachesMemoryAndSkipsHoles_shelf :
    State.reset.hostUp = false ∧
      (∀ x ∈ [(0, 0, false), (2, 0, true), (2, 1, false)],
        let s := up [(.apertureBase, [], 0x4000), (.shelfStatusState, [0], x.1), (.shelfStatusDetachPending, [0], x.2.1),
          (.shelfStatusSize, [0], 1)]
        s.hostUp = true ∧ shelfWindow (s.bar2Base 0) = some 0 ∧ s.shelfShut 0 = !x.2.2 ∧ s.windowCell (s.bar2Base 0) = none) := by
  decide +kernel

/-- A clear zeroes by rising addresses, 2 KiB in a step, and leaves what is written behind it (R107). -/
theorem test_clear_rises :
    let c := ({ Cell.reset with mem := [(0, 1), (2047, 2), (2048, 3)] } : Cell).clearTo 1
    c.mem = [(2048, 3)] ∧ ((c.write 5 [9]).clearTo 12288).mem = [(5, 9)] := by decide +kernel

theorem witness_UnreadyModuleDiscardsWrites :
    State.reset.bus.held = none ∧ State.reset.hostUp = false ∧ (st [(.hubReadyConfig, [], 1)]).hostUp = true ∧
      (st [(.hubReadyConfig, [], 1)]).ready = false := by decide +kernel

/-! Queues. -/

/-- A queue that is enabled with a ring of 16 entries at the start of hub store. -/
def ring (q : Nat) (l : List (Fld × List Nat × Nat)) : State :=
  up ([(.queCfgEnable, [q], 1), (.queCfgLog2Size, [q], 4), (.queBaseBase, [q], hs / 64), (.queCfgCreditM1, [q], 7)] ++ l)

theorem witness_DoorbellIsTakenOrRefused :
    let s := ring 4095 []
    s.hostUp = true ∧ s.bus.held = none ∧ s.replaying = false ∧ s.recording = false ∧ s.inFlow = true ∧
      (∀ tail ∈ [0, 16], ¬ (((BitVec.ofNat 32 tail - BitVec.ofNat 32 (s.fld .queTailTail [4095])).toInt < 0) ∨
        2 ^ s.fld .queCfgLog2Size [4095] < (BitVec.ofNat 32 tail - BitVec.ofNat 32 (s.fld .queHeadHead [4095])).toNat ∨
        s.fld .queCfgEnable [4095] = 0 ∨ s.ready = false)) ∧
      2 ^ s.fld .queCfgLog2Size [4095] < (17#32 - BitVec.ofNat 32 (s.fld .queHeadHead [4095])).toNat ∧
      (BitVec.ofNat 32 (2 ^ 31) - BitVec.ofNat 32 (s.fld .queTailTail [4095])).toInt < 0 ∧ (up []).fld .queCfgEnable [4095] = 0 ∧
      (st [(.hubReadyConfig, [], 1)]).hostUp = true ∧ (st [(.hubReadyConfig, [], 1)]).ready = false ∧ State.reset.hostUp = false := by
  decide +kernel

theorem witness_DoorbellIsTakenOrRefused_modes :
    (∀ m ∈ [0, 1], let s := ring 4095 [(.rrStatusState, [], 2), (.queCfgAdmitMode, [4095], m)]
      s.hostUp = true ∧ s.replaying = true ∧ s.flag .queCfgAdmitMode [4095] = (m == 1)) ∧
      (ring 4095 [(.pwrStateCurrent, [], 1)]).inFlow = false ∧
      let s := ring 4095 [(.rrStatusState, [], 1)]
      s.recording = true ∧ s.rr.lost = 0 ∧ s.rr.buffer.length < rrDepth ∧ s.inFlow = true := by decide +kernel

theorem witness_QueueFetchesItsNextEntry :
    let e := fun (type : Nat) => crcRec 512 [(0, 0, type), (0, 16, 15), (8, 0, hs + 0x1000)]
    let s := fun (type : Nat) => withMem [(hs + 64 * 15, leBytes 64 (e type).toNat)] (ring 0 [(.queHeadHead, [0], 15), (.queTailTail, [0], 16)])
    (∀ type ∈ [0, 1, 2, 3], (s type).mayFetch 0 = true) ∧
      ∀ type ∈ [0, 1, 2, 3],
        (s type).entryOk 15 (BitVec.ofNat 512 ((s type).devNat ((s type).fld .queBaseBase [0] * 64 + 64 * (15 % 2 ^ (s type).fld .queCfgLog2Size [0])) 64)) =
          decide (type ≠ 3) := by decide +kernel

/-- A bundle of four slots with its check byte (R186). -/
def bundle (a v g sync : Nat) : BitVec 128 :=
  let w := a * 2 ^ 90 + v * 2 ^ 60 + g * 2 ^ 30 + sync
  BitVec.ofNat 128 (w + xorBytes (leBytes 15 w) * 2 ^ 120)

/-- A bundle that holds only END. -/
def endBundle : BitVec 128 := bundle 0 0 0 (7 * 2 ^ 25)

/-- A command descriptor for logical cell 0 of context 0, with image table, status and tally addresses (R222). -/
def desc (l : List (Nat × Nat × Nat)) : BitVec 1024 :=
  crcRec 1024 ([(4, 0, 1), (8, 0, hs + 0x2000), (0x10, 0, hs + 0x3000), (0x34, 0, 9), (0x34, 12, 2)] ++ l)

/-- A module whose queue 0 has an active context and the image of a command at hand. -/
def loadable (d : BitVec 1024) (e : Staged) : State :=
  withMem [(hs + 0x1000, leBytes 128 d.toNat),
    (hs + 0x2000, leBytes 8 (hs + 0x4000) ++ leBytes 2 1 ++ leBytes 2 0 ++ leBytes 4 0 ++ leBytes 8 (digest64 (leBytes 16 endBundle.toNat))),
    (hs + 0x4000, leBytes 16 endBundle.toNat)]
    ((ring 0 [(.ctxStatusState, [0], 2), (.ctxCellsCells, [0], 1), (⟨.cellOwner, 3, 0⟩, [0], 8), (.memStatusClearBusy, [0, 0], 0), (.memStatusClearBusy, [3, 8], 0)]).setQueue 0
      { QueueSt.empty with staged := [e] })

/-- A fresh entry of the queue for the descriptor above. -/
def fresh : Staged := Staged.new 15 1 (hs + 0x1000) 0 false

/-- The descriptor above as a number, and the same with a cell that the context does not own. -/
def desc0 : BitVec 1024 := 2708763728037982787789793796847074454520451922723907165956815533230952993787510772379897424778386020055218385289006026308475040737806345818666654005985280

def desc1 : BitVec 1024 := 2189674896260521345790817545503444778213759968574642896093382280235052159022743199882862433201424575916291777670665442713509473478561214279959032297947136

theorem desc0_eq : desc0 = desc [] := by decide +kernel

theorem desc1_eq : desc1 = desc [(4, 1, 1)] := by decide +kernel

def loadable0 : State := loadable desc0 fresh
def loadable1 : State := loadable desc1 fresh

theorem witness_CommandsAreLoaded_entry : ∀ s ∈ [loadable0, loadable1], s.gated = false ∧ s.loadNext 0 = some fresh ∧
    s.seqHalted (s.qSeq 0) = false ∧ s.loadBusy (s.qSeq 0) = false ∧ fresh.recovering = false ∧ fresh.reload = false ∧
    fresh.dropped = false := by decide +kernel

theorem witness_CommandsAreLoaded_word : BitVec.ofNat 1024 (loadable0.devNat fresh.desc 128) = desc0 ∧
    BitVec.ofNat 1024 (loadable1.devNat fresh.desc 128) = desc1 := by decide +kernel

theorem witness_CommandsAreLoaded_accepted : (loadable0.checkDesc 0 fresh.desc desc0).status = 0 ∧
    loadable0.loadRoom ((maskCells (descMask desc0)).filterMap loadable0.cellOf) = true := by decide +kernel

theorem witness_CommandsAreLoaded_refused : (loadable1.checkDesc 0 fresh.desc desc1).status ≠ 0 := by decide +kernel

/-- An entry of a frame that a watchdog ended, and one whose cell holds a waiting command in its free half. -/
theorem witness_CommandsAreLoaded_waits :
    (let e := { fresh with dropped := true }; (loadable desc0 e).loadNext 0 = some e) ∧
      (loadable desc1 { fresh with dropped := true }).loadNext 0 = some { fresh with dropped := true } ∧
      (let s := onCell 0 { Cell.reset with loaded := some (cmd .fast) } loadable0
       s.loadNext 0 = some fresh ∧ s.loadRoom ((maskCells (descMask desc0)).filterMap s.cellOf) = false) := by decide +kernel

/-- A retry and a recovery command are loaded again, and a recovery descriptor that fails its check is refused. -/
def againEntry (reload recovering : Bool) (run : BitVec 1024) : Staged :=
  { fresh with reload := reload, recovering := recovering, word := desc0, run := run }

theorem witness_CommandsAreLoaded_again :
    (∀ e ∈ [againEntry true false desc0, againEntry false true desc0, againEntry false true 0],
      let s := loadable desc0 e
      s.loadNext 0 = some e ∧ s.seqHalted (s.qSeq 0) = false ∧ s.loadBusy (s.qSeq 0) = false) ∧
    (loadable desc0 (againEntry false true desc0)).checkRecovery 0 desc0 desc0 = 0 ∧
    (loadable desc0 (againEntry false true 0)).checkRecovery 0 0#1024 desc0 ≠ 0 := by decide +kernel

/-- A command whose image of one bundle lies in physical cell 0. -/
def imageCmd : CellCmd := { cmd .fast with bundles := 1, records := 0, digest := 5612820966523636848 }

def imageState : State :=
  onCell 0 { Cell.reset with istore := [(0, endBundle)], loaded := some imageCmd }
    (loadable desc0 { fresh with phase := .loading, loads := [(0, imageCmd)] })

theorem witness_CommandsAreMadeReady_image : loadCheck ((imageState.cell 0).image imageCmd).1 ((imageState.cell 0).image imageCmd).2 = none ∧
    digest64 (imageBytes ((imageState.cell 0).image imageCmd)) = imageCmd.digest := by decide +kernel

theorem witness_CommandsAreMadeReady_entry :
    ((imageState.queue 0).staged.find? fun e => e.phase == .loading && e.kind == 1) = some { fresh with phase := .loading, loads := [(0, imageCmd)] } ∧
      imageState.gated = false ∧ imageState.maintained 0 fresh.frame = false := by decide +kernel

/-- An image with a wrong check byte, and one with a wrong digest. -/
theorem witness_CommandsAreMadeReady_bad :
    (let c := { Cell.reset with istore := [(0, endBundle + 1#128)] }; loadCheck (c.image imageCmd).1 (c.image imageCmd).2 ≠ none) ∧
      let m := { imageCmd with digest := 1 }
      let c := { Cell.reset with istore := [(0, endBundle)] }
      digest64 (imageBytes (c.image m)) ≠ m.digest := by decide +kernel

theorem witness_CommandStartTakesItsCells :
    let e := { fresh with phase := .ready, loads := [(0, cmd .freeze), (35, cmd .freeze)] }
    let s := loadable (desc []) e
    s.seqHalted 0 = false ∧ (∀ q' ∈ s.scanOrder 0, s.costRefused q' = none) ∧ s.scan (s.scanOrder 0) = some (0, e) ∧
      s.bpEntry 0 0 e.index none = none ∧ (e.loads.map (·.1)).Nodup := by decide +kernel

theorem witness_CommandCompletionWritesItsRecord :
    let e := { fresh with phase := .done, status := 255, word := desc [], run := desc [] }
    let s := loadable (desc []) e
    s.headEntry 0 = some e ∧ e.kind = 1 ∧ e.concluded = true ∧ s.retries 0 e = false ∧ e.recovers = false ∧ e.noRecord = false ∧
      e.results = [] ∧ s.replaying = false ∧ e.status < 256 ∧ (e.frame = 0 ∨ descLast e.word = false) ∧
      s.spanLoadable (wordF e.word 0x10 47 0) 32 = true ∧ e.recovering = false := by decide +kernel

/-- The same with results of its cells, without a record, as a recovery, and at the end of a frame. -/
theorem witness_CommandCompletionWritesItsRecord_forms :
    ∀ e ∈ ([{ fresh with phase := .running, run := desc [(0x0C, 16, 65535)], loads := [(0, cmd .fast)], results := [⟨0, 0, 3, []⟩] },
        { fresh with phase := .done, status := 9, noRecord := true, word := desc [] },
        { fresh with phase := .done, status := 2, recovering := true, word := desc [] },
        { fresh with phase := .done, status := 10, frame := 1, word := desc [(4, 1, 0), (0, 6, 1)] }] : List Staged),
      let s := (loadable 0 e).setCtx 0 { CtxSt.empty with frames := [⟨1, 1, true, 0⟩] }
      s.gated = false ∧ s.headEntry 0 = some e ∧ e.kind = 1 ∧ e.concluded = true ∧ s.retries 0 e = false ∧ e.recovers = false := by
  decide +kernel

theorem witness_CommandCompletionWritesItsRecord_breakpoints (x : Nat) : (loadable (desc []) fresh).bpEntry 0 0 x (some 255) = none := by
  have h : ∀ k ∈ [0, 1, 2, 3], (loadable (desc []) fresh).flag .dseqBpEnable [0, k] = false := by decide +kernel
  simp only [State.bpEntry, List.find?_eq_none]
  intro k hk
  simp [State.bpMatches, h k hk]

theorem witness_RecoveryAndRetryRunACommandAgain :
    let w := desc [(0, 3, 1), (0x18, 0, hs + 0x1000)]
    (let e := { fresh with phase := .running, status := 1, word := w, run := w };
      let s := loadable w e;
      (s.queue 0).staged.find? (·.recovers) = some e ∧ e.results = [] ∧ e.frame = 0 ∧
        (s.queue 0).staged.find? (fun x => x.index == e.index) = some e) ∧
      let e := { fresh with phase := .done, status := 5, word := desc [], run := desc [], loads := [(0, cmd .fast)] }
      let s := (loadable (desc []) e).setCtx 0 { CtxSt.empty with retryEn := true }
      (s.queue 0).staged.find? (s.retries 0) = some e ∧ (e.status = 5 ∨ e.phase = .done) ∧ e.frame = 0 ∧
        (s.queue 0).staged.find? (fun x => x.index == e.index) = some e := by decide +kernel

/-- A retry of a command whose cells ran: they are free, or one is not; and queues with nothing to recover or retry. -/
theorem witness_RecoveryAndRetryRunACommandAgain_free :
    (∀ busy ∈ [false, true],
      let v := { fresh with phase := .running, frame := 1, status := 4, word := desc [], run := desc [] }
      let e := { v with loads := [(0, cmd .fast)], results := [⟨0, 0, 4, []⟩] }
      let s := onCell 0 (if busy then live .fast Cell.reset else Cell.reset)
        ((loadable (desc []) e).setCtx 0 { CtxSt.empty with retryEn := true, frames := [⟨1, 1, true, 0⟩] })
      s.gated = false ∧ (s.queue 0).staged.find? (s.retries 0) = some e ∧ e.status ≠ 5 ∧ e.phase ≠ .done ∧
        s.seqHalted (s.qSeq 0) = false ∧ s.cellFree 0 = !busy) ∧
      (loadable0.queue 0).staged.find? (·.recovers) = none ∧ (loadable0.queue 0).staged.find? (loadable0.retries 0) = none := by
  decide +kernel

/-- A table-load descriptor for bank 1 and its image (R229). -/
def tableDesc : BitVec 1024 :=
  crcRec 512 [(0, 0, 1), (8, 0, hs + 0x2000), (0x10, 0, 64), (0x28, 0, hs + 0x3000), (0x30, 0, 4095), (0x30, 12, 8191)] |>.zeroExtend 1024

theorem witness_TableLoadsFillABank :
    let e := Staged.new 0 2 (hs + 0x1000) 0 false
    (let s := withMem [(hs + 0x1000, leBytes 64 tableDesc.toNat), (hs + 0x2000, [1, 0])] ((ring 4095 []).setQueue 4095
        { QueueSt.empty with staged := [e] });
      s.headEntry 4095 = some e ∧ e.kind = 2 ∧ e.phase = .fetched ∧ s.tableLoad = none ∧ s.qHalted 4095 = false ∧ e.dropped = false ∧
        (s.checkTable e.desc (BitVec.ofNat 1024 (s.devNat e.desc 128))).status = 0) ∧
      let e := { e with phase := .running, word := tableDesc, run := tableDesc }
      let s := { (ring 4095 []).setQueue 4095 { QueueSt.empty with staged := [e] } with tableLoad := some 4095 }
      s.tableLoad = some 4095 ∧ ((s.queue 4095).staged.find? fun e => e.kind == 2 && e.phase == .running) = some e ∧ e.noRecord = false ∧
        s.replaying = false ∧
        ∀ st ∈ [0, 7], s.bpEntry (s.qSeq 4095) 4095 e.index (some st) = none := by decide +kernel

/-- A table descriptor that fails, and an entry of a dropped frame. -/
theorem witness_TableLoadsFillABank_ends :
    ∀ x ∈ [(false, 0), (true, tableDesc.toNat)], let e := { Staged.new 0 2 (hs + 0x1000) 0 false with dropped := x.1 }
      let s := withMem [(hs + 0x1000, leBytes 64 x.2), (hs + 0x2000, [1, 0])] ((ring 4095 []).setQueue 4095
        { QueueSt.empty with staged := [e] })
      s.gated = false ∧ s.headEntry 4095 = some e ∧ e.phase = .fetched ∧ s.tableLoad = none ∧ s.qHalted 4095 = false ∧
        ((s.checkTable e.desc (BitVec.ofNat 1024 (s.devNat e.desc 128))).status = 0 ↔ x.1 = true) := by decide +kernel

theorem witness_RegulatorsAndOwnersAct :
    (let s := ring 4095 [(.queCfgRegulated, [4095], 1), (.queRateRate, [4095], 2 ^ 24 - 1), (.queBurstBurst, [4095], 5)];
      s.gated = false ∧ s.fld .queCfgRegulated [4095] = 1 ∧ s.fld .queCfgEnable [4095] = 1) ∧ (ring 0 []).fld .queCfgRegulated [0] = 0 ∧
      (up [(.pwrStateCurrent, [], 2)]).gated = true ∧
      (let s := { State.reset with owners := [(31, ⟨some 15, true⟩)] };
        tabGet ownerReset s.owners 31 = ⟨some 15, true⟩ ∧ s.ownerFree 31 = true ∧
          (onCell 34 (live .fast Cell.reset) s).ownerFree 31 = false) ∧
      (tabGet ownerReset ({ State.reset with owners := [(31, ⟨some 15, false⟩)] } : State).owners 31).due = false ∧
      tabGet ownerReset State.reset.owners 31 = .empty := by
  decide +kernel

theorem witness_QueueControlsActAsWritten :
    (let s := up [(.queBaseBase, [4095], hs / 64)];
      let val := 2 ^ 31 + 7 * 2 ^ 28 + 4 * 2 ^ 15;
      s.HostUp ∧ s.fld .queCfgEnable [4095] = 0 ∧ bitsOf val 31 31 = 1 ∧ s.ringOk (s.fld .queBaseBase [4095] * 64) (bitsOf val 19 15) = true ∧
        bitsOf (2 ^ 28) 31 31 ≠ 1 ∧ (up [(.queBaseBase, [4095], 2 ^ 40)]).ringOk ((up [(.queBaseBase, [4095], 2 ^ 40)]).fld .queBaseBase [4095] * 64) 4 = false) ∧
      (ring 0 []).fld .queCfgEnable [0] = 1 ∧ bitsOf (2 ^ 28) 30 21 ≠ getBits ((ring 0 []).reg .queCfg [0]) 30 21 ∧
      bitsOf (4 * 2 ^ 15) 30 21 = getBits ((ring 0 []).reg .queCfg [0]) 30 21 ∧ bitsOf (4 * 2 ^ 15) 19 15 = (ring 0 []).fld .queCfgLog2Size [0] ∧
      (ring 0 [(.queStatusHalted, [0], 1)]).HostUp ∧ (ring 0 [(.queStatusHalted, [0], 1)]).fld .queStatusHalted [0] = 1 ∧
      (ring 0 []).fld .queStatusHalted [0] = 0 := by decide +kernel

theorem witness_QueueControlsActAsWritten_enabled : (up [(.queBaseBase, [4095], hs / 64)]).enabledOn 7 < 512 := by decide +kernel

theorem witness_TalliesChangeByTheirSum :
    let s := up [(.talCtrlIrqEn, [4095], 1), (.talThreshThreshold, [4095], 3), (.talValueValue, [4095], 2)]
    s.HostUp ∧ s.egressOf 4095 = [] ∧ s.recording = false ∧ s.replaying = false ∧ s.tallyCond 4095 = false ∧
      (s.addTally 4095 1).tallyCond 4095 = true ∧ (s.addTally 4095 0).tallyCond 4095 = false ∧
      (∀ m ∈ [0, 1], (withRegs [(.msixCtrlMask, [127], m)] s).flag .msixCtrlMask [127] = (m == 1)) ∧
      (∀ x ∈ ({ s with tallyPend := [⟨none, 4095, 2⟩, ⟨none, 0, 3⟩] } : State).tallyPend, x.src = none) ∧
      let s := { up [(.rrStatusState, [], 2)] with tallyPend := [⟨some 3, 0, 1⟩, ⟨none, 4095, 2⟩, ⟨some 3, 4095, 1⟩] }
      s.HostUp ∧ s.replaying = true ∧ takePending 4095 3 [] s.tallyPend = (2, [⟨some 3, 0, 1⟩, ⟨some 3, 4095, 1⟩]) := by decide +kernel

/-! Cell sequencers. -/

/-- A cell that runs a command whose first bundle is given, at bundle 0. -/
def running (w : BitVec 128) : Cell := live .fast { Cell.reset with istore := [(0, w)] }

/-- A bundle with a WAIT for tally 4095 to reach 8,192, a FENCE of all queues, a TAG, a SIGNAL and a SIGNAL_DONE (R204). -/
def waitBundle : BitVec 128 := bundle 0 0 0 (2 * 2 ^ 25 + 4095 * 2 ^ 13 + 8191)

/-- A full array queue. -/
def fullCell (w : BitVec 128) : Cell := { running w with arrayQ := List.replicate 8 (ins 2 []) }

theorem witness_BundlesDispatchWhole :
    ∀ c ∈ [running endBundle, running (bundle (2 * 2 ^ 25) 0 0 (2 ^ 25)), fullCell endBundle], let s := onCell 35 c (up [])
      s.dispatching 35 = true ∧ (s.cell 35).cmd = some (cmd .fast) ∧
        let w := (s.cell 35).bundleAt false (s.run 35).bundle
        let sync := slotOf w 3
        s.bpHit 35 (tagAfter (s.run 35) sync).1 = false ∧ bundleOk w = true ∧ s.waitHolds 35 (cmd .fast) sync = none ∧
          slotOpcode sync ≠ 5 ∧ (s.cell 35).queueFull w = false ∧ (s.run 35).loops = [] := by decide +kernel

theorem witness_BundlesDispatchWhole_full :
    let s := onCell 35 (fullCell (bundle (2 * 2 ^ 25) 0 0 0)) (up [])
    let w := (s.cell 35).bundleAt false (s.run 35).bundle
    s.dispatching 35 = true ∧ s.bpHit 35 (tagAfter (s.run 35) (slotOf w 3)).1 = false ∧ bundleOk w = true ∧
      s.waitHolds 35 (cmd .fast) (slotOf w 3) = none ∧ slotOpcode (slotOf w 3) ≠ 5 ∧ (s.cell 35).queueFull w = true := by decide +kernel

theorem witness_BundlesDispatchWhole_check : ∀ valid ∈ [0, 1],
    let s := onCell 0 (running (endBundle + 1#128)) (up [(.cseqFaultValid, [0, 0], valid)])
    s.dispatching 0 = true ∧ s.bpHit 0 (tagAfter (s.run 0) (slotOf (endBundle + 1#128) 3)).1 = false ∧
      bundleOk ((s.cell 0).bundleAt false (s.run 0).bundle) = false ∧ s.cflag .cseqFaultValid 0 = (valid == 1) := by decide +kernel

/-- A breakpoint at the bundle, a WAIT that is not satisfied, and a FENCE with work. -/
theorem witness_BundlesDispatchWhole_holds :
    (let s := onCell 35 (running endBundle) (up [(.dbgBpBundleEn, cellIx 35, 1)])
     s.dispatching 35 = true ∧ s.bpHit 35 (tagAfter (s.run 35) (slotOf endBundle 3)).1 = true) ∧
      (let s := onCell 35 (running waitBundle) (up [])
       s.dispatching 35 = true ∧ (s.cell 35).bundleAt false 0 = waitBundle ∧ bundleOk waitBundle = true ∧
         s.waitHolds 35 (cmd .fast) (slotOf waitBundle 3) = some (4095, 8191)) ∧
      let w := bundle 0 0 0 (5 * 2 ^ 25 + 2 ^ 22)
      let s := onCell 35 { running w with agQ := [ins 1 []] } (up [])
      s.dispatching 35 = true ∧ bundleOk ((s.cell 35).bundleAt false 0) = true ∧ s.waitHolds 35 (cmd .fast) (slotOf w 3) = none ∧
        slotOpcode (slotOf w 3) = 5 ∧
        (s.cell 35).fencePending (bitOf (slotOf w 3) 24) (bitOf (slotOf w 3) 23) (bitOf (slotOf w 3) 22) (bitOf (slotOf w 3) 21) = true := by
  decide +kernel

theorem witness_SyncInstructionsAct :
    let s := onCell 35 (running endBundle) (up [(.talValueValue, [4095], 8191)])
    let b := onCell 35 { running endBundle with dmaQ := [ins 16 []] } (up [])
    (up []).dispatching 35 = false ∧ s.dispatching 35 = true ∧ (s.cell 35).cmd = some (cmd .fast) ∧
      0 ≤ (BitVec.ofNat 32 (s.tally 4095) - (BitVec.ofNat 32 (cmd .fast).waitBase + (8191#13).zeroExtend 32)).toInt ∧
      ¬ 0 ≤ (BitVec.ofNat 32 (b.tally 4095) - (BitVec.ofNat 32 (cmd .fast).waitBase + (8191#13).zeroExtend 32)).toInt ∧
      b.dispatching 35 = true ∧ (b.cell 35).queueOf .dma ≠ [] ∧ (∀ u ∈ [CellUnit.array, .vector, .ag, .dma], (s.cell 35).queueOf u = []) ∧
      (s.cell 35).inflight = [] := by decide +kernel

/-- An instruction in flight. -/
def flight (id left : Nat) : Flight := ⟨id, .ag, left, 0, 0, 0, 0, 0, 0, none⟩

theorem witness_ArmedSignalsAndHeldWaitsEnd :
    (∀ met ∈ [false, true], ∀ rel ∈ [false, true], let c := running endBundle
     let s := onCell 0 { c with run := { c.run with heldWait := some (4095, 2 ^ 32 - 1), met := met, released := rel } } (up [])
     (s.run 0).heldWait = some (4095, 2 ^ 32 - 1) ∧ (s.run 0).released = rel ∧ (s.run 0).met = met ∧ s.dispatching 0 = true) ∧
      ((up []).run 0).heldWait = none ∧ ((up []).cell 0).signals = [] ∧ (up []).gated = false ∧ (up [(.pwrStateCurrent, [], 2)]).gated = true ∧
      (let s := fun (before : Nat) => onCell 0 { running endBundle with signals := [⟨before, 7, 1⟩], inflight := [flight 4 0] } (up [])
       ((s 4).cell 0).signals = [⟨4, 7, 1⟩] ∧ ((s 4).cell 0).doneBelow 4 = true ∧ ((s 5).cell 0).doneBelow 5 = false) ∧
      [flight 4 0].find? (fun f => f.id == 4 && f.left == 0) = some (flight 4 0) ∧
      [flight 4 1].find? (fun f => f.id == 4 && f.left == 0) = none := by decide +kernel

theorem witness_CellReportsItsCommand : ∀ halting ∈ [false, true],
    let c := live .fast Cell.reset
    let s := onCell 35 { c with run := { c.run with state := .completing, halting := halting } } ((up []).setQueue 5
      { QueueSt.empty with staged := [{ fresh with index := (cmd .fast).index, loads := [(35, cmd .fast), (0, cmd .fast)] }] })
    s.clockedCmd 35 = some (cmd .fast) ∧ (s.run 35).state = .completing ∧ (s.cell 35).drained = true ∧ (s.cell 35).signals = [] ∧
      (s.cell 35).done = none ∧ (s.run 35).halting = halting ∧
      ∃ e, s.stagedAt (cmd .fast).queue (cmd .fast).index = some e ∧ e.allDone = false ∧
        (e.loads.any fun l => l.1 != 35 && !e.results.any fun r => r.phys == l.1) = true := by
  intro h hh
  refine ⟨?_, ?_, ?_, ?_, ?_, ?_, _, rfl, ?_, ?_⟩ <;> revert h <;> decide +kernel

theorem witness_CellsHaltAndResume :
    (up []).HostUp ∧
      (∀ e ∈ [none, some 4], let c := running endBundle
       let s := onCell 35 { c with run := { c.run with halting := true, state := if e = none then .running else .completing }, done := e } (up [])
       (s.run 35).halting = true ∧ s.halted 35 = false ∧ (s.cell 35).drained = true ∧ ((s.run 35).state ≠ .completing ∨ (s.cell 35).done ≠ none)) ∧
      ((up []).run 35).halting = false ∧ (up []).halted 35 = false ∧ ({ running endBundle with agQ := [ins 1 []] } : Cell).drained = false ∧
      (∀ e ∈ [none, some 4], let s := onCell 35 { running endBundle with done := e } (up [(.dbgStatusHalted, cellIx 35, 1)])
       s.HostUp ∧ s.halted 35 = true ∧ (s.cell 35).done = e ∧ (s.cell 35).cmd ≠ none) := by decide +kernel

/-! The array. -/

/-- An array record of I8 operands at 0 and 0x400 with raw I32 sums at 0x1000 (R196): M − 1, N − 1 and further fields. -/
def mmaIns (m1 n1 : Nat) (l : List (Nat × Nat × Nat)) : QIns :=
  ins 2 ([(0, 25, 1), (0x18, 25, 1), (0x18, 0, 0x400), (0x30, 0, m1), (0x30, 10, n1), (0x40, 27, 3), (0x40, 0, 0x1000), (0x44, 0, 8)] ++ l)

/-- The same with hold at its end, and continued. -/
def mmaHold (m1 n1 : Nat) : QIns := { mmaIns m1 n1 [] with extra := 128 }

def mmaCell (q : QIns) : Cell := { live .fast Cell.reset with arrayQ := [q] }

theorem witness_ArrayInstructionsIssueTheirPasses :
    ∀ q ∈ [mmaIns 256 1 [], mmaIns 0 1 [(0x30, 20, 1)], mmaHold 255 1], let s := onCell 35 (mmaCell q) (up [])
      (s.cell 35).arrayQ = [q] ∧ s.clockedCmd 35 = some (cmd .fast) ∧ q.mmaClear = true ∧
        ∃ i ∈ q.mma (s.cell 35) (cmd .fast).mode, i.ok (s.cfld .srfStatusLoaded 35) (s.cell 35) = true := by decide +kernel

/-- An array instruction whose scale bank has a load in flight waits. -/
theorem witness_ArrayInstructionsIssueTheirPasses_waits :
    let q := mmaIns 0 0 [(0x40, 25, 1), (0x4C, 3, 3)]
    let c := { mmaCell q with inflight := [⟨1, .vector, 1, 0, 0, 0, 0, 0, 0, some 3⟩] }
    ∃ i ∈ q.mma c .fast, c.storeLoading i.dst = true := by decide +kernel

/-- A pass of an I8 instruction of two rows, two columns and two steps. -/
def passIns : MmaIns :=
  ⟨7, 2, 3, 4, .strict, .integer, ⟨false, false, false, .i8, 0, 2, 0, 0, 0, 0⟩, ⟨false, false, false, .i8, 0x10, 2, 0, 0, 0, 0⟩,
    false, false, false, false, 2, 2, 2, 0, ⟨false, .i32, 0, 0x100, 8, 0, 0, true, false, 0, 0, 0, true, true, false, 0⟩⟩

def onePass : Pass := ⟨passIns, 0, 0, true, true⟩

/-- An integer bank of two rows and two columns with exact sums. -/
def twoByTwo (state : BankState) (d : List (List Int)) : Bank :=
  { Bank.empty with
    state := state, m := 2, n := 2, steps := 2, data := d, ev := [[.none, .none], [.none, .none]]
    chkCol := d.map List.sum, chkRow := [(d.map (·.getD 0 0)).sum, (d.map (·.getD 1 0)).sum], corner := (d.map List.sum).sum
    magCol := [0, 0], magRow := [0, 0] }

/-- Cell memory with the rows 1, −2 and 3, 127 of A, and 4, 5 and −128, 6 of B. -/
def passMem : Tab Byte := [(0, 1), (1, 254), (2, 3), (3, 127), (16, 4), (17, 5), (18, 128), (19, 6)]

theorem witness_PassesAddOuterProducts :
    (∀ hold ∈ [false, true], let x := { onePass with ins := { passIns with hold := hold } }
      let c := { live .strict Cell.reset with mem := passMem, passes := [x] }
      c.passReady x = true ∧ x.ins.cls = .integer ∧ x.ins.cont = false ∧ x.ins.preloadStart = false ∧ 1 < x.rows ∧ 1 < x.cols) ∧
      (up []).gated = false := by decide +kernel

/-- A pass that starts from its preload row, and one whose bank still drains. -/
theorem witness_PassesAddOuterProducts_more :
    (∀ x ∈ [(true, BankState.idle), (false, .draining)], let i := { onePass with ins := { passIns with preloadStart := x.1, preload := 0x200 } }
      let c := { live .strict Cell.reset with mem := passMem, passes := [i], bank0 := { Bank.empty with state := x.2 } }
      c.passReady i = (x.2 == .idle) ∧ i.ins.preloadStart = x.1 ∧ i.ins.cont = false) ∧
      let x := { onePass with ins := { passIns with cont := true } }
      let c := { live .strict Cell.reset with mem := passMem, passes := [x], bank0 := twoByTwo .held [[1, 2], [3, 4]] }
      c.passReady x = true ∧ (c.bank (c.passBank x)).m = x.rows ∧ (c.bank (c.passBank x)).n = x.cols := by decide +kernel

theorem witness_IntegerPassesKeepTheirChecksums : ∀ cont ∈ [false, true],
    let x := { onePass with ins := { passIns with cont := cont } }
    let c := { live .strict Cell.reset with mem := passMem, passes := [x], bank0 := twoByTwo .held [[1, 2], [3, 4]] }
    c.passReady x = true ∧ x.ins.cls = .integer ∧ x.ins.a.supplied = false ∧ x.ins.b.supplied = false ∧ (c.bank c.active).cls = .integer ∧
      (c.bank c.active).m = x.rows ∧ (c.bank c.active).n = x.cols := by decide +kernel

theorem twoByTwo_sound (st : BankState) (a b c d : Int) : (twoByTwo st [[a, b], [c, d]]).sound := by
  refine ⟨rfl, ⟨rfl, rfl, ?_, ?_⟩, rfl, rfl, ?_, ?_, rfl, rfl⟩
  · simp [twoByTwo]
  · simp [twoByTwo]
  · intro j hj
    have h : j < 2 := hj
    obtain rfl | rfl : j = 0 ∨ j = 1 := by omega
    all_goals simp [twoByTwo]
  · simp [twoByTwo]

theorem twoByTwo_shaped (st : BankState) (a b c d : Int) : (twoByTwo st [[a, b], [c, d]]).shaped :=
  (twoByTwo_sound st a b c d).2.1

/-- A cell whose drain of the bank above waits. -/
def drainCell (mode : Mode) (d : List (List Int)) (sp : DrainSpec) : Cell :=
  { live mode Cell.reset with
    bank0 := twoByTwo .draining d, drains := [⟨{ onePass with ins := { passIns with mode := mode, dst := sp } }, 0⟩] }

theorem witness_DrainsWriteTheirRows :
    (let c := drainCell .freeze [[1, 2 ^ 31], [3, 4]] passIns.dst
     (c.bank 0).overflows = true ∧ c.drains.length = 1) ∧
      (let c := drainCell .freeze [[1, 2], [3, -(2 ^ 31)]] passIns.dst
       (c.bank 0).overflows = false ∧ c.inject = none ∧ (c.bank 0).cls = .integer ∧ (c.bank 0).n ≤ 256 ∧ passIns.dst.route = 0 ∧
         4 * (c.bank 0).n ≤ passIns.dst.rowStride) ∧
      let sp := { passIns.dst with route := 1, fmt := .i8, rowStride := 2 }
      let c := drainCell .strict [[1, 2], [3, 4]] sp
      c.inject = none ∧ sp.route = 1 ∧ sp.fmt = .i8 ∧ sp.uns = false ∧ (c.bank 0).n ≤ sp.rowStride := by decide +kernel

theorem witness_AnInjectionIsFound : ∀ at_ ∈ [(1, 1), (0x100, 0), (1, 0x100)],
    let s := onCell 35 { drainCell .strict [[1, 2], [3, 4]] passIns.dst with inject := some at_ } (up [])
    s.gated = false ∧ (s.cell 35).inject = some at_ ∧ (at_.1 < ((s.cell 35).bank 0).m ∨ at_.1 = 0x100) ∧
      (at_.2 < ((s.cell 35).bank 0).n ∨ at_.2 = 0x100) ∧ s.cfld .chkStatusRowMismatch 35 = 0 ∧ s.cfld .chkStatusColMismatch 35 = 0 := by
  decide +kernel

theorem witness_HostWritesToACell :
    (up []).HostUp ∧ (up []).cfld .memStatusClearBusy 35 = 1 ∧ (2 ^ 31 : BitVec 32).getLsbD 31 = true ∧ (0 : BitVec 32).getLsbD 31 = false ∧
      (1 : BitVec 32).getLsbD 0 = true ∧ (up []).gated = false ∧ (up [(.pwrStateCurrent, [], 2)]).gated = true ∧
      (up [(.memStatusClearBusy, cellIx 35, 0)]).cfld .memStatusClearBusy 35 = 0 ∧
      (onCell 35 (live .fast Cell.reset) (up [(.memStatusClearBusy, cellIx 35, 0)])).cfld .memStatusClearBusy 35 = 0 ∧
      (((onCell 35 (live .fast Cell.reset) (up [])).cell 35).cmd ≠ none) ∧ ((up []).cell 35).cmd = none := by decide +kernel

/-- R59, R77: two steps of I8 products into a bank from zero. -/
theorem test_array_pass_integer :
    (Cell.passStep { live .strict Cell.reset with mem := passMem, passes := [onePass] }).bank0.data =
      [[4 - 3 * 128, 5 + 18], [-8 - 127 * 128, -10 + 127 * 6]] := by decide +kernel

/-- R93, R94: a checksum that differs from the values fails the drain. -/
theorem test_array_checksum_fails : ({ twoByTwo .draining [[1, 2], [3, 4]] with corner := 11 } : Bank).verdicts.failed = true := by
  decide +kernel

/-! The vector unit. -/

/-- The state that a command answers. -/
def nextOf (i : Instr) (s : State) : State :=
  match exec i s with
  | .next t => t
  | _ => s

/-- A vector record with I8 operands at 0, 64 and 128, an I8 destination at 192 and three elements (R199), with further fields. -/
def vec (op : Nat) (l : List (Nat × Nat × Nat)) : QIns :=
  ins op ([(0, 25, 1), (4, 25, 1), (4, 0, 64), (8, 25, 1), (8, 0, 128), (0x0C, 25, 1), (0x0C, 0, 192), (0x10, 0, 2)] ++ l)

/-- The same with other formats of operand a and the destination. -/
def vecFmts (op sf df : Nat) (l : List (Nat × Nat × Nat)) : QIns :=
  ins op ([(0, 25, sf), (4, 25, sf), (4, 0, 64), (8, 25, sf), (8, 0, 128), (0x0C, 25, df), (0x0C, 0, 192), (0x10, 0, 2)] ++ l)

/-- Cell memory with the elements −7, 0, 5 and 3, 4, 100 and 2, −1, 50. -/
def vecMem : Tab Byte := [(0, 249), (2, 5), (64, 3), (65, 4), (66, 100), (128, 2), (129, 255), (130, 50)]

/-- A module whose physical cell 35 has a vector instruction at the head of its queue. -/
def onVec (mode : Mode) (q : QIns) : State := onCell 35 { live mode Cell.reset with mem := vecMem, vectorQ := [q] } (up [])

theorem witness_ElementwiseInstructionsWriteTheirResults :
    (onVec .freeze (vec 1 [])).clockedCmd 35 = some (cmd .freeze) ∧
      (∀ x ∈ [(0x01, ElemOp.add), (0x02, .sub), (0x03, .mul), (0x04, .madd), (0x05, .min), (0x06, .max), (0x07, .abs), (0x08, .neg),
          (0x09, .shift), (0x0A, .select)],
        (∀ q ∈ [vec x.1 [], vec x.1 [(0x20, 16, 7), (0x20, 22, 1)]], q.vrec.reservedOk = true ∧ q.vrec.dFmt = some .i8 ∧ q.opcode = x.1 ∧
          x.2.ok (cmd .freeze) q.vrec = true ∧ q.vrec.dUns = false ∧
          ∀ o ∈ x.2.opnds q.vrec, o.fmt = some .i8 ∧ o.uns = false ∧ o.scalar = false) ∧
        let f := vecFmts x.1 13 14 []
        f.vrec.reservedOk = true ∧ f.vrec.dFmt = some .a32 ∧ (x.2.ok (cmd .strict) f.vrec = true ∨ x.2 = .shift)) ∧ (0 : Nat) < 5 := by
  decide +kernel

/-- R41, R136: each operation on −7, 3 and 2; a product beyond 127 saturates; a right shift by one of −7 rounds to even. -/
theorem test_elementwise :
    ([(Instr.add 35, 0x01), (.sub 35, 0x02), (.mul 35, 0x03), (.madd 35, 0x04), (.min 35, 0x05), (.max 35, 0x06), (.abs 35, 0x07),
      (.neg 35, 0x08), (.shift 35, 0x09), (.select 35, 0x0A)].map fun x =>
        let q := vec x.2 (if x.2 = 9 then [(0x20, 16, 1), (0x20, 22, 1)] else [])
        let c := (nextOf x.1 (onVec .strict q)).cell 35
        (c.i8 192, c.i8 194)) =
      [(-4, 105), (-10, -95), (-21, 127), (-19, 127), (-7, 5), (3, 100), (7, 5), (7, -5), (-4, 2), (3, 50)] := by decide +kernel

theorem witness_ConversionsAndSpecialFunctionsWriteTheirResults :
    (∀ x ∈ [(1, 13, Fmt.f16), (13, 1, .i8), (7, 7, .s8), (2, 1, .i8)], let q := vecFmts 0x0B x.1 x.2.1 []
      q.vrec.reservedOk = true ∧ q.vrec.a.fmt = Fmt.ofCode x.1 ∧ q.vrec.dFmt = some x.2.2 ∧ q.opcode = 0x0B ∧
        convertOk (cmd .strict) q.vrec = true ∧ q.vrec.a.scalar = false ∧ q.vrec.a.uns = false ∧ q.vrec.dUns = false) ∧
      (∀ op ∈ [0x13, 0x14, 0x15, 0x16], ∀ x ∈ [(1, 13), (14, 14), (13, 1), (2, 2)], let q := vecFmts op x.1 x.2 []
        q.vrec.reservedOk = true ∧ q.vrec.a.fmt = Fmt.ofCode x.1 ∧ q.vrec.dFmt = Fmt.ofCode x.2 ∧ q.opcode = op ∧
          specOk (cmd .strict) q.vrec = true) ∧
      let q := vecFmts 0x13 1 13 []
      let c := (onVec .strict q).cell 35
      Fmt.f16.isFloat = true ∧ 1 < q.vrec.count ∧ tabGet memReset c.mem (q.vrec.a.base.toNat + 1) = 0 := by decide +kernel

/-- R42, R63: 300 and −300 of I16 convert to the ends of I8. -/
theorem test_convert_saturates :
    let s := onCell 35 { live .strict Cell.reset with mem := [(0, 44), (1, 1), (2, 212), (3, 254)], vectorQ := [vecFmts 0x0B 2 1 []] } (up [])
    let c := (nextOf (.convert 35) s).cell 35
    (c.i8 192, c.i8 193, c.i8 194) = (127, -128, 0) := by decide +kernel

/-- Functions and the soft maximum of freeze mode use the bank of the command's context. -/
theorem witness_freeze_mode_tables :
    let s := (onVec .freeze (vecFmts 0x13 1 2 [])).setCtx 0 { CtxSt.empty with bank := some 0 }
    let m := { cmd .freeze with tables := (s.ctx (cmd .freeze).context).bank }
    (∀ op ∈ [0x13, 0x14, 0x15, 0x16], specOk m (vecFmts op 1 2 []).vrec = true) ∧ softmaxOk m (vecFmts 0x12 1 8 [(0x28, 0, 256)]).vrec = true := by
  decide +kernel

theorem witness_RowInstructionsReduceTheirRows :
    (∀ op ∈ [0x0C, 0x0D, 0x0E], let q := vec op [(0x1C, 0, 8), (0x18, 0, 3)]
      q.vrec.reservedOk = true ∧ q.opcode = op ∧ rowOk (cmd .freeze) q.vrec laneBytes = true ∧ q.vrec.rows = 1 ∧
        q.vrec.a.fmt = some .i8 ∧ q.vrec.a.uns = false) ∧
      (let q := vec 0x0F []; rowOk (cmd .freeze) q.vrec (fun _ => 4) = true ∧ q.vrec.rows = 1) ∧
      (let q := vec 0x10 []; rowOk (cmd .freeze) q.vrec (fun _ => 8) = true ∧ q.vrec.rows = 1) ∧
      (let q := vecFmts 0x11 1 3 [(0x24, 0, 1)]; normOk (cmd .freeze) q.vrec = true ∧ q.vrec.rows = 1 ∧ q.vrec.dFmt = some .i32 ∧
        q.vrec.dUns = false) ∧
      (let q := vecFmts 0x12 1 8 [(0x28, 0, 256)]; softmaxOk (cmd .freeze) q.vrec = true ∧ q.vrec.rows = 1 ∧
        q.vrec.dBase.toNat + 2 * q.vrec.count ≤ q.vrec.scratch) ∧
      (let q := vec 0x17 [(0x14, 0, 1), (0x18, 0, 64)]; q.vrec.reservedOk = true ∧ argmaxOk (cmd .freeze) q.vrec = true ∧
        q.vrec.writeValue = false ∧ q.vrec.a.fmt = some .i8 ∧ q.vrec.a.uns = false ∧ q.vrec.rows = 2) ∧
      let c := live .freeze Cell.reset
      ∀ i < 3, c.i8 i = c.i8 0 := by decide +kernel

/-- R138 to R141, R150: sum, extremes, mean, and the channel of the largest value, of −7, 0, 5 (and 3, 4, 100). -/
theorem test_rows :
    (let c := fun (i : Instr) (op : Nat) (l : List (Nat × Nat × Nat)) => (nextOf i (onVec .strict (vec op l))).cell 35
     (toSigned 48 ((c (.rsum 35) 0x0C []).readNat 192 6), toSigned 48 ((c (.rmin 35) 0x0D []).readNat 192 6),
       toSigned 48 ((c (.rmax 35) 0x0E []).readNat 192 6), toSigned 32 ((c (.rmean 35) 0x0F []).readNat 192 4),
       (c (.argmax 35) 0x17 [(0x14, 0, 1), (0x18, 0, 64)]).readNat 192 6)) =
      (-2, -7, 5, -1, 1 + 65536 * 1 + 2 ^ 32 * 1) := by decide +kernel

theorem witness_ScalesAreLoadedDerivedAndUsed :
    (∀ op ∈ [0x18, 0x19], let q := vec op [(0x2C, 16, 3)]
      q.vrec.reservedOk = true ∧ q.opcode = op ∧
        ({ live .freeze Cell.reset with passes := [{ onePass with ins := { passIns with dst := { passIns.dst with route := 1, bank := 3 } } }] }
          : Cell).storeBusy q.vrec.bank = true ∧ (live .freeze Cell.reset).storeBusy q.vrec.bank = false) ∧
      scaleLoadOk (cmd .freeze) (vec 0x18 [(0x2C, 16, 3), (0x2C, 18, 1021)]).vrec = true ∧
      (let v := (vec 0x19 [(0x2C, 16, 3), (0x2C, 18, 1021)]).vrec; deriveOk (cmd .freeze) v = true ∧ v.dFmt = some .i8 ∧ v.dUns = false ∧
        v.offset = 0 ∧ v.fusedTarget = false) ∧
      deriveOk (cmd .freeze) (vec 0x19 [(0x2C, 28, 1)]).vrec = true ∧
      (∀ x ∈ [(13, 5), (6, 13)], let q := vecFmts 0x1A x.1 x.2 []; q.vrec.reservedOk = true ∧ blockConvertOk (cmd .strict) q.vrec = true) := by
  decide +kernel

/-- Maxima of 0, 1 and 100 for I32 and I8, and −1, 0 and 1 as A32: the cases of a derived entry. -/
theorem witness_ScalesAreLoadedDerivedAndUsed_derive :
    2 ^ 15 ≤ (targetInt .i32 false 0).toNat / 1 ∧ 0 < (100 : Nat) ∧ (targetInt .i8 false 0).toNat / 100 < 2 ^ 15 ∧
      (∀ x ∈ [(0xC0000000, -1), (0x40000000, (1 : Int))], ∃ d, Fmt.a32.spec.decode x.1 = .fin d ∧ d.m.sign = x.2) ∧
      (∀ d, Fmt.a32.spec.decode 0x7FFFFFFF ≠ .fin d) ∧
      (let q := vecFmts 0x19 14 13 []; q.vrec.reservedOk = true ∧ deriveOk (cmd .strict) q.vrec = true ∧ q.vrec.dFmt = some .f16) ∧
      (let q := vecFmts 0x1A 6 13 [(0x2C, 1, 1)]; blockConvertOk (cmd .strict) q.vrec = true) :=
  ⟨by decide +kernel, by decide, by decide +kernel,
    fun x hx => by
      simp only [List.mem_cons, List.not_mem_nil, or_false] at hx
      rcases hx with rfl | rfl <;> exact ⟨_, rfl, by decide +kernel⟩,
    fun d h => (by decide +kernel : Fmt.a32.spec.decode 0x7FFFFFFF = FVal.inf false) ▸ h |> FVal.noConfusion, by decide +kernel, by decide +kernel⟩

/-- R172: a record of maximum 100 derives the multiplier 128 × 2^14 / 100 below 2^15 and its shift, for an I8 destination. -/
theorem test_derive :
    let c := { live .strict Cell.reset with mem := [(0, 100)], vectorQ := [ins 0x19 [(0, 25, 1), (0x0C, 25, 1)]] }
    let e := ((nextOf (.derive 35) (onCell 35 c (up []))).cell 35).srfEntry 0 0
    (e.m, e.sh) = (20971, 14) := by decide +kernel

theorem witness_RefusedInstructionsWriteNothing :
    (let q := mmaIns 256 1 [(0x04, 26, 1)]; q.mmaClear = false ∧ (onCell 35 (mmaCell q) (up [])).clockedCmd 35 = some (cmd .fast)) ∧
      (∀ op ∈ (List.range 26).map (· + 1), let q := vec op [(0, 31, 1)]
        q.opcode = op ∧ q.vrec.reservedOk = false ∧ (live .fast Cell.reset).storeBusy q.vrec.bank = false) ∧
      (∀ op ∈ (List.range 8).map (· + 2), let q := ins op [(0, 31, 1), (0x3C, 0, 1)]; q.opcode = op ∧ q.agrec.reservedOk = false) ∧
      let q := ins 16 [(0x7C, 31, 1), (0x3C, 0, 1)]
      let d := q.dmaJob.oriented ((up []).logical 35)
      (up []).dmaOk ((up []).logical 35) q d = false ∧ shelfGroups (d.srcRows ++ d.dstRows) = [] ∧ Cell.reset.dmas.length < 8 := by decide +kernel

/-! The address generator and the DMA. -/

/-- A module whose physical cell 34 has an address operation at the head of its queue. -/
def onAg (mode : Mode) (mem : Tab Byte) (q : QIns) : State := onCell 34 { live mode Cell.reset with mem := mem, agQ := [q] } (up [])

/-- A record of I8 rows 64 bytes apart at 0 and at 0x1000, one plane of 3 × 3 (R201). -/
def agGrid (op : Nat) (l : List (Nat × Nat × Nat)) : QIns :=
  ins op ([(0, 25, 1), (4, 0, 192), (8, 0, 64), (0x10, 15, 3), (0x10, 0, 3), (0x14, 0, 0x1000), (0x18, 0, 192), (0x1C, 0, 64)] ++ l)

theorem witness_RegroupingMovesElements :
    (let q := ins 1 [(0, 0, 5), (0x1C, 0, 0), (0x3E, 0, 65535)]; q.opcode = 1 ∧ q.patternIx = 0 ∧
      (patOf (BitVec.ofNat 512 (q.record.toNat % 2 ^ 496))).clear = true) ∧
      (onAg .fast [] (agGrid 2 [])).clockedCmd 34 = some (cmd .fast) ∧
      (let q := agGrid 2 [(0x2C, 0, 65535)]; q.agrec.reservedOk = true ∧ q.agrec.sFmt = some .i8 ∧ s2dOk (cmd .fast) (patOf 0) q.agrec = true ∧
        q.agrec.b = 2 ∧ 1 * q.agrec.b + 1 ≥ q.agrec.height) ∧
      (let q := agGrid 3 []; q.agrec.reservedOk = true ∧ d2sOk (cmd .fast) (patOf 0) q.agrec = true) ∧
      let q := agGrid 4 []; q.agrec.reservedOk = true ∧ transposeOk (cmd .fast) (patOf 0) q.agrec = true := by decide +kernel

/-- R114: of a 3 × 3 plane in blocks of two, output plane 3 at (0, 0) takes input (1, 1), and at (1, 0) the fill value. -/
theorem test_s2d :
    let c := (nextOf (.s2d 34) (onAg .fast [(65, 77)] (agGrid 2 [(0x2C, 0, 9)]))).cell 34
    (c.i8 (0x1000 + 3 * 192), c.i8 (0x1000 + 3 * 192 + 64)) = (77, 9) := by decide +kernel

/-- R115: element (0, 2) of a matrix becomes element (2, 0). -/
theorem test_transpose : ((nextOf (.transpose 34) (onAg .fast [(2, 77)] (agGrid 4 []))).cell 34).i8 (0x1000 + 128) = 77 := by
  decide +kernel

/-- A pattern of one plane of 4 × 4 I8 elements with a 3 × 3 kernel (R202), and the cell that holds it. -/
def pat44 : BitVec 512 :=
  bitsRec 512 [(0, 25, 1), (4, 0, 16), (8, 0, 4), (0x0C, 15, 4), (0x0C, 0, 4), (0x10, 16, 2), (0x10, 12, 2)]

def onPat (mode : Mode) (mem : Tab Byte) (q : QIns) : State :=
  onCell 34 { live mode Cell.reset with mem := mem, agQ := [q], patterns := [(0, pat44)] } (up [])

/-- Its transform into tensors of one byte at 0x100 and 0x200, and the inverse from them. -/
def xin (op df : Nat) : QIns :=
  ins op [(0x14, 25, df), (0x14, 0, 0x100), (0x18, 0, 8), (0x1C, 0, 8), (0x20, 0, 0x200), (0x24, 0, 8)]

def xout (op sf df : Nat) : QIns :=
  ins op [(0, 25, sf), (4, 0, 4), (8, 0, 4), (0x10, 15, 2), (0x10, 0, 2), (0x14, 25, df), (0x14, 0, 0x400), (0x18, 0, 16), (0x1C, 0, 8),
    (0x20, 0, 0x200)]

theorem witness_TransformsAndCropsWriteTheirTensors_in :
    (let q := xin 5 1; q.agrec.reservedOk = true ∧ q.opcode = 5 ∧ wino2.inOk (cmd .freeze) (patOf pat44) q.agrec = true ∧
      q.agrec.dFmt = some .i8 ∧ (patOf pat44).fmt = some .i8 ∧ (patOf pat44).ci * q.agrec.dPlane ≤ q.agrec.group ∧
      q.agrec.dBase + 16 * q.agrec.group ≤ q.agrec.xBase ∧ (patOf ((onPat .freeze [] q).cell 34 |>.pattern q.patternIx)) = patOf pat44 ∧
      (onPat .freeze [] q).clockedCmd 34 = some (cmd .freeze)) ∧
      (let q := xin 5 13; q.agrec.reservedOk = true ∧ wino2.inOk (cmd .strict) (patOf pat44) q.agrec = true ∧ q.agrec.dFmt = some .f16) ∧
      let q := xin 6 12; q.agrec.reservedOk = true ∧ wino4.inOk (cmd .fast) (patOf pat44) q.agrec = true ∧ q.agrec.dFmt = some .f12 := by
  decide +kernel

theorem witness_TransformsAndCropsWriteTheirTensors_out :
    (let q := xout 7 3 3; q.agrec.reservedOk = true ∧ wino2.outOk (cmd .freeze) (patOf 0) q.agrec = true ∧ q.agrec.dFmt = some .i32 ∧
      0 < q.agrec.planes ∧ 0 < q.agrec.height ∧ 0 < q.agrec.width ∧
      (q.agrec.drainedVal { Cell.reset with mem := [(0x200, 1)] } .i32 q.agrec.xBase 0 0 0).toI = 1) ∧
      (let q := xout 7 14 13; q.agrec.reservedOk = true ∧ wino2.outOk (cmd .strict) (patOf 0) q.agrec = true) ∧
      let q := xout 8 14 13; q.agrec.reservedOk = true ∧ wino4.outOk (cmd .fast) (patOf 0) q.agrec = true := by decide +kernel

/-- R118: a freeze-mode inverse of a low part of 1 leaves a remainder, which sets its flag and ends the command with 0x04. -/
theorem test_transform_residue :
    let s := nextOf (.xout2 34) (onAg .freeze [(0x200, 1)] (xout 7 3 3))
    s.cflag .agFlagsTransformResidue 34 = true ∧ (s.cell 34).ended = some 4 := by decide +kernel

/-- A crop of one box of 3 × 3 I8 elements into 2 × 2, with its box entry at 0x200. -/
def crop1 : QIns := agGrid 9 [(0x20, 0, 0x200), (0x28, 20, 1), (0x28, 12, 1)]

theorem witness_TransformsAndCropsWriteTheirTensors_crop :
    crop1.agrec.reservedOk = true ∧ cropOk (cmd .freeze) (patOf 0) crop1.agrec = true ∧ crop1.agrec.sFmt = some .i8 ∧
      crop1.agrec.boxes = 1 ∧ 0 < crop1.agrec.outH ∧ 0 < crop1.agrec.outW ∧ 0 < crop1.agrec.planes := by decide +kernel

/-- A DMA record from the hub store to cell memory: two rows of eight bytes (R232). -/
def dmaIns (l : List (Nat × Nat × Nat)) : QIns :=
  ins 16 ([(0, 0, hs), (8, 0, windowBase 31), (0x10, 0, 8), (0x14, 0, 1), (0x18, 0, 8), (0x1C, 0, 16), (0x20, 0, 0), (0x24, 0, 0)] ++ l)

/-- A transfer under way on physical cell 34. -/
def dmaState (digest : Nat) (tr : Nat) : State :=
  withMem [(hs, [1, 2, 3, 4])] (onCell 34 { live .fast Cell.reset with
    dmas := [⟨7, 2, 3, 4, false, hs, windowBase 31, 2, 1, 2, 2, 4, 0, 8, digest, true, tr, 9, 1, []⟩] } (up []))

theorem witness_DmaMovesItsBytes_issue :
    (∀ l ∈ [[], [(0x30, 26, 1)], [(0x30, 26, 2), (0x30, 25, 1)]], let q := dmaIns l
      let s := onCell 34 { live .fast Cell.reset with dmaQ := [q] } (up [])
      let d := q.dmaJob.oriented (s.logical 34)
      s.clockedCmd 34 = some (cmd .fast) ∧ s.dmaOk (s.logical 34) q d = true ∧ shelfGroups (d.srcRows ++ d.dstRows) = [] ∧
        (s.cell 34).dmas.length < 8) ∧
      8 ≤ (List.replicate 8 (dmaIns []).dmaJob).length := by decide +kernel

/-- A transfer between a cell and a shelf group, which takes it whole or degraded, or refuses it. -/
theorem witness_DmaMovesItsBytes_shelf :
    ∀ x ∈ [(2, 7), (2, 3), (0, 7)],
      let q := ins 16 [(0, 0, 0x100000000000), (8, 0, windowBase 31), (0x10, 0, 8), (0x14, 0, 1), (0x18, 0, 8), (0x1C, 0, 16)]
      let s := onCell 34 { live .fast Cell.reset with dmaQ := [q] } (up [(.shelfStatusState, [0], x.1), (.shelfStatusSize, [0], 4096),
        (.shelfStatusEnginesUp, [0], x.2)])
      let d := q.dmaJob.oriented (s.logical 34)
      s.dmaOk (s.logical 34) q d = decide (x.1 = 2) ∧ shelfGroups (d.srcRows ++ d.dstRows) = [0] ∧ s.shelfShut 0 = decide (x.1 = 0) ∧
        (x.1 = 2 → s.shelfHole 0 (d.srcRows ++ d.dstRows) = false) ∧ s.forcedOn 4 0 = false ∧ s.shelfWhole 0 = decide (x.2 = 7) := by
  decide +kernel

theorem witness_DmaMovesItsBytes_complete : ∀ tr ∈ [0, 1], ∀ digest ∈ [0, digest64 [1, 2, 3, 4]], let s := dmaState digest tr
    ∃ d ∈ (s.cell 34).dmas.find? (fun d => d.id == 7), s.gated = false ∧ d.groups = [] ∧
      (∀ w ∈ d.dstRows, ∀ i < w.2, s.place (w.1 + i) ≠ .hole) ∧ d.digestEn = true ∧ d.planes = 1 ∧
      (digest64 (d.srcRows.flatMap fun w => s.devRead w.1 w.2) = d.digest ↔ digest ≠ 0) ∧ d.rowBytes ≤ d.dstRow ∧
      (d.rows - 1) * d.dstRow + d.rowBytes ≤ d.dstPlane ∧ d.rows * 2 ^ (d.transpose - 1) ≤ d.dstRow := by decide +kernel

/-- R115, R233: rows 1 2 and 3 4 arrive as they are, or as columns. -/
theorem test_dma :
    ([0, 1].map fun tr => ((nextOf (.dmaComplete 34 7) (dmaState (digest64 [1, 2, 3, 4]) tr)).cell 34).mem) =
      [[(0, 1), (1, 2), (4, 3), (5, 4)], [(0, 1), (1, 3), (4, 2), (5, 4)]] := by decide +kernel

/-! Shelves, rings and jobs. -/

def txn (late : Bool) (owner : Option (Nat × Nat)) : ShelfTxn := ⟨7, owner, 0, late⟩

/-- A shelf group in a state with transactions. -/
def shelfAt (st : Nat) (l : List (Fld × List Nat × Nat)) (ts : List ShelfTxn) : State :=
  (up ((.shelfStatusState, [1], st) :: l)).setShelf 1 { ShelfSt.empty with txns := ts }

theorem witness_ShelvesComeAndGo :
    (∀ st ∈ [0, 1, 2, 3], (shelfAt st [] []).HostUp ∧ (shelfAt st [] []).fld .shelfStatusState [1] = st) ∧
      (shelfAt 1 [] []).station.boundary = true ∧ ({ shelfAt 1 [] [] with station := { StationSt.empty with boundary := false } } : State).station.boundary = false ∧
      (let s := shelfAt 2 [(.shelfStatusDetachPending, [1], 1)] []; s.fld .shelfStatusDetachPending [1] = 1 ∧ (s.shelf 1).txns = []) ∧
      (let s := shelfAt 2 [] [txn false (some (0, 4))]; (s.shelf 1).txns.find? (fun x => x.id == 7 && !x.late) = some (txn false (some (0, 4)))) ∧
      (∀ o ∈ [none, some (0, 4)], let s := shelfAt 2 [] [txn true o]
        (s.shelf 1).txns.find? (fun x => x.id == 7 && x.late) = some (txn true o) ∧ s.recording = false ∧ s.replaying = false ∧
          ∃ x ∈ (s.shelf 1).txns, x.late = true) ∧
      (shelfAt 2 [(.shelfStatusEnginesUp, [1], 4)] []).fld .shelfStatusEnginesUp [1] = 2 ^ 2 ∧
      (let s := shelfAt 2 [(.shelfStatusEnginesUp, [1], 7)] []
       bitOf (s.fld .shelfStatusEnginesUp [1]) 2 = true ∧ s.fld .shelfStatusEnginesUp [1] ≠ 2 ^ 2) ∧
      (4096#13).toNat ≤ 4096 ∧ 4096 < (4097#13).toNat ∧ ((Cell.reset).dmas.map (·.id)).Nodup := by decide +kernel

/-- A ring of 16 jobs at the start of hub store with a tail and further fields. -/
def jobRing (e : RingEngine) (n tail : Nat) (l : List (Fld × List Nat × Nat)) : State :=
  let f := ringFlds e
  up ([(f.enable, [n], 1), (f.log2, [n], 4), (f.base, [n], hs / 64), (f.tail, [n], tail)] ++ l)

theorem witness_RingControlsActAsWritten :
    (∀ x ∈ [(RingEngine.bce, 7), (.kcx, 15), (.mot, 7)],
      let f := ringFlds x.1
      let bad := fun (s : State) (tail : BitVec 32) => (tail - BitVec.ofNat 32 (s.fld f.tail [x.2])).toInt < 0 ∨
        2 ^ s.fld f.log2 [x.2] < (tail - BitVec.ofNat 32 (s.fld f.head [x.2])).toNat ∨ s.fld f.enable [x.2] = 0
      let s := jobRing x.1 x.2 1 []
      s.HostUp ∧ s.replaying = false ∧ s.recording = false ∧ ¬ bad s 1 ∧ ¬ bad s 16 ∧ bad s 0 ∧ bad s 17 ∧ bad (up []) 0) ∧
      ∀ e ∈ [RingEngine.bce, .kcx, .mot],
        let f := ringFlds e
        let s := jobRing e 7 1 [(f.halted, [7], 1)]
        let off := up [(f.base, [7], hs / 64)]
        7 < ringCount e ∧ s.fld f.enable [7] = 1 ∧ (5 * 2 ^ 27) / 2 ^ 27 % 16 ≠ s.fld f.log2 [7] ∧ (4 * 2 ^ 27) / 2 ^ 27 % 16 = s.fld f.log2 [7] ∧
          (4 * 2 ^ 27) % 4096 = s.fld f.fault [7] ∧ off.fld f.enable [7] = 0 ∧
          off.spanLoadable (off.fld f.base [7] * 64) (128 * 2 ^ 12) = true ∧ s.fld f.halted [7] = 1 ∧ off.fld f.halted [7] = 0 := by
  decide +kernel

theorem witness_RingControlsActAsWritten_modes :
    State.reset.hostUp = false ∧ (st [(.hubReadyConfig, [], 1)]).hostUp = true ∧ (st [(.hubReadyConfig, [], 1)]).ready = false ∧
      (∀ m ∈ [1, 2], let s := jobRing .kcx 15 1 [(.rrStatusState, [], m)]
        s.hostUp = true ∧ s.replaying = (m == 2) ∧ s.recording = (m == 1) ∧ s.rr.lost = 0 ∧ s.rr.buffer.length < rrDepth) ∧
      ¬ (4 ≤ 3 * 2 ^ 27 / 2 ^ 27 % 16) ∧
      (up [(.motRingBaseBase, [7], 2 ^ 40)]).spanLoadable ((up [(.motRingBaseBase, [7], 2 ^ 40)]).fld .motRingBaseBase [7] * 64) 2048 = false := by
  decide +kernel

/-- Job descriptors with a CRC, a record address and 64 bytes of content (R291, R321, R335). -/
def bceDescOf (op : Nat) : BitVec 1024 :=
  crcRec 1024 [(0, 8, op), (4, 8, 68), (4, 0, 8), (8, 0, hs + 0x10000), (0x10, 0, hs + 0x20000), (0x18, 0, 7), (0x18, 16, 7),
    (0x1C, 0, 8), (0x40, 0, hs + 0x3000)]

def motDescOf (op : Nat) : BitVec 1024 :=
  crcRec 1024 [(0, 8, op), (4, 0, 8), (8, 0, hs + 0x10000), (0x10, 0, hs + 0x20000), (0x18, 0, hs + 0x30000), (0x20, 0, hs + 0x40000),
    (0x40, 0, hs + 0x3000)]

def kcxDescOf (op : Nat) : BitVec 1024 :=
  crcRec 1024 [(0, 8, op), (8, 0, hs + 0x10000), (0x10, 0, hs + 0x20000), (0x18, 0, hs + 0x30000), (0x20, 0, hs + 0x40000),
    (0x28, 0, 64), (0x2C, 8, 1), (0x38, 0, 4096), (0x40, 0, hs + 0x3000), (0x5C, 0, 64)]

/-- The same descriptors as numbers, by operation from 1 on. -/
def bceJobs : List Nat :=
  [707646747867087501141540615690090592626208927247132069845945120837425077264866775938110145101372927242489312261789967263141944052582684604175545492724949138420636057856,
   707646747867082406248982438867533320891431766122840944798864120757609583445661467550184453302807786057622967143481199039343862212055846408935500988007721156565981463040]

def motJobs : List Nat :=
  [707646747867083123990379989892200759594795657154778705958339285049741245907050334433919180254662416695630011234554547965499413741042014041237495992194794589664978141440,
   707646747867091413609965425811877578547283428712414129597848119969940119939502105790295492286633997549367644621021968318928470355283304398922962557315744159234619605504,
   707646747867085384938123438082286040571470841504490695078170270049068323294505835870198188535178805434568169019672009044858654455590188776661641318357438830105277235968,
   707646747867088062316930989408953273217755565307313183072724313619745794485944603857890316645182383472647676048116121559293671835670465141092104620984466678130017305600]

def kcxJobs : List Nat :=
  [23134322349737717735007099635340311456574291245888123082914075365494268704188626720492867334516090485707748071252038876258130788051314056418887106195259958940217722356593126694067902845335998332338241653556737003476041597184,
   23134322349737717735007099635340311456574291245888123082914075365494276938673762309861678958145636942996356102543256474315208178299851101047722990235823016601181147097503447605329598151966359084358830556495564464532368654848,
   23134322349737717735007099635340311456574291245888123082914075365494268819722620692329295482726704278056510249729620748430974124090934750623725556295411403736372608483046931756999330085955446619787121038973413893812086899456,
   23134322349737717735007099635340311456574291245888123082914075365494280296488847470041283713044539186802233890027523978265340181262885097738243563771693557201848235373748625271209615978355557094046462721266306256097595360256,
   23134322349737717735007099635340311456574291245888123082914075365494272179417379333122266111969556609059908919563845663238823886351586054157794211952916859055118648148088022081576659333028243220527679215708576610571366958336,
   23134322349737717735007099635340311456574291245888123082914075365494277326864674250468162710764927344863508183210360350223993983961526270861561138677878447465182088135582156524138241064231462872567048616465824948950935799296,
   23134322349737717735007099635340311456574291245888123082914075365494272033080212082226753506907473339923173129366624812714478682920121357066798460087790866627029516773095032848765831522913410156037107473612829306613781235456,
   23134322349737717735007099635340311456574291245888123082914075365494273612978760054691959982906530967366699132858674075199796122718596470661322786486045150480199433647131542143101971788637929720157619288711656243047193118720]

theorem jobs_eq : bceJobs = [1, 2].map (fun o => (bceDescOf o).toNat) ∧ motJobs = [1, 2, 3, 4].map (fun o => (motDescOf o).toNat) ∧
    kcxJobs = [1, 2, 3, 4, 5, 6, 7, 8].map fun o => (kcxDescOf o).toNat := by decide +kernel

/-- A ring whose head is one of these jobs, with a private part of its state block. -/
def jobState (e : RingEngine) (d : Nat) (state : Byte) (kb : Option KBlock) : State :=
  { withMem [(hs, leBytes 128 d), (hs + 0x10000, [state])] (jobRing e 0 1 []) with
    kblocks := match kb with | some b => [(hs + 0x10000, some b)] | none => [] }

/-- A private part with the header of a frame of 8 × 8 samples, one lane of each side, and given slots and reference word. -/
def jobBlock (ref : Nat) : KBlock :=
  { KBlock.empty with
    header := some (leBytes 12 0 ++ leBytes 2 7 ++ leBytes 2 7 ++ leBytes 8 0 ++ leBytes 4 ref ++ leBytes 4 0)
    enc := [EncLane.start], dec := [⟨0, 0, false, 0, 0, 0, 0, 0, false⟩], scratch := hs + 0x50000, limit := 4096 }

theorem witness_jobs_are_read :
    (∀ d ∈ bceJobs, (jobState .bce d 0 none).headDesc .bce 0 = BitVec.ofNat 1024 d) ∧
      (∀ d ∈ motJobs, (jobState .mot d 0 none).headDesc .mot 0 = BitVec.ofNat 1024 d) ∧
      ∀ d ∈ kcxJobs, (jobState .kcx d 0 none).headDesc .kcx 0 = BitVec.ofNat 1024 d := by decide +kernel

theorem witness_jobs_come_first :
    (∀ d ∈ bceJobs, (jobState .bce d 0 none).ringFirst .bce 0 = true) ∧ (∀ d ∈ motJobs, (jobState .mot d 0 none).ringFirst .mot 0 = true) ∧
      ∀ d ∈ kcxJobs, (jobState .kcx d 0 none).ringFirst .kcx 0 = true := by decide +kernel

theorem witness_CompressionAndMotionJobsRun_bce : ∀ x ∈ bceJobs.zip [1, 2], let w := BitVec.ofNat 1024 x.1
    (jobState .bce x.1 0 none).bceVerdict 0 w = 0 ∧ bceOp w = x.2 ∧ (jobState .bce x.1 0 none).bceHeaderOk w = false := by decide +kernel

theorem witness_CompressionAndMotionJobsRun_mot : ∀ x ∈ motJobs.zip [1, 2, 3, 4], ∀ kb ∈ [none, some (jobBlock 0), some (jobBlock (2 ^ 11))],
    let w := BitVec.ofNat 1024 x.1
    let s := jobState .mot x.1 0 kb
    s.motVerdict 0 w = 0 ∧ mOp w = x.2 ∧ s.frameHeader w = kb.bind (·.header) := by decide +kernel

theorem witness_LosslessBlocksDecodeToTheirInput : ∀ d ∈ bceJobs.take 1, let w := BitVec.ofNat 1024 d
    bceLossy w = false ∧ bcePacked w = false := by decide +kernel

theorem witness_LosslessBlocksDecodeToTheirInput_status :
    (((nextOf (.bceCompress 0) (jobState .bce (bceJobs.headD 0) 0 none)).job 0).map (·.status)) = some 0 := by decide +kernel

theorem witness_CodingJobsRun : ∀ x ∈ kcxJobs.zip [1, 2, 3, 4, 5, 6, 7, 8], let w := BitVec.ofNat 1024 x.1
    (∀ kb ∈ [none, some (jobBlock 0)], (jobState .kcx x.1 1 kb).kcxVerdict 0 w = 0) ∧ kOp w = x.2 ∧ kFirst w = false ∧
      (jobState .kcx x.1 1 (some (jobBlock 0))).openBlock w 1 = some (jobBlock 0) ∧
      (jobState .kcx x.1 2 (some (jobBlock 0))).openBlock w 2 = some (jobBlock 0) ∧
      (jobState .kcx x.1 0 none).openBlock w 1 = none ∧ (jobState .kcx x.1 0 none).openBlock w 2 = none ∧
      { jobBlock 0 with fast := true }.fast ≠ kFast w ∧ ∀ i < 64, (jobState .kcx x.1 0 none).startCode (kA w) i 64 ≠ some 0xB4 := by
  decide +kernel

theorem witness_JobsCompleteWithTheirRecord : ∀ x ∈ [(RingEngine.bce, 7, bceJobs), (.kcx, 15, kcxJobs), (.mot, 7, motJobs)],
    ∀ status ∈ [0, 9], ∀ lost ∈ [false, true],
      let j : JobSt := ⟨x.2.1, 0, BitVec.ofNat 1024 (x.2.2.headD 0), status, List.replicate 16 0, 0, lost⟩
      let s := { up [] with jobs := [(ringUnit x.1 x.2.1, some j)] }
      s.recording = false ∧ s.replaying = false ∧ j.status < 256 ∧ j.body.length = 16 ∧ s.job (ringUnit x.1 x.2.1) = some j ∧
        j.ring = x.2.1 ∧ s.recordStatus j.desc = 0 := by decide +kernel

/-! Contexts, thaw windows, barriers, replay and live service. -/

/-- A ready function table bank. -/
def readyBank (profile : Nat) : FtbBank := ⟨.ready, profile, [], 0⟩

/-- A module with context 63 in a state, on sequencer 7 with logical cell 31. -/
def ctxAt (st : Nat) (l : List (Fld × List Nat × Nat)) (v : CtxSt) : State :=
  { (up ([(.ctxStatusState, [63], st), (.ctxLoadSequencer, [63], 7), (.ctxPeriodPeriod, [63], 2), (.ctxCellsCells, [63], 2 ^ 31),
      (⟨.cellOwner, 31, 28⟩, [3], 15)] ++ l)).setCtx 63 v with ftb1 := readyBank 0 }

theorem witness_ContextsAreCreatedAndReleased :
    (let s := ctxAt 0 [(.ctxFirstFrame, [63], 1)] CtxSt.empty
     s.HostUp ∧ s.fld .ctxStatusState [63] = 0 ∧ s.createRefused 63 = false) ∧
      (let s := ctxAt 0 [(.ctxPeriodPeriod, [63], 0)] CtxSt.empty; s.fld .ctxStatusState [63] = 0 ∧ s.fld .ctxPeriodPeriod [63] = 0) ∧
      (up []).profileBank 0 = none ∧ (∀ st ∈ [1, 2, 3, 4], (ctxAt st [] CtxSt.empty).fld .ctxStatusState [63] = st) ∧
      ((ctxAt 3 [] CtxSt.empty).ctx 63).frames = [] ∧
      ((ctxAt 3 [] { CtxSt.empty with frames := [⟨1, 1, true, 0⟩] }).ctx 63).frames ≠ [] := by decide +kernel

/-- A context whose position is due in frame 2. -/
def due (l : List (Fld × List Nat × Nat)) (v : CtxSt) : State := ctxAt 2 ([(.sttPositionFrame, [], 2)] ++ l) v

/-- Queue 4095 of the context, enabled and in scheduled admission, with a tail that no admission has taken. -/
def scheduled : List (Fld × List Nat × Nat) :=
  [(.queCfgEnable, [4095], 1), (.queCfgAdmitMode, [4095], 1), (.queCfgContext, [4095], 63), (.queTailTail, [4095], 1)]

/-- A context with a frame in flight. -/
def busyCtx : CtxSt := { CtxSt.empty with frames := [⟨1, 1, true, 0⟩], nextFrame := 2, positions := 2, taken := 1 }

theorem witness_AdmissionTakesDefersOrDrops_due : ∀ l ∈ [[], [(Fld.pwrStateCurrent, [], 3)], [(.dseqStatusHalted, [7], 1)], scheduled],
    let s := due l CtxSt.empty
    s.positionDue 63 = true ∧ s.replaying = false ∧ s.recording = false ∧ s.power.descent = false := by decide +kernel

theorem witness_AdmissionTakesDefersOrDrops_plain : ∀ v ∈ [CtxSt.empty, busyCtx, { CtxSt.empty with deferred := some [] }],
    let s := due scheduled v
    s.inFlow = true ∧ s.seqHalted (s.fld .ctxLoadSequencer [63]) = false ∧ s.setHalted 63 = false ∧ s.fld .ctxStatusState [63] = 2 ∧
      s.fld .rcvCfgWatchdog [63] = 0 ∧ s.flag .outCfgEnable [63] = false ∧ (s.ing 63).next = 0 ∧ (s.ctx 63).deferred = v.deferred ∧
      (decide ((s.ctx 63).frames.length < s.fld .ctxCfgDepthM1 [63] + 1)) = decide (v.frames = []) := by decide +kernel

theorem witness_AdmissionTakesDefersOrDrops_ports (v : CtxSt) (a : Nat) :
    (tabGet portReset (due [] v).ports a).degraded = false := rfl

theorem witness_AdmissionTakesDefersOrDrops_tails : (due scheduled CtxSt.empty).newTails 63 = [(4095, 1)] := by decide +kernel

theorem witness_AdmissionTakesDefersOrDrops_skips :
    (due [(.pwrStateCurrent, [], 3)] CtxSt.empty).inFlow = false ∧
      (let s := due [(.dseqStatusHalted, [7], 1)] CtxSt.empty; s.inFlow = true ∧ s.seqHalted (s.fld .ctxLoadSequencer [63]) = true) ∧
      (∀ d ∈ [0, 1], (due (scheduled ++ [(.ctxCfgDropNewest, [63], d)]) busyCtx).fld .ctxCfgDropNewest [63] = d) := by decide +kernel

theorem witness_AdmissionTakesDefersOrDrops_deferred :
    (let s := due [] { CtxSt.empty with deferred := some [(4095, 1)] }
     (s.ctx 63).deferred = some [(4095, 1)] ∧ s.fld .ctxStatusState [63] = 2 ∧
       (s.ctx 63).frames.length < s.fld .ctxCfgDepthM1 [63] + 1) ∧
      (let s := due [] { busyCtx with deferred := some [(4095, 1)] }; s.fld .ctxCfgDepthM1 [63] + 1 ≤ (s.ctx 63).frames.length) ∧
      (due [] CtxSt.empty).overdue 63 = none ∧ (due [] { busyCtx with watchdog := 1 }).overdue 63 = some 1 := by decide +kernel

theorem witness_AdmissionTakesDefersOrDrops_guards : ∀ step ∈ [0, 5], ∀ v ∈ [CtxSt.empty, busyCtx],
    let s := due [(.ctxGuardEnable, [63, 2], 1), (.ctxGuardStep, [63, 2], step)] v
    s.fld .ctxGuardEnable [63, 2] = 1 ∧ (s.ctx 63).guardDone.length = 3 ∧
      (decide ((s.ctx 63).guardDone.getD 2 0 < (s.ctx 63).taken) = decide (v = busyCtx)) ∧
      reaches (s.tally (s.fld .ctxGuardTally [63, 2])) step = decide (step = 0) := by decide +kernel

/-- Positions while a descent or a replay waits, with a halted cell of the set, in a recording, and with an overdue frame. -/
theorem witness_AdmissionTakesDefersOrDrops_modes :
    (let s := due scheduled CtxSt.empty; ({ s with power := { s.power with descent := true } } : State).positionDue 63 = true) ∧
      (due (scheduled ++ [(.rrStatusState, [], 2)]) CtxSt.empty).replaying = true ∧
      (let s := due (scheduled ++ [(.rrStatusState, [], 1)]) CtxSt.empty
       s.recording = true ∧ s.rr.lost = 0 ∧ s.rr.buffer.length + (s.newTails 63).length ≤ rrDepth) ∧
      (due (scheduled ++ [(.dbgStatusHalted, cellIx 34, 1)]) CtxSt.empty).setHalted 63 = true ∧
      (let s := due (scheduled ++ [(.rcvCfgWatchdog, [63], 1)]) busyCtx
       s.fld .rcvCfgWatchdog [63] ≠ 0 ∧ ∃ f rest, (s.ctx 63).frames = f :: rest ∧ 1 ≤ (s.ctx 63).positions + 1 - f.pos) ∧
      (∀ st ∈ [1, 3, 4], (due (scheduled ++ [(.ctxStatusState, [63], st)]) CtxSt.empty).fld .ctxStatusState [63] = st) ∧
      (due (scheduled ++ [(.sttPositionFrame, [], 3)]) CtxSt.empty).positionDue 63 = false :=
  ⟨by decide +kernel, by decide +kernel, by decide +kernel, by decide +kernel, ⟨by decide +kernel, _, [], rfl, by decide +kernel⟩,
    by decide +kernel, by decide +kernel⟩

/-- Thaw entry 15 with a task on target 1. -/
def thawAt (task : Nat) (run : Nat) (force : Bool) : State :=
  { up [(.thawCfgEnable, [15], 1), (.thawCfgTask, [15], task), (.thawCfgMaxDefer, [15], 1), (.thawCfgTarget, [15], 1), (.thawStatRunning, [15], run)]
    with thaw := if force then [(15, { ThawSt.empty with force := true })] else [] }

theorem witness_ThawWindowsOpenAndEnd_open :
    (up []).HostUp ∧ (up []).recording = false ∧ (up []).replaying = false ∧
      (∀ s ∈ [thawAt 4 0 false, (thawAt 4 0 false).setShelf 1 { ShelfSt.empty with txns := [txn false none] }],
        s.thawDue 15 = true ∧ s.thawRuns 15 = false ∧ s.thawAllowed (s.thawTask 15) = true ∧ (s.thawEntry 15).force = false ∧
          s.thawTask 15 = 4 ∧ s.thawYields 15 = false ∧ s.claimsUsed 4 1 = !(s.shelf 1).txns.isEmpty) ∧
      (let s := up []; s.thawDue 1 = true ∧ s.thawRuns 1 = false ∧ s.thawAllowed (s.thawTask 1) = true ∧ s.thawTask 1 < 3 ∧
        (s.thawEntry 1).force = false) ∧ (up []).thawDue 15 = false := by decide +kernel

theorem witness_ThawWindowsOpenAndEnd_end :
    (let s := thawAt 4 0 true; (s.thawEntry 15).force = true ∧ s.flag .thawCfgEnable [15] = true ∧ s.thawRuns 15 = false ∧ s.inFlow = true ∧
      s.claimRuns 15 = false ∧ s.thawYields 15 = false ∧ s.thawTask 15 ≠ 6) ∧
      (∀ task ∈ [3, 4, 5, 7], let s := thawAt task 1 false; s.thawRuns 15 = true ∧ s.thawTask 15 = task ∧ (s.thawEntry 15).force = false) ∧
      (∀ task ∈ [4, 6], ∀ f ∈ [false, true], let s := thawAt task 1 f; s.thawRuns 15 = true ∧ s.thawTask 15 = task ∧ (s.thawEntry 15).force = f) ∧
      (∀ id ∈ [0, 7], let s := { up [(.hubNumStatusSwitchPending, [], 1), (.hubProfilePendingId, [], id)] with ftb0 := readyBank 7 }
        s.fld .hubNumStatusSwitchPending = 1 ∧ s.fld .sttPositionFrame = s.fld .hubProfileSwitchFrame ∧
          (s.profileBank (s.fld .hubProfilePendingId) = none ↔ id = 0)) ∧ (up []).fld .hubNumStatusSwitchPending = 0 := by decide +kernel

/-- Where a window may open, must wait for its place, and came already in this frame. -/
theorem witness_ThawWindowsOpenAndEnd_here :
    (∀ x ∈ [(thawAt 4 0 false, 15), (up [], 1)], x.1.thawHere x.2 = true ∧ x.1.thawCame x.2 = false ∧ x.1.replaying = false) ∧
      (let s := thawAt 4 0 true
       s.thawForced 15 = true ∧ s.thawCame 15 = false ∧ s.station.boundary = true ∧ s.thawRuns 15 = false ∧ s.inFlow = true ∧
         s.replaying = false ∧ s.claimRuns 15 = false ∧ s.thawYields 15 = false) ∧
      (let s := { up [(.thawCfgEnable, [15], 1), (.thawCfgTask, [15], 4), (.thawPosLine, [15], 1)] with thaw := [] }; s.thawHere 15 = false) ∧
      ({ thawAt 4 0 false with thaw := [(15, { ThawSt.empty with last := some 0 })] } : State).thawCame 15 = true := by decide +kernel

/-- A maintenance window of queue 4095 whose queue holds a frame, and one whose queue holds none. -/
theorem witness_ThawWindowsOpenAndEnd_maintenance : ∀ tail ∈ [0, 1],
    let s := withRegs [(.thawCfgEnable, [15], 1), (.thawCfgTask, [15], 6), (.thawCfgMaxDefer, [15], 1), (.thawCfgTarget, [15], 4095)]
      (ctxAt 2 (scheduled ++ [(.queTailTail, [4095], tail)]) CtxSt.empty)
    s.thawDue 15 = true ∧ s.thawHere 15 = true ∧ s.thawTask 15 = 6 ∧ s.claimsUsed 6 4095 = false ∧ s.thawYields 15 = false ∧
      s.fld .ctxStatusState [s.qCtx 4095] = 2 ∧ s.qEnabled 4095 = true ∧ s.fld .queCfgAdmitMode [4095] = 1 ∧
      (s.fld .queTailTail [4095] ≠ (s.queue 4095).admitted ↔ tail = 1) := by decide +kernel

/-- A member of a tree with child port 23 and the parent port given (31 at the root). -/
def treeState (parent : Nat) (l : List (Fld × List Nat × Nat)) (b : BarrierSt) : State :=
  { up ([(.portStatusState, [23], 2), (.portStatusState, [0], 2)] ++ l) with
    barrier := { b with tree := parent * 2 ^ 27 + 2 ^ 23, node := 3 * 2 ^ 12 + 0x7FF } }

theorem witness_BarriersReleaseTogether :
    (up []).recording = false ∧ (up []).replaying = false ∧ (up []).flag .barrierCfgEnable = false ∧
      (let s := treeState 0 [(.barrierCfgEnable, [], 1)] BarrierSt.empty
       s.flag .barrierCfgEnable = true ∧ s.ready = true ∧ s.portUp 23 = true ∧ 23 ∈ s.childPorts ∧ s.barrier.up = false ∧ s.barrier.own = false ∧
         s.barrier.isRoot = false ∧ s.portUp s.barrier.parent = true ∧ (22 : Nat) ∉ s.childPorts ∧ bitOf 8 s.barrier.position = true ∧
         bitOf 0 s.barrier.position = false ∧ s.barrier.release = none ∧ s.egressOf (s.fld .barrierCfgTally) = []) ∧
      (treeState 31 [] BarrierSt.empty).barrier.isRoot = true ∧
      (let s := treeState 31 [(.barrierStatusFabricStarted, [], 1)] { BarrierSt.empty with outstanding := true, release := some 9 }
       s.barrier.release = some 9 ∧ s.egressOf (s.fld .barrierCfgTally) = [] ∧ s.flag .barrierStatusFabricStarted = true) ∧
      (let s := treeState 31 [] { BarrierSt.empty with outstanding := true }; s.barrier.outstanding = true ∧ s.barrier.release = none) ∧
      BarrierSt.empty.outstanding = false := by decide +kernel

/-- A root that all arrived at releases; a member that all its children arrived at rises; one that is up forwards what still comes. -/
theorem witness_BarriersReleaseTogether_moves :
    (∀ parent ∈ [31, 0], let arr : List Arrival := [⟨23, 2 ^ 8, none⟩]
      let s := treeState parent [(.barrierCfgEnable, [], 1), (.barrierStatusFabricStarted, [], 1)] { BarrierSt.empty with arrivals := arr }
      let ready := { PortSt.empty with peerReady := true }
      let s := (s.setPort 23 ready).setPort 0 ready
      let c : BarrierSt := { s.barrier with own := true, up := false, frame := some (s.fld .sttPositionFrame), outstanding := true, release := none }
      s.flag .barrierCfgEnable = true ∧ s.ready = true ∧ s.replaying = false ∧ s.barrierHere = true ∧ s.startReady = true ∧
        c.isRoot = (parent == 31) ∧ s.parentSends = (parent == 0) ∧ (∀ a ∈ s.childPorts, s.portSends a = true → ∃ x ∈ c.arrivals, x.port = a) ∧
        c.release = none ∧ (s.port 0).got = none ∧ s.portUp 23 = true) ∧
      (let s := (treeState 0 [] { BarrierSt.empty with up := true, own := true }).setPort 0 { PortSt.empty with peerReady := true }
       s.barrier.up = true ∧ s.parentSends = true ∧ (23 : Nat) ∈ s.childPorts ∧ s.portUp 0 = true) ∧
      (treeState 0 [] { BarrierSt.empty with release := some 5, fresh := false }).barrier.fresh = false := by decide +kernel

/-- A replay with a log of two records at the start of hub store, at cycle 10. -/
def replayState (type cycle : Nat) : State :=
  { withMem [(hs, leBytes 8 type ++ leBytes 8 cycle)] (up [(.rrStatusState, [], 2), (.rrCtrlMode, [], 2), (.rrCtrlLog2Size, [], 1),
      (.rrBaseBase, [], hs / 64)]) with hclk := 10 }

theorem witness_RecordAndReplayChangeAtTheBoundary :
    (up []).HostUp ∧ (∀ x ∈ [(0, 0), (3, 1), (3, 2), (1, 0)], let s := up [(.rrStatusState, [], x.1), (.rrCtrlMode, [], x.2)]
      s.fld .rrStatusState = x.1 ∧ s.fld .rrCtrlMode = x.2) ∧
      ((2 ^ 23 : Nat) / 2 ^ 23 % 64 ≠ getBits ((up []).reg .rrCtrl) 28 23) ∧ (up []).replaying = false ∧
      (∀ x ∈ [(8, 9), (8, 10), (3, 10), (3, 11)], let s := replayState x.1 x.2
        s.replaying = true ∧ s.rrMissed (2 ^ s.fld .rrCtrlLog2Size) 0 = (if x = (8, 9) then some 0 else none) ∧
          s.rrNextInput (2 ^ s.fld .rrCtrlLog2Size) s.rr.next = (if x.1 = 3 then some 0 else none) ∧
          (decide (s.rrCycle < s.rrField 0 8 8)) = decide (x.2 = 11)) := by decide +kernel

/-- Every pair of state and mode at the boundary, and away from it; a log whose next record is its end; each type of input. -/
theorem witness_RecordAndReplayChangeAtTheBoundary_runs :
    (∀ x ∈ [(2, 1), (3, 1), (1, 2), (3, 2), (1, 0), (2, 0), (2, 2)], let s := up [(.rrStatusState, [], x.1), (.rrCtrlMode, [], x.2)]
      s.station.boundary = true ∧ s.fld .rrStatusState = x.1 ∧ s.fld .rrCtrlMode = x.2) ∧
      ({ up [] with station := { StationSt.empty with boundary := false } } : State).station.boundary = false ∧
      (replayState 15 10).rrEnd ≠ none ∧ (replayState 3 10).rrEnd = none ∧ (replayState 1 0).rrType 0 = 1 ∧
      (∀ h ∈ [0, 1], (withRegs [(.rrStatusDiverged, [], h), (.rrCtrlHaltOnDiverge, [], 1)] (replayState 8 9)).rrMissed 2 0 = some 0) ∧
      ∀ type ∈ [2, 3, 4, 5, 6, 9], ∀ arg1 ∈ [0, 1, 2],
        let s := replayState (type + 2 ^ 16 * 7 + 2 ^ 32 * arg1) 10
        s.rrNextInput 2 s.rr.next = some 0 ∧ s.rrType 0 = type ∧ s.rrField 0 2 2 = 7 ∧ s.rrField 0 4 4 = arg1 ∧ s.rrField 0 8 8 ≤ s.rrCycle := by
  decide +kernel

theorem witness_LiveServiceReplacesCellsAndFirmware :
    (up []).HostUp ∧ (up []).cfld .slbCellState 34 = 0 ∧ (up []).cfld .slbCellState 35 ≠ 0 ∧
      (let s := up [(.slbCellState, cellIx 34, 3)]
       s.cfld .slbCellState 34 = 3 ∧ s.cellQuiet 34 = true ∧ s.remapping 34 = false ∧ s.spareOf 34 = some 35 ∧
         s.remaps.find? (fun r => r.old == 34) = none) ∧
      (up [(.slbCellState, cellIx 34, 3), (.slbCellState, cellIx 35, 5)]).spareOf 34 = none ∧
      (∀ copy ∈ [false, true], let s := { up [] with remaps := [⟨34, 35, copy⟩] }
        s.remaps.find? (fun r => r.old == 34) = some ⟨34, 35, copy⟩ ∧ (35 : Nat) < 36) ∧
      (∀ st ∈ [0, 1, 2, 3], let s := up [(.fwStatusInactiveState, [], st), (.fwStatusSwitchPending, [], 1)]
        s.fld .fwStatusInactiveState = st ∧ s.fld .fwStatusSwitchPending = 1 ∧ s.fld .sttPositionFrame = s.fld .fwSwitchSwitchFrame) ∧
      (up []).fld .fwStatusSwitchPending = 0 ∧ (up []).seqHalted 7 = false ∧ (up [(.dseqStatusHalted, [7], 1)]).seqHalted 7 = true := by
  decide +kernel

theorem witness_LiveServiceReplacesCellsAndFirmware_more :
    (2 ^ 31 + 7 : Nat) / 2 ^ 31 = 1 ∧ ¬ 9 ≤ (2 ^ 31 + 7) % 16 ∧ (7 : Nat) / 2 ^ 31 = 0 ∧ 9 ≤ (2 ^ 31 + 9) % 16 ∧
      (∀ c ∈ [0, 1], let s := up [(.slbCellState, cellIx 34, 3), (.slbRemapCtrlCopy, [3], c)]
        s.station.boundary = true ∧ s.flag .slbRemapCtrlCopy [34 / 9] = (c == 1) ∧ s.spareOf 34 = some 35) ∧
      (let s := { up [(.slbCellState, cellIx 34, 3)] with station := { StationSt.empty with boundary := false } }
       s.station.boundary = false) ∧ (up []).remaps.find? (fun r => r.old == 34) = none ∧
      ∀ on ∈ [0, 1], (up [(.dseqBpEnable, [7, 3], on)]).fld .dseqBpEnable [7, 3] = on := by decide +kernel

/-! Ports, channels and laser modules. -/

/-- Port 23 in a state, its engine lit or not, with what it holds beside its registers. -/
def portAt (st light : Nat) (l : List (Fld × List Nat × Nat)) (v : PortSt) : State :=
  (up ([(.portStatusState, [23], st), (.lasStatusState, [11], light)] ++ l)).setPort 23 v

theorem witness_PortsTrainAndCarrySegments_train :
    (∀ light ∈ [0, 2], ∀ st ∈ [0, 1, 2], let s := portAt st light [(.portCtrlEnable, [23], 1)] PortSt.empty
      s.HostUp ∧ s.portState 23 = st ∧ s.engineLit 23 = (light == 2) ∧ s.portLit 23 = (light == 2) ∧ s.portUp 23 = (st == 2)) ∧
      (let s := portAt 0 2 [(.portCtrlEnable, [23], 1)] PortSt.empty; (s.engineLit 23 && false) = false ∧ s.portState 23 = 0) := by
  decide +kernel

theorem witness_PortsTrainAndCarrySegments_lanes :
    (let s := portAt 2 2 [(.chanCfgEnable, [255], 1), (.chanCfgPort, [255], 23)] PortSt.empty
     let s := s.setChan 255 ⟨0, 70000⟩
     s.portUp 23 = true ∧ s.sendChans 23 = [255] ∧ (4465 : Nat) ≤ (s.chan 255).done ∧ (s.chan 255).done < 4465 + 65536 ∧
       s.flag .portStatusSpareUsed [23] = false ∧ (s.port 23).spare = none ∧ (s.port 23).due = false ∧ (s.port 23).failed = [] ∧
       (7 : Nat) ∉ (s.port 23).failed) ∧
      (portAt 2 2 [(.portStatusSpareUsed, [23], 1)] PortSt.empty).flag .portStatusSpareUsed [23] = true ∧
      (∀ v ∈ [{ PortSt.empty with spare := some (3, 9), due := true }, { PortSt.empty with failed := [1] }, { PortSt.empty with failed := [1, 2] }],
        ((portAt 2 2 [] v).port 23) = v ∧ (portAt 2 2 [] v).portUp 23 = true) := by decide +kernel

/-- Words in order, repeated, skipped, and on a port that is down. -/
theorem witness_PortsTrainAndCarrySegments_words :
    (portAt 2 2 [] { PortSt.empty with got := some 65535 }).WordNext 23 0 ∧ (portAt 2 2 [] PortSt.empty).WordNext 23 0 ∧
      (portAt 2 2 [] { PortSt.empty with got := some 0 }).WordLost 23 0 ∧ (portAt 2 2 [] { PortSt.empty with got := some 1 }).WordLost 23 0 ∧
      (portAt 1 2 [] PortSt.empty).WordLost 23 0 ∧
      let s := portAt 2 2 [] { PortSt.empty with got := some 65534 }
      s.portUp 23 = true ∧ (s.port 23).got = some 65534 ∧ (0 + 65536 - 65534) % 65536 ∉ [0, 1] ∧ (0 + 65536 - 65534) % 65536 < 32768 :=
  ⟨⟨by decide +kernel, by decide +kernel⟩, ⟨by decide +kernel, by decide +kernel⟩, .inr ⟨0, by decide +kernel, by decide +kernel⟩,
    .inr ⟨1, by decide +kernel, by decide +kernel⟩, .inl (by decide +kernel), by decide +kernel⟩

/-- A port trains again after none, one, two and three failed lanes, and a degraded one waits for the boundary. -/
theorem witness_PortsTrainAndCarrySegments_again :
    (∀ l ∈ [[], [1], [1, 7], [1, 2, 3]], ∀ d ∈ [false, true], let s := portAt 1 2 [] { PortSt.empty with failed := l, due := d }
      s.portState 23 = 1 ∧ s.portLit 23 = true ∧ (s.port 23).failed = l ∧ (s.port 23).due = d ∧ s.station.boundary = true ∧
        s.flag .portStatusSpareUsed [23] = false) ∧
      ({ portAt 2 2 [] { PortSt.empty with due := true } with station := { StationSt.empty with boundary := false } } : State).station.boundary = false := by
  decide +kernel

/-- Channel 255 on port 23 with segments of one flit at the start of hub store. -/
def chanAt (role : Nat) (st : Nat) (l : List (Fld × List Nat × Nat)) : State :=
  portAt st 2 ([(.chanCfgEnable, [255], 1), (.chanCfgRole, [255], role), (.chanCfgPort, [255], 23), (.chanCfgShare, [255], 54),
    (.chanBufBase, [255], hs / 64), (.chanTallyTally, [255], 4095), (.talValueValue, [4095], 1)] ++ l) { PortSt.empty with peerReady := true }

theorem witness_PortsTrainAndCarrySegments_enable :
    (let s := chanAt 0 2 []
     s.HostUp ∧ s.flag .chanCfgEnable [255] = true ∧ 0 ≠ getBits (s.reg .chanCfg [255]) 30 11 ∧
       (23 * 2 ^ 25 + 54 * 2 ^ 19) / 2 ^ 11 % 2 ^ 20 = getBits (s.reg .chanCfg [255]) 30 11) ∧
      (let s := chanAt 0 2 [(.chanCfgEnable, [255], 0)]
       s.flag .chanCfgEnable [255] = false ∧ s.enableRefused 255 (2 ^ 31 + 24 * 2 ^ 25) = true ∧
         s.enableRefused 255 (2 ^ 31 + 23 * 2 ^ 25 + 55 * 2 ^ 19) = true ∧ s.enableRefused 255 (2 ^ 31 + 23 * 2 ^ 25 + 54 * 2 ^ 19) = false) := by
  decide +kernel

theorem witness_PortsTrainAndCarrySegments_send :
    (∀ st ∈ [1, 2], let s := chanAt 0 st []
      s.flag .chanCfgEnable [255] = true ∧ s.flag .chanCfgRole [255] = false ∧ s.segReady 255 = true ∧ s.forcedOn 3 23 = false ∧
        s.portSends 23 = (st == 2) ∧ s.fld .pwrStateCurrent = 0 ∧ 0 < s.shareOf 255) ∧ (up []).flag .chanCfgEnable [255] = false ∧
      (let s := { chanAt 0 2 [(.thawStatRunning, [2], 1), (.thawCfgTask, [2], 3), (.thawCfgTarget, [2], 23)] with
          thaw := [(2, { ThawSt.empty with force := true })] }
       s.segReady 255 = true ∧ s.forcedOn 3 (s.fld .chanCfgPort [255]) = true) ∧
      (let s := chanAt 1 2 []
       s.flag .chanCfgRole [255] = true ∧ s.portUp 23 = true ∧ s.fld .chanSegFlitsM1 [255] = 0 ∧ s.segBytes 255 = 64 ∧
         s.chanBufOk 255 = true ∧ s.recording = false ∧ s.replaying = false ∧ s.egressOf 4095 = []) := by decide +kernel

/-- Laser modules 14 and 15 in states. -/
def lasAt (a b : Nat) (l : List (Fld × List Nat × Nat)) (v : LaserSt) : State :=
  (up ([(.lasStatusState, [14], a), (.lasStatusState, [15], b)] ++ l)).setLaser 14 v

/-- A command word with its CRC and a sequence (R454). -/
def lasWord (seq : Nat) : BitVec 64 :=
  let b := seq * 2 ^ 48
  BitVec.ofNat 64 (b + crc16 ((leBytes 8 b).drop 2))

theorem witness_LaserModulesServeAndAreReplaced_states :
    (∀ a ∈ [0, 1, 2, 3, 4, 5, 6], let s := lasAt a 2 [] LaserSt.empty
      s.lasState 14 = a ∧ s.lasState (partner 14) = 2 ∧ s.lasLit 14 = (a == 2 || a == 3 || a == 4)) ∧
      (∀ run ∈ [0, 1], ∀ b ∈ [false, true], let s := { lasAt 2 2 [(.thawStatRunning, [15], run), (.thawCfgTask, [15], 1)]
          { LaserSt.empty with removing := true, due := b } with station := { StationSt.empty with boundary := b } }
        (s.laser 14).removing = true ∧ s.lasState 14 = 2 ∧ s.lasState 15 = 2 ∧ (s.laser 14).due = b ∧ s.station.boundary = b ∧
          s.taskRuns 1 = (run == 1)) ∧
      (∀ run ∈ [0, 1], ∀ b ∈ [2, 3, 6], let v := { LaserSt.empty with takeUp := true }
        let s := lasAt 5 b [(.thawStatRunning, [15], run), (.thawCfgTask, [15], 1)] v
        s.lasState 14 = 5 ∧ s.lasState 15 = b ∧ (s.laser 14).takeUp = true ∧ s.flag .lasCtrlHold [14] = false ∧
          s.opticsOn = true ∧ s.station.boundary = true ∧ s.lasLit 15 = (b != 6) ∧ s.taskRuns 1 = (run == 1)) := by decide +kernel

/-- Whether an identity memory is sound is left open (R446): both cases come into a socket whose module is dark. -/
theorem witness_LaserModulesServeAndAreReplaced_insert (l : List Byte)
    (h : Config.laserCrcOk l = true ∧ Config.laserField 1 l = 150 ∧ Config.laserField 2 l = 140) :
    (lasAt 0 2 [] LaserSt.empty).lasLit 14 = false ∧
      ¬ (Config.laserCrcOk l = false ∨ Config.laserField 1 l < 150 ∨ Config.laserField 2 l ≠ 140) := by
  refine ⟨by decide +kernel, ?_⟩
  rw [h.1, h.2.1, h.2.2]
  decide

theorem witness_LaserModulesServeAndAreReplaced_words :
    (∀ seq ∈ [0, 9], let w := (lasWord seq).toNat; crc16 ((leBytes 8 w).drop 2) = w % 2 ^ 16 ∧ w / 2 ^ 48 = seq ∧
      crc16 ((leBytes 8 (w + 1)).drop 2) ≠ (w + 1) % 2 ^ 16) ∧ (65535 + 1) % 65536 = 0 ∧
      (∀ a ∈ [2, 6], ∀ k ∈ [2, 3], let s := lasAt a 2 [] { LaserSt.empty with tries := k, last := some 65535 }
       (s.laser 14).tries = k ∧ (s.laser 14).last = some 65535 ∧ s.lasLit 14 = (a == 2) ∧ s.taskRuns 1 = false ∧ 2 ≤ s.lasState 14) ∧
      (lasAt 1 2 [] LaserSt.empty).lasState 14 < 2 := by decide +kernel

/-- Which biases command codes set is left open (R454): a word in order is good where its bias, if it sets one, is within the maximum. -/
theorem witness_LaserModulesServeAndAreReplaced_good (b : Nat) (hb : b ≤ 2550) (h : Config.laserBias 0 0 0 = some b) :
    let w := (lasWord 0).toNat
    let s := lasAt 2 2 [(.lasRatingMaxBias, [14], 255)] LaserSt.empty
    Config.laserBias (w / 2 ^ 40 % 2 ^ 8) (w / 2 ^ 24 % 2 ^ 16) (w / 2 ^ 16 % 2 ^ 8) = some b ∧ b ≤ 10 * s.fld .lasRatingMaxBias [14] ∧
      2 ≤ s.lasState 14 ∧ s.lasLit 14 = true ∧ s.taskRuns 1 = false := by
  have z : (lasWord 0).toNat / 2 ^ 40 % 2 ^ 8 = 0 ∧ (lasWord 0).toNat / 2 ^ 24 % 2 ^ 16 = 0 ∧ (lasWord 0).toNat / 2 ^ 16 % 2 ^ 8 = 0 := by
    decide +kernel
  have e : (lasAt 2 2 [(.lasRatingMaxBias, [14], 255)] LaserSt.empty).fld .lasRatingMaxBias [14] = 255 := by decide +kernel
  dsimp only
  rw [z.1, z.2.1, z.2.2, e]
  exact ⟨h, hb, by decide +kernel, by decide +kernel, by decide +kernel⟩

theorem witness_LaserModulesServeAndAreReplaced_wear :
    (lasAt 2 2 [] LaserSt.empty).lasLit 14 = true ∧ (lasAt 2 2 [] LaserSt.empty).fld .pwrStateCurrent ≤ 2 ∧
      (lasAt 6 2 [] LaserSt.empty).lasLit 14 = false := by decide +kernel

/-- A step within 1 % of nothing is nothing. -/
theorem wear_of_no_bias (x t : Nat) (w : (100 * x * 3600000) ^ 10 * 2 ^ 45 ≤ (101 * 0 * 2 ^ 32) ^ 10 * 2 ^ t) : x = 0 := by
  rcases Nat.eq_zero_or_pos x with h | h
  · exact h
  · have p : 0 < (100 * x * 3600000) ^ 10 * 2 ^ 45 := Nat.mul_pos (Nat.pow_pos (by omega)) (Nat.pow_pos (by omega))
    have z : (101 * 0 * 2 ^ 32) ^ 10 * 2 ^ t = 0 := by simp
    rw [z] at w
    exact absurd (Nat.lt_of_lt_of_le p w) (Nat.lt_irrefl 0)

/-- Whatever a part's own wear is, a second of it at no bias is 0. -/
theorem witness_LaserModulesServeAndAreReplaced_share : wearOf 0 0 = 0 ∧ 0 * 65536 + LaserSt.empty.frac + wearOf 0 0 < 2 ^ 48 := by
  have h : wearOf 0 0 = 0 := by
    show (if wearWithin 0 25 (Config.wearStep 0 25) then Config.wearStep 0 25 else wearRoot 0 25 40 0) = 0
    split
    · rename_i w
      rw [wearWithin, Bool.and_eq_true, decide_eq_true_eq, decide_eq_true_eq] at w
      exact wear_of_no_bias _ _ w.2
    · decide +kernel
  exact ⟨h, by rw [h]; decide +kernel⟩

/-! The ladder and bring-up. -/

/-- A ladder state, a target, a protective descent, and other registers. -/
def psAt (now target prot : Nat) (l : List (Fld × List Nat × Nat)) : State :=
  st ([(.pwrStateCurrent, [], now), (.pwrStateTarget, [], target), (.pwrStateProtective, [], prot)] ++ l)

/-- The same with the 48 V input absent. -/
def psDark (now target : Nat) : State := { psAt now target 0 [] with power := { PowerSt.empty with input := false } }

theorem witness_TheLadderMovesAndTheModuleComesUp_requests :
    ((psAt 0 0 1 []).flag .pwrStateProtective = true ∧ (3#3).toNat = 3 ∧ (5#3).toNat = 5 ∧ 4 < (5 : Nat)) ∧
      ((psDark 4 4).power.input = false ∧ (psDark 4 4).psNow = 4 ∧ (3 : Nat) < 4) ∧
      (∀ now ∈ [0, 4], let s := psAt now now 0 [(.hubReadyReady, [], 1), (.hubReadyConfig, [], 1)]
        s.HostUp ∧ s.psNow = now ∧ s.flag .pwrStateProtective = false ∧ s.power.input = true ∧ s.boot.firn = false) ∧
      (∀ n ∈ [0, 2], let s := { psAt 2 2 0 [] with boot := ⟨false, false, false, true⟩ }
        s.boot.firn = true ∧ s.psNow = 2 ∧ s.flag .pwrStateProtective = false ∧ (decide (s.psNow ≤ n)) = (n == 2)) := by decide +kernel

theorem witness_TheLadderMovesAndTheModuleComesUp_moves :
    (∀ now ∈ [0, 1, 2, 3], let s := psAt now 4 0 []
      s.psNow = now ∧ s.psTarget = 4 ∧ now < s.psTarget ∧ s.station.boundary = true ∧ (∀ c, c < 64 → (s.ctx c).frames = []) ∧
        (∀ e ∈ s.jobs, e.2 = none) ∧ ∀ c, c < 64 → s.fld .ctxStatusState [c] = 0) ∧
      (let s := { psAt 0 0 1 [] with power := { PowerSt.empty with descent := true, held := true } }
       s.psNow = 0 ∧ s.power.descent = true ∧ 0 < Nat.max 1 s.psTarget ∧ ∀ c, c < 64 → (s.ctx c).frames = []) ∧
      (∀ now ∈ [1, 2, 3, 4], let s := psAt now 0 0 []
        s.psNow = now ∧ s.psTarget < now ∧ s.power.input = true ∧ s.boot.running = false ∧ s.power.held = false ∧
          s.flag .pwrStateProtective = false) ∧
      (∀ now ∈ [1, 2, 3], let s := { psAt now 0 0 [] with boot := ⟨false, true, false, false⟩ }
        s.boot.running = true ∧ s.psNow = now ∧ now < 4 ∧ s.psTarget < now ∧ s.power.held = false) ∧
      (let s := psAt 1 0 1 []; s.flag .pwrStateProtective = true ∧ Nat.max 1 s.psTarget = s.psNow) ∧ (psAt 5 0 0 []).psNow = 5 := by
  decide +kernel

theorem witness_TheLadderMovesAndTheModuleComesUp_stays :
    (∀ d ∈ [false, true], let v := { CtxSt.empty with frames := [⟨1, 1, true, 0⟩] }
     let s := ({ psAt 0 1 0 [] with power := { PowerSt.empty with descent := d } } : State).setCtx 63 v
     s.psNow = 0 ∧ s.power.descent = d ∧ 0 < s.psTarget ∧ (63 : Nat) < 64 ∧ (s.ctx 63).frames ≠ []) ∧
      (let s := psAt 2 3 0 [(.ctxStatusState, [63], 1)]
       s.psNow = 2 ∧ 2 < s.psTarget ∧ ¬ ∀ c, c < 64 → s.fld .ctxStatusState [c] = 0) ∧
      (let s := (psAt 3 0 0 []).setShelf 1 { ShelfSt.empty with parked := some (4096, 255) }
       s.psNow = 3 ∧ s.psTarget < 3 ∧ (s.shelf 1).parked = some (4096, 255)) ∧
      (let s := psAt 2 3 0 [(.shelfStatusState, [1], 2)]; s.psNow = 2 ∧ s.fld .shelfStatusState [1] = 2) ∧
      (let s := psDark 4 0; s.psNow = 4 ∧ s.psTarget < 4 ∧ s.power.input = false) ∧
      (∀ x ∈ [(1, 2, 1), (1, 2, 2), (2, 1, 3)], let s := { psAt x.1 x.2.1 0 [(.sttStatusLock, [], x.2.2)] with
          station := { StationSt.empty with cfg := BitVec.ofNat 64 (2 ^ 30) } }
        s.psNow = x.1 ∧ s.station.source = 1 ∧ s.fld .sttStatusLock = x.2.2) ∧
      ((psAt 2 3 0 []).psNow = 2 ∧ 2 < (psAt 2 3 0 []).psTarget) ∧ (psAt 2 2 0 []).psTarget ≤ 2 := by decide +kernel

/-- What a module's light gives at a bias is left open (R446, R455): a reading more than 20 % above it shuts the module. -/
theorem witness_TheLadderMovesAndTheModuleComesUp_over (h : Config.laserPower [] 0 = 100) :
    let s := psAt 3 0 0 [(.lasStatusState, [15], 2)]
    let r : LaserReading := ⟨31, [121], false, 30⟩
    s.psNow = 3 ∧ r.powers.any (s.overPower (r.laser % 16)) = true ∧ s.lasLit (r.laser % 16) = true := by
  refine ⟨by decide +kernel, ?_, by decide +kernel⟩
  have e : (psAt 3 0 0 [(.lasStatusState, [15], 2)]).laser 15 = LaserSt.empty := by decide +kernel
  show (decide (120 * Config.laserPower ((psAt 3 0 0 [(.lasStatusState, [15], 2)]).laser 15).ident
    ((psAt 3 0 0 [(.lasStatusState, [15], 2)]).laser 15).bias < 100 * 121) || false) = true
  rw [e]
  show (decide (120 * Config.laserPower [] 0 < 100 * 121) || false) = true
  rw [h]
  decide

theorem witness_TheLadderMovesAndTheModuleComesUp_firn :
    (∀ now ∈ [0, 1, 2], let s := { psAt now now 0 [] with boot := ⟨false, false, false, true⟩ }
      s.boot.firn = true ∧ s.psNow = now ∧ s.psTarget = now ∧ s.power.held = false ∧ s.power.input = true) ∧
      (∀ target ∈ [0, 1], let s := { psAt 2 target 0 [] with boot := ⟨false, false, false, true⟩ }
        s.boot.firn = true ∧ s.psNow = 2 ∧ s.psTarget = target) ∧
      (let s := { psAt 1 0 0 [] with boot := ⟨false, false, false, true⟩ }; s.boot.firn = true ∧ s.psNow = 1 ∧ s.psTarget = 0) ∧
      (let s := { psAt 1 0 0 [] with power := { PowerSt.empty with held := true } }
       s.power.held = true ∧ s.psNow = 1 ∧ Nat.max 1 s.psTarget = 1) ∧
      (let s := psAt 3 0 0 [(.lasStatusState, [15], 2)]; s.psNow = 3 ∧ s.lasLit (31 % 16) = true) := by decide +kernel

/-- A module that a protective descent has taken to Slush stays there once the descent clears, until a request is accepted (R503). -/
theorem test_descent_holds :
    let s := nextOf (.leakDetected false) (nextOf (.leakDetected true) (psAt 1 0 0 []))
    let s := nextOf (.protectiveClear true true) s
    s.fld .pwrStateProtective = 0 ∧ nextOf (.ladderMoveUp []) s = s ∧
      (nextOf (.ladderMoveUp []) (nextOf (.pldmSetState .i3c 0) s)).psNow = 0 := by decide +kernel

theorem witness_TheLadderMovesAndTheModuleComesUp_bringUp :
    (psAt 4 4 0 []).psNow = 4 ∧ (psAt 4 4 0 []).power.input = true ∧ (psAt 0 0 0 []).psNow ≠ 4 ∧ (psAt 0 0 0 []).ready = false ∧
      (up []).ready = true ∧ (psDark 0 0).power.input = false ∧ State.reset.boot.running = false ∧
      (∀ stage ∈ [BootStage.config, .memory, .cells, .optics],
        let s := { st (([Fld.hubReadyConfig, .hubReadyMemory, .hubReadyCells, .hubReadyOptics].filter (· ≠ stageField stage)).map fun f =>
          (f, [], 1)) with boot := ⟨false, true, false, false⟩ }
       s.boot.running = true ∧ s.psNow ≤ 1 ∧
         ∀ f ∈ [Fld.hubReadyConfig, .hubReadyMemory, .hubReadyCells, .hubReadyOptics], f = stageField stage ∨ s.flag f = true) ∧
      (let s := { psAt 3 3 0 [] with boot := ⟨false, true, false, false⟩ }; s.boot.running = true ∧ ¬ s.psNow ≤ 1) ∧
      (let s := { State.reset with boot := ⟨false, true, false, false⟩ }
       s.boot.running = true ∧ s.flag .hubReadyMemory = false ∧ Fld.hubReadyMemory ≠ stageField .cells) := by decide +kernel

/-- A module that has lost its configuration stage answers at BAR0 no more (R473). -/
theorem test_config_gates : State.reset.hostUp = false ∧ (up []).hostUp = true := by decide +kernel

theorem witness_TheLadderMovesAndTheModuleComesUp_supervisor :
    (let s := { psAt 0 0 1 [] with power := { PowerSt.empty with descent := true } }
     s.power.descent = true ∧ s.psNow = 0 ∧ s.power.wet = false) ∧ (psAt 1 0 0 []).power.descent = false ∧
      ({ psAt 0 0 1 [] with power := { PowerSt.empty with wet := true } } : State).power.wet = true ∧
      ShutdownCause.inputLow ≠ .temperature ∧ (psDark 4 4).power.input = false ∧ (psDark 4 4).island.powered = true ∧
      ({ psDark 4 4 with island := { IslandSt.start with powered := false } } : State).island.powered = false ∧
      (psDark 4 4).island.seq < 2 ^ 32 ∧ (psAt 0 0 0 []).power.input = true := by decide +kernel

/-- 105 °C on one die trips: the flag, and Slush as the floor of a protective descent (R502, R503). -/
theorem test_sensor_trips :
    let s := nextOf (.sensorSample 192 100 100 100 [80, 105]) (psAt 0 0 0 [])
    s.fld .pwrStatusThermalTrip = 1 ∧ s.fld .pwrStateProtective = 1 ∧ s.fld .pwrSenseTemperature = 105 ∧ s.fld .pwrStatusOverPower = 0 ∧
      s.targetRefused 0 = true := by decide +kernel

/-- The last of four stages sets ready (R473, R487). -/
theorem test_ready_sets :
    let s := { st [(.hubReadyConfig, [], 1), (.hubReadyMemory, [], 1), (.hubReadyOptics, [], 1)] with boot := ⟨false, true, false, false⟩ }
    (nextOf (.readySet .cells true []) s).ready = true ∧ (nextOf (.readySet .cells false []) s).fld .hubReadyFailStage = 3 := by decide +kernel

/-! The coherent mailbox. -/

/-- The mailbox on, with maps in force (line, kind, group), line 255, and its map. -/
def mboxAt (on : Bool) (maps : List (Nat × Nat × Nat)) (v : MboxLine) : State :=
  let m := ((maps.find? fun m => m.1 == 255).map (·.2)).getD (0, 0)
  { (up ([(.mboxCfgEnable, [], b2n on), (.mboxCfgBase, [], 5)] ++ maps.flatMap fun m =>
      [(Fld.mboxMapKind, [m.1], m.2.1), (.mboxMapGroup, [m.1], m.2.2)])).setLine 255
        { v with kind := m.1, group := m.2, addr := 5 * 16384 + 64 * 255 } with cacheOn := true }

theorem witness_MailboxLinesFollowTheirProtocol_writes :
    (up []).HostUp ∧ (mboxAt true [] MboxLine.empty).flag .mboxCfgEnable = true ∧
      (2 ^ 14 : Nat) / 2 ^ 14 % 2 ^ 34 ≠ (mboxAt true [] MboxLine.empty).fld .mboxCfgBase ∧
      (mboxAt false [] MboxLine.empty).flag .mboxCfgEnable = false ∧
      (let s := mboxAt true [(3, 1, 7)] MboxLine.empty
       ∃ k : Nat, k < 256 ∧ k ≠ 255 ∧ s.lineMap k = ((0x40000007#32).toNat / 2 ^ 30, (0x40000007#32).toNat % 2 ^ 8)) ∧
      (let s := mboxAt true [] MboxLine.empty
       (∀ k ∈ List.range 256, s.lineMap k ≠ (1, 7)) ∧ (1, 7) ≠ ((s.line 255).kind, (s.line 255).group) ∧ (s.line 255).state = .invalid ∧
         ¬ ((s.line 255).reading = true ∨ (s.line 255).evict ≠ none)) ∧
      (let s := mboxAt true [] { MboxLine.empty with reading := true }; (s.line 255).reading = true ∧ s.lineMap 255 ≠ (1, 7)) ∧
      (let s := mboxAt true [] { MboxLine.empty with state := .shared }
       (s.line 255).state ≠ .invalid ∧ (s.line 255).reading = false ∧ (s.line 255).evict = none) :=
  ⟨by decide +kernel, by decide +kernel, by decide +kernel, by decide +kernel, ⟨3, by decide +kernel⟩, by decide +kernel, by decide +kernel,
    by decide +kernel⟩

theorem witness_MailboxLinesFollowTheirProtocol_snoops :
    (State.reset.cachesLines = false) ∧
      (let s := mboxAt true [] { MboxLine.empty with reading := true }; s.cachesLines = true ∧ (s.line 255).reading = true ∧ (s.line 255).evict = none) ∧
      (∀ k ∈ [1, 2], ∀ x ∈ [LineState.invalid, .shared, .modified],
        let s := mboxAt true [(255, k, 0)] { MboxLine.empty with state := x, bytes := [1, 2] }
        s.cachesLines = true ∧ s.mboxOn = true ∧ (s.line 255).state = x ∧ (s.line 255).kind = k ∧ (s.line 255).evict = none ∧
          (s.line 255).reading = false) ∧
      (∀ x ∈ [LineState.invalid, .shared, .modified], let s := mboxAt true [] { MboxLine.empty with evict := some (x, [1]) }
        s.cachesLines = true ∧ (s.line 255).evict = some (x, [1])) := by decide +kernel

/-- Sixteen tails of zero that line 255 has seen, and the same with one raised. -/
def seenLine : MboxLine := { MboxLine.empty with reading := true, seen := List.replicate 16 0 }
def tailWords (k : Nat) : List (BitVec 32) := (List.replicate 16 0).set k 9

theorem witness_MailboxLinesFollowTheirProtocol_data :
    (let s := mboxAt true [(255, 1, 255)] seenLine
     s.cachesLines = true ∧ (s.line 255).reading = true ∧ (s.line 255).evict = none ∧ (s.line 255).held = [] ∧ s.mboxOn = true ∧
       (s.line 255).addr = s.lineAddr 255 ∧ s.lineMap 255 = ((s.line 255).kind, (s.line 255).group) ∧ (s.line 255).kind = 1 ∧
       (s.line 255).seen.length = 16 ∧ s.replaying = false ∧ s.recording = false ∧ s.inFlow = true ∧
       (∀ k ∈ [0, 15], let tails := (List.range 16).map fun j => ((tailWords k).getD j 0).toNat
         (s.line 255).seen.getD k 0 ≠ tails.getD k 0 ∧ ∀ j, j < 16 → j ≠ k → (s.line 255).seen.getD j 0 = tails.getD j 0)) ∧
      (let s := (mboxAt true [(255, 1, 255)] seenLine).setFld .mboxMapGroup 7 [255]; s.lineMap 255 ≠ ((s.line 255).kind, (s.line 255).group)) ∧
      (let s := mboxAt true [(255, 1, 255)] { seenLine with held := [.inv] }; (s.line 255).held = [.inv]) ∧
      (let s := mboxAt true [(255, 2, 0)] seenLine; (s.line 255).kind = 2 ∧ (s.line 255).reading = true ∧ (s.line 255).held = []) ∧
      (let s := { mboxAt true [(255, 1, 255)] seenLine with cacheOn := false }; s.cachesLines = false ∧ (s.line 255).reading = true) ∧
      (let s := mboxAt false [(255, 1, 255)] seenLine; s.cachesLines = true ∧ s.mboxOn = false ∧ (s.line 255).reading = true) ∧
      ((mboxAt true [] MboxLine.empty).line 255).reading = false := by decide +kernel

theorem witness_MailboxLinesFollowTheirProtocol_tails :
    (mboxAt true [(255, 1, 255)] seenLine).tailBad 4095 9 = true ∧
      (withRegs [(.queCfgEnable, [4095], 1), (.queCfgLog2Size, [4095], 4)] (mboxAt true [(255, 1, 255)] seenLine)).tailBad 4095 9 = false := by
  decide +kernel

theorem witness_MailboxLinesFollowTheirProtocol_ends :
    (∀ x ∈ [LineState.invalid, .modified], let s := mboxAt true [(255, 2, 0)] { MboxLine.empty with state := x }
     s.mboxOn = true ∧ (s.line 255).kind = 2 ∧ (s.line 255).evict = none ∧ (s.line 255).reading = false ∧ (s.line 255).state = x) ∧
      (mboxAt false [(255, 2, 0)] MboxLine.empty).mboxOn = false ∧
      (∀ k ∈ [1, 2], let s := mboxAt true [(255, k, 0)] { MboxLine.empty with evict := some (.shared, [7]) }
       (s.line 255).evict = some (.shared, [7]) ∧ (s.line 255).kind = k) := by decide +kernel

/-! Station time, media and the host link. -/

/-- Station time with STT_CFG in force and in the register, and what waits for a frame. -/
def timeAt (cfg : Nat) (l : List (Fld × List Nat × Nat)) (v : StationSt) : State :=
  { (up l).setReg .sttCfg (BitVec.ofNat 64 cfg) with station := { v with cfg := BitVec.ofNat 64 cfg } }

theorem witness_TimeMediaAndHostLinkMove_frames :
    (psAt 3 3 0 []).stationOn = false ∧
      (∀ step ∈ [false, true], let s := timeAt 1124 [] { StationSt.empty with step := step }
       s.stationOn = true ∧ s.station.exposure = false ∧ s.station.step = step ∧ getBits (s.reg .sttCfg) 31 30 = s.station.source) ∧
      (let s := (timeAt 1124 [] StationSt.empty).setReg .sttCfg (BitVec.ofNat 64 (2 ^ 30))
       s.stationOn = true ∧ s.station.exposure = false ∧ getBits (s.reg .sttCfg) 31 30 ≠ s.station.source) ∧
      (∀ ticks ∈ [399, 400], let s := timeAt (2 ^ 29) [(.sttVlineMinGap, [], 1)] { StationSt.empty with ticks := ticks }
        s.stationOn = true ∧ s.station.exposure = true ∧ s.station.edge = none ∧ (s.station.ticks < 400 * s.fld .sttVlineMinGap ↔ ticks = 399)) ∧
      (∀ k ∈ [1, 2, 8], let s := timeAt (2 ^ 29) [] { StationSt.empty with edge := some k, phase := 4000000 }
        s.stationOn = true ∧ s.station.edge = some k ∧ s.pending = [] ∧ s.flag .sttStatusSlewing = false ∧ 4000000 ≤ s.station.phase ∧
          getBits (s.reg .sttCfg) 31 30 = s.station.source ∧ s.station.step = false ∧ s.ready = true) := by decide +kernel

/-- Tri-level sync counts frames from its first lock (R482). -/
theorem witness_TimeMediaAndHostLinkMove_count :
    (∀ c ∈ [false, true], let s := timeAt (2 ^ 31) [(.sttStatusLock, [], 1)] { StationSt.empty with counted := c }
      s.fld .sttStatusLock = 1 ∧ s.station.source = 2 ∧ s.station.counted = c) := by decide +kernel

theorem witness_TimeMediaAndHostLinkMove_lock :
    (∀ v ∈ [0, 1, 2, 3], (up [(.sttStatusLock, [], v)]).fld .sttStatusLock = v) ∧ (up []).HostUp ∧ (timeAt 0 [] StationSt.empty).station.source ≠ 1 ∧
      ∀ r ∈ [0, 1], ∀ m ∈ [none, some (3, 7), some (3, 9)],
        let s := timeAt (2 ^ 30) [(.hubReadyReady, [], r), (.lasStatusState, [15], 2)]
          { StationSt.empty with master := m, rate := BitVec.ofNat 64 (50 * 2 ^ 12 + 1), twoStep := some (5, 1), sync := some (5, 3), request := some (7, -4) }
        s.station.source = 1 ∧ s.mediaLink 0 = true ∧ 0 = getBits s.station.cfg 28 27 ∧ (0#7).toNat = getBits s.station.cfg 26 20 ∧
          s.station.master = m ∧ s.station.twoStep = some ((5#16).toNat, 1) ∧ s.station.sync = some (5, 3) ∧
          s.station.request = some ((7#16).toNat, -4) ∧ s.ready = (r == 1) ∧ 0 < s.station.num ∧ 0 < s.station.den ∧
          (s.station.master.map (·.2) = some (9#64).toNat ↔ m = some (3, 9)) := by decide +kernel

/-- A stream on a media port with light. -/
def mediaAt (l : List (Fld × List Nat × Nat)) (n : Nat) (v : MediaSt) : State := (up ((.lasStatusState, [15], 2) :: l)).setStream n v

/-- The size and the format of a stream are left open (R478): a packet of two audio samples of one channel within them fills its plane. -/
theorem witness_TimeMediaAndHostLinkMove_packets (h : Config.streamSize 63 = (2, 4)) (f : Config.streamFormat 63 = 3)
    (c : Config.streamChannels 63 = 1) (m : Config.streamMerged 63 = true) :
    let p : List Byte := [1, 2, 3, 4, 5, 6]
    (1 < (Config.streamSize 63).1 ∧ 2 + packetLen 63 p ≤ (Config.streamSize 63).2 ∧ ¬ 3 + packetLen 63 p ≤ (Config.streamSize 63).2) ∧
      (let s := mediaAt [] 63 { MediaSt.empty with cur := some hs, seen := [4] }
       s.mediaLink 0 = true ∧ s.ready = true ∧ (Config.streamMerged 63 = true ∧ (4#32).toNat ∈ (s.stream 63).seen) ∧
         (9#32).toNat ∉ (s.stream 63).seen ∧ (s.stream 63).cur = some hs) ∧ ((mediaAt [] 63 MediaSt.empty).stream 63).cur = none ∧
      (let s := mediaAt [(.hubReadyReady, [], 0)] 63 MediaSt.empty; s.mediaLink 3 = true ∧ s.ready = false) ∧ (psAt 2 2 0 []).mediaLink 0 = false := by
  have e : packetLen 63 [1, 2, 3, 4, 5, 6] = 2 := by
    show (if Config.streamFormat 63 ≤ 2 then _ else if Config.streamFormat 63 = 3 then 6 / (3 * Config.streamChannels 63) else _) = 2
    rw [f, c]
    decide
  dsimp only
  rw [h, e]
  exact ⟨by decide, ⟨by decide +kernel, by decide +kernel, ⟨m, by decide +kernel⟩, by decide +kernel, by decide +kernel⟩, by decide +kernel,
    by decide +kernel, by decide +kernel⟩

/-- The windows of a context are left open (R480): a packet within one is taken. -/
theorem witness_TimeMediaAndHostLinkMove_rtp (hu : 0 < Config.ingressUnits 63) (hw : 6 ≤ ingressSize 63 1 0) :
    let p : List Byte := [1, 0, 0, 0, 0, 0, 0, 0, 4, 0, 0, 0, 7, 7]
    (up []).ready = true ∧ 12 ≤ p.length ∧ ¬ 12 ≤ (p.take 11).length ∧
      (up []).packetOk 63 (leNat (p.take 4)) (leNat ((p.drop 4).take 2)) (leNat ((p.drop 8).take 4)) (p.drop 12).length = true := by
  refine ⟨by decide +kernel, by decide, by decide, ?_⟩
  simp only [State.packetOk, Bool.and_eq_true, decide_eq_true_eq]
  exact ⟨⟨⟨by decide +kernel, by decide +kernel⟩, hu⟩, hw⟩

theorem witness_TimeMediaAndHostLinkMove_streams :
    (up []).HostUp ∧ (0x80000000#64).getLsbD 31 = true ∧ ((mediaAt [] 127 MediaSt.empty).stream 127).cur = none ∧
      ((mediaAt [] 127 { MediaSt.empty with cur := some hs }).stream 127).cur = some hs ∧
      (∀ v ∈ [{ MediaSt.empty with committed := some hs }, { MediaSt.empty with latchAt := some (3, 0) }, { MediaSt.empty with latchAt := some (0, 0) }],
        let s := mediaAt [] 127 v
        s.latchNow 127 = true ∧ s.latchedNow 127 = (v.latchAt == some (0, 0)) ∧
          (v.latchAt.map (·.1) ≠ some (s.fld .sttPositionFrame) ↔ v.latchAt ≠ some (0, 0))) ∧
      (mediaAt [(.strmLatchLine, [127], 1)] 127 MediaSt.empty).latchNow 127 = false ∧
      (∀ p ∈ [0, 3], (mediaAt [] 127 { MediaSt.empty with cur := some hs }).mediaUp p = true) ∧ State.reset.mediaUp 3 = false := by decide +kernel

/-- Which ports a stream leaves on and whether it is a house stream are left open (R477, R480). -/
theorem witness_TimeMediaAndHostLinkMove_send (h : Config.streamPorts 127 = [3]) :
    let s := (mediaAt [] 127 { MediaSt.empty with cur := some hs }).setEgr 63 { EgressSt.empty with cur := some ⟨hs, 20, 0, true⟩ }
    ((Config.streamPorts 127).map (· % 4)).filter s.mediaUp ≠ [] ∧ (s.stream 127).cur = some hs ∧ (s.egr 63).cur = some ⟨hs, 20, 0, true⟩ := by
  dsimp only
  rw [h]
  exact ⟨by decide +kernel, by decide +kernel, by decide +kernel⟩

/-- Context 63 with egress state and host pages. -/
def egrAt (tail : Nat) (link : Bool) (v : EgressSt) : State :=
  { (up [(.outTailTail, [63], tail), (.outCfgLog2Size, [63], 4), (.outRingBase, [63], 1), (.outRecBase, [63], 2)]).setEgr 63 v with linkUp := link }

theorem witness_TimeMediaAndHostLinkMove_pages :
    (let s := egrAt 2 true { EgressSt.empty with pages := [⟨0, 64, 3, true⟩] }
     s.linkUp = true ∧ s.hostPageFree 63 = true ∧ (s.egr 63).pages = ⟨0, 64, 3, true⟩ :: [] ∧ (s.egr 63).cur = none ∧ (s.egr 63).due = 0) ∧
      (let s := egrAt 0 true { EgressSt.empty with pages := [⟨0, 64, 3, true⟩] }; (s.egr 63).pages ≠ [] ∧ s.hostPageFree 63 = false) ∧
      (egrAt 0 true EgressSt.empty).egr 63 = EgressSt.empty ∧
      (let s := egrAt 2 false { EgressSt.empty with pages := [⟨0, 64, 3, true⟩], cut := true }
       s.linkUp = false ∧ (s.egr 63).cut = true ∧ (s.egr 63).pages = ⟨0, 64, 3, true⟩ :: [] ∧
         ∀ k ∈ List.range 64, k ≠ 63 → (s.egr k).cut = false) ∧
      (let s := egrAt 0 false EgressSt.empty; s.linkUp = false ∧ ∀ k ∈ List.range 64, (s.egr k).cut = false) := by decide +kernel

/-- Line 562 of 1,125 at 25 frames a second starts at ⌈562 × 400,000,000 / (25 × 1,125)⌉ TCLK cycles (R482). -/
theorem test_line_start :
    let v := { StationSt.empty with cfg := 1124, rate := BitVec.ofNat 64 (25 * 2 ^ 12 + 1) }
    v.lineStart 562 = 7992889 ∧ v.lineAt 7992889 = 562 ∧ v.lineAt 7992888 = 561 := by decide +kernel

/-! The stash and the island. -/

/-- A bank of 2,000 units and refused sessions. -/
def bankAt (mv : Nat) (w : List (Nat × StashWrite)) (l : List (Fld × List Nat × Nat)) : State :=
  { st ((.pwrHoldupCcal, [], 2000) :: l) with
    power := { PowerSt.empty with bank := mv }, stash := { StashSt.start with waiting := w } }

theorem witness_StashAndIslandKeepTheirRecords_stash :
    (let s := bankAt 24000 [(1, .pages 0 [5])] [(.lasStatusState, [15], 2), (.lasSerialSerial, [15], 77), (.lasWearWear, [15], 3)]
     s.power.input = true ∧ 600000000000 + 20000000000 * 1 ≤ bankCharge (s.fld .pwrHoldupCcal) 24000 ∧
       ¬ 600000000000 + 20000000000 * 256 ≤ bankCharge (s.fld .pwrHoldupCcal) 24000 ∧
       ¬ 600000000000 + 20000000000 * 1 ≤ bankCharge (s.fld .pwrHoldupCcal) 16000 ∧
       s.stash.waiting = (1, .pages 0 [5]) :: [] ∧ s.lasState 15 ≠ 0 ∧ ∀ k ∈ List.range 15, s.lasState k = 0) ∧
      (bankAt 16000 [] []).stash.waiting = [] ∧ (psDark 4 4).power.input = false := by decide +kernel

/-- The voltage measured for the wear session is left open: at 24 V the bank holds the energy of a session. -/
theorem witness_StashAndIslandKeepTheirRecords_wear (h : (Config.freeValue 0).toNat = 24000) :
    let s := bankAt 24000 [] [(.lasStatusState, [15], 2), (.lasSerialSerial, [15], 77), (.lasWearWear, [15], 3)]
    (Config.freeValue s.draws).toNat = 24000 ∧ s.power.input = true ∧
      600000000000 + 20000000000 * 1 ≤ bankCharge (s.fld .pwrHoldupCcal) (Config.freeValue s.draws).toNat := by
  have d : (bankAt 24000 [] [(.lasStatusState, [15], 2), (.lasSerialSerial, [15], 77), (.lasWearWear, [15], 3)]).draws = 0 := by decide +kernel
  dsimp only
  rw [d, h]
  decide +kernel

theorem witness_StashAndIslandKeepTheirRecords_island :
    (∀ sealed ∈ [false, true], let s := { State.reset with island := { IslandSt.start with sealOpen := sealed } }
      s.island.powered = true ∧ s.island.seq < 2 ^ 32 ∧ s.island.sealOpen = sealed ∧ s.island.message = none) ∧
      ({ State.reset with island := { IslandSt.start with powered := false } } : State).island.powered = false ∧
      (st [(.pwrHoldupEnergy, [], 40)]).holdupLine = true ∧ (st [(.pwrHoldupEnergy, [], 39)]).holdupLine = false ∧
      (st [(.thawStatRunning, [15], 1), (.thawCfgTask, [15], 2)]).taskRuns 2 = true ∧
      let m := BitVec.ofNat 32 (0x90005 + 2 ^ 24 * crc8 (leBytes 3 0x90005))
      let s := { State.reset with island := { IslandSt.start with message := some m } }
      s.island.message = some m ∧ s.taskRuns 2 = false ∧ crc8 (leBytes 3 (m ^^^ 0#32).toNat) = (m ^^^ 0#32).toNat / 2 ^ 24 ∧
        crc8 (leBytes 3 (m ^^^ 1#32).toNat) ≠ (m ^^^ 1#32).toNat / 2 ^ 24 := by decide +kernel

/-- E_u of 20 mF at 24 V is 3.2 J, which is 320 units of 0.01 J (R506, R520); a session of one page needs 3.1 J (R507). -/
theorem test_bank :
    let s := nextOf (.stashSession 24000 1 0 [9]) (bankAt 0 [] [])
    s.fld .pwrHoldupEnergy = 320 ∧ tabGet memReset s.stash.bytes 0 = 9 ∧ s.fld .pwrCountStashRefused = 0 := by decide +kernel

/-- Energy goes to the tag in force; a tag received takes effect with the next interval (R510, R511). -/
theorem test_meter :
    let s := { State.reset with island := { IslandSt.start with tag := some 3, next := some 5 } }
    let t := nextOf (.meterInterval 7) s
    tabGet accReset t.island.acc 3 = 7 ∧ tabGet accReset t.island.acc 5 = 0 ∧ t.island.tag = some 5 := by decide +kernel

/-! Ill-formed commands, one for each check. -/

theorem ill_formed_is_refused :
    ∀ i ∈ [Instr.registerWrite 4 true 0 0 0, .registerWrite 2 false 0 0 0, .readClear 2 false 0, .split64Access 2 false 0,
      .reservedAccess 4 true false 0, .misalignedAccess 4 4 false, .misalignedAccess 3 0 false, .bar2Access (2 ^ 36 - 1) 2 none,
      .bar2Access 0 0 none, .bar2Access (2 ^ 36 - 1) 0 (some [1, 2]), .ringCfgWrite .bce 8 0, .ringFlush .bce 8, .ringResume .mot 8,
      .shelfAttached 0 4097 0, .segmentComplete 0 0 ⟨0, []⟩, .mailboxReadData 0 [0], .thawWindowOpen 0 ⟨[⟨16, [], false, 0⟩], 0, [], none⟩,
      .thawWindowForced 0 ⟨[], 0, [36], none⟩, .stashSession 0 0 0 [], .stashSession 0 257 0 [], .stashSession 0 1 0 [],
      .islandFirmwareUpdate [0] [] true, .spareSwitch ⟨0, 0⟩ 7 0],
      i.wf = false := by decide +kernel

end Sys2Proof.Tests.Slice0
end

/-! The reserved-access counter (R16, R17, R564): what one counted access, and one more after it, does to the registers. -/

section
namespace Sys2Proof.Machine

/-- A register of 64 bits holds its whole value, of which its field [63:0] is all. -/
theorem State.fld_setReg_whole (s : State) (r : RegId) (v : Nat) (ix : List Nat) (hv : v < 2 ^ 64) :
    (s.setReg r (BitVec.ofNat 64 v) ix).fld ⟨r, 63, 0⟩ ix = v := by
  rw [State.fld_setReg_same s ⟨r, 63, 0⟩]
  simpa [getBits, bitsOf] using hv

/-- Replacing a register changes no bit outside it. -/
theorem regsBut_setReg (s : State) (r : RegId) (v : DWord) (ix : List Nat) : RegsBut [(⟨r, 63, 0⟩, ix)] s (s.setReg r v ix) := by
  intro a i hx
  by_cases ha : a = r.addr ix
  · have hi : i < 0 ∨ 63 < i := hx (⟨r, 63, 0⟩, ix) List.mem_cons_self ha.symm
    have hi : 64 ≤ i := by omega
    simp [State.regBit, BitVec.getLsbD_of_ge _ i hi]
  · simp [State.regBit, State.setReg, tabGet_tabSet_ne _ _ _ ha]

/-- What is said of the registers depends on the registers alone. -/
theorem RegsSet.of_regs {l : List (Fld × List Nat × Nat)} {s s' t t' : State} (h : RegsSet l s t) (hs : s'.regs = s.regs)
    (ht : t'.regs = t.regs) : RegsSet l s' t' := by
  simpa only [RegsSet, RegsBut, State.regBit, State.fld, State.reg, hs, ht] using h

/-- Raising a saturating count in two steps raises it by the sum. -/
theorem satAdd_satAdd (w v m n : Nat) : satAdd w (satAdd w v m) n = satAdd w v (m + n) := by
  unfold satAdd
  generalize 2 ^ w - 1 = max
  simp only [Nat.min_def]
  split <;> split <;> split <;> omega

/-- Two changes of the registers alone are one. -/
theorem regsOnly_trans {s t u : State} (h : t = { s with regs := t.regs }) (h' : u = { t with regs := u.regs }) :
    u = { s with regs := u.regs } :=
  h'.trans (by rw [h])

/-- A counting field is one of the registers. -/
theorem State.count_frame (s : State) (f : Fld) (inc : Nat) (ix : List Nat) :
    s.count f inc ix = { s with regs := (s.count f inc ix).regs } := by
  unfold State.count
  split <;> rfl

/-- Counting an access touches the registers alone. -/
theorem State.countReserved_frame (s : State) (write misaligned : Bool) (off : Nat) :
    s.countReserved write misaligned off = { s with regs := (s.countReserved write misaligned off).regs } :=
  regsOnly_trans (s.count_frame .rsvCountCount 1 []) rfl

/-- One counted access raises the count by one and is the last one recorded (R16, R17, R564). -/
theorem regsSet_countReserved (s : State) (write misaligned : Bool) {off : Nat} (ho : off < 2 ^ 28) :
    RegsSet (counted s 1 write misaligned false off 0) s (s.countReserved write misaligned off) := by
  have hlast : b2n write * 2 ^ 31 + b2n misaligned * 2 ^ 30 + off < 2 ^ 64 := by
    have hb : ∀ b, b2n b ≤ 1 := by decide
    have := hb write
    have := hb misaligned
    omega
  unfold State.countReserved
  rw [Nat.mod_eq_of_lt ho]
  constructor
  · simp only [counted, List.forall_mem_cons]
    refine ⟨?_, ?_, ?_, by simp⟩
    · rw [State.fld_setReg_ne _ _ _ _ _ _ (by decide), State.fld_setReg_ne _ _ _ _ _ _ (by decide),
        State.fld_count_same _ _ _ _ (by decide) (by decide)]
      rfl
    · rw [State.fld_setReg_ne _ _ _ _ _ _ (by decide), State.fld_setReg_whole _ _ _ _ hlast]
      have hbar2 : b2n false = 0 := rfl
      rw [hbar2, Nat.zero_mul, Nat.add_zero]
    · exact State.fld_setReg_whole _ .rsvAddr 0 [] (by decide)
  · refine (((regsBut_count s .rsvCountCount 1 [] (by decide) (by decide)).mono ?_).trans
      ((regsBut_setReg _ .rsvLast _ []).mono ?_)).trans ((regsBut_setReg _ .rsvAddr _ []).mono ?_) <;>
    simp [counted]

/-- Nothing but the registers of a counted access changes with it. -/
theorem setsOnly_countReserved (s : State) (write misaligned : Bool) {off : Nat} (ho : off < 2 ^ 28) :
    SetsOnly (counted s 1 write misaligned false off 0) s (s.countReserved write misaligned off) :=
  ⟨s.countReserved_frame write misaligned off, regsSet_countReserved s write misaligned ho⟩

/-- A second counted access adds one to the count, and takes the place of the first in the record (R13, R564). -/
theorem setsOnly_countReserved_countReserved (s : State) (write misaligned : Bool) {off off' : Nat} (ho : off < 2 ^ 28)
    (ho' : off' < 2 ^ 28) :
    SetsOnly (counted s 2 write misaligned false off' 0) s
      ((s.countReserved write misaligned off).countReserved write misaligned off') := by
  obtain ⟨hset, hbut⟩ := regsSet_countReserved s write misaligned ho
  obtain ⟨hset', hbut'⟩ := regsSet_countReserved (s.countReserved write misaligned off) write misaligned ho'
  refine ⟨regsOnly_trans (s.countReserved_frame ..) (State.countReserved_frame ..), ?_, ?_⟩
  · simp only [counted, List.forall_mem_cons] at hset hset' ⊢
    obtain ⟨hcount, -⟩ := hset
    obtain ⟨hcount', hrec⟩ := hset'
    refine ⟨?_, hrec⟩
    rw [hcount', hcount, satAdd_satAdd]
  · simp only [counted, List.map_cons, List.map_nil] at hbut hbut' ⊢
    exact hbut.trans hbut'

end Sys2Proof.Machine
end

/-! Words of BAR0 on the bus (R13, R16, R17): what an access to reserved space and a malformed access do. -/

section
namespace Sys2Proof.Machine

/-- An access of another width or alignment than R13 gives is not a good one (R17). -/
theorem goodAccess_eq_false {off bytes : Nat} (h : (bytes ≠ 4 ∧ bytes ≠ 8) ∨ off % bytes ≠ 0) : goodAccess off bytes = false := by
  simp only [goodAccess, Bool.and_eq_false_iff, Bool.or_eq_false_iff, beq_eq_false_iff_ne]
  exact h

theorem State.barRead_word {s : State} {off : Nat} (hup : s.hostUp = true) (ha : off % 4 = 0) (late : DWord) :
    s.barRead off 4 late = (s.read32 off late).2.answerRead (leBytes 4 (s.read32 off late).1.toNat) := by
  simp [State.barRead, goodAccess, hup, ha]

theorem State.barRead_wide {s : State} {off : Nat} (hup : s.hostUp = true) (ha : off % 8 = 0) (late : DWord) :
    s.barRead off 8 late = (s.read64 off late).2.answerRead (leBytes 8 (s.read64 off late).1.toNat) := by
  simp [State.barRead, goodAccess, hup, ha]

theorem State.barWrite_word {s : State} {off : Nat} (hup : s.hostUp = true) (ha : off % 4 = 0) (v hwSet hwClear : DWord) :
    s.barWrite off 4 v hwSet hwClear = s.write32 off (lowOf v) hwSet hwClear := by
  simp [State.barWrite, goodAccess, hup, ha]

theorem State.barWrite_wide {s : State} {off : Nat} (hup : s.hostUp = true) (ha : off % 8 = 0) (v hwSet hwClear : DWord) :
    s.barWrite off 8 v hwSet hwClear = s.write64 off v hwSet hwClear := by
  simp [State.barWrite, goodAccess, hup, ha]

/-- A read of a reserved word is zero and is counted, and the latch stays (R16; log entry 57). -/
theorem State.read32_reserved {s : State} {off : Nat} (hr : barWord off = .reserved) (late : DWord) :
    s.read32 off late = (0, s.countReserved false false off) := by
  simp [State.read32, hr]

/-- A write of a reserved word is discarded and counted (R16). -/
theorem State.write32_reserved {s : State} {off : Nat} (hr : barWord off = .reserved) (hh : s.bus.held = none) (v : BitVec 32)
    (hwSet hwClear : DWord) : s.write32 off v hwSet hwClear = s.countReserved true false off := by
  simp [State.write32, hr, State.dropHeld_none hh]

/-- The bus is none of the registers. -/
theorem bus_of_regsOnly {s t : State} (h : t = { s with regs := t.regs }) : t.bus = s.bus := by
  rw [h]

@[simp] theorem State.countReserved_bus (s : State) (write misaligned : Bool) (off : Nat) :
    (s.countReserved write misaligned off).bus = s.bus :=
  bus_of_regsOnly (s.countReserved_frame write misaligned off)

/-- A 64-bit read of two reserved words is two reads, and its two halves are zero (R13, R16). -/
theorem State.read64_reserved {s : State} {off : Nat} (hr : barWord off = .reserved) (hr' : barWord (off + 4) = .reserved)
    (late : DWord) :
    s.read64 off late =
      (0, (((s.setLatch none).countReserved false false off).countReserved false false (off + 4)).setLatch none) := by
  simp only [State.read64, hr, State.read32_reserved hr, State.read32_reserved hr']
  rfl

/-- A 64-bit write of two reserved words is two writes (R13, R16). -/
theorem State.write64_reserved {s : State} {off : Nat} (hr : barWord off = .reserved) (hr' : barWord (off + 4) = .reserved)
    (hh : s.bus.held = none) (v hwSet hwClear : DWord) :
    s.write64 off v hwSet hwClear = (s.countReserved true false off).countReserved true false (off + 4) := by
  have hh' : (s.countReserved true false off).bus.held = none := by simpa using hh
  simp only [State.write64, hr, State.dropHeld_none hh, State.write32_reserved hr hh, State.write32_reserved hr' hh']

/-- A malformed access reaches `badRead` and `badWrite` (R17). -/
theorem exec_misalignedAccess {s : State} {off : BitVec 28} {bytes : Nat} (hup : s.hostUp = true)
    (hbad : (bytes ≠ 4 ∧ bytes ≠ 8) ∨ off.toNat % bytes ≠ 0) (write : Bool) :
    exec (.misalignedAccess off bytes write) s = .next (if write then s.badWrite off.toNat else s.badRead off.toNat bytes) := by
  have hexec : exec (.misalignedAccess off bytes write) s = execMisalignedAccess off bytes write s := rfl
  simp [hexec, execMisalignedAccess, State.barRead, State.barWrite, goodAccess_eq_false hbad, hup]

theorem length_leBytes (n v : Nat) : (leBytes n v).length = n := by
  induction n generalizing v with
  | zero => rfl
  | succ n ih => rw [leBytes, List.length_cons, ih]

/-- The bytes of zero. -/
theorem leBytes_zero (n : Nat) : leBytes n 0 = List.replicate n 0 := by
  induction n with
  | zero => rfl
  | succ n ih =>
    rw [leBytes, Nat.zero_div, ih]
    rfl

/-- A 32-bit read of reserved space (R16). -/
theorem exec_reservedAccess_readWord {s : State} {off : BitVec 28} (hup : s.hostUp = true) (ha : off.toNat % 4 = 0)
    (hr : barWord off.toNat = .reserved) (val : BitVec 64) :
    exec (.reservedAccess off false false val) s = .next ((s.countReserved false false off.toNat).answerRead (List.replicate 4 0)) := by
  change Host.Outcome.next (s.barRead off.toNat 4 0) = _
  simp only [State.barRead_word hup ha, State.read32_reserved hr, BitVec.ofNat_eq_ofNat, BitVec.toNat_zero, leBytes_zero]

/-- A 32-bit write of reserved space (R16). -/
theorem exec_reservedAccess_writeWord {s : State} {off : BitVec 28} (hup : s.hostUp = true) (hh : s.bus.held = none)
    (ha : off.toNat % 4 = 0) (hr : barWord off.toNat = .reserved) (val : BitVec 64) :
    exec (.reservedAccess off false true val) s = .next (s.countReserved true false off.toNat) := by
  change Host.Outcome.next (s.barWrite off.toNat 4 val 0 0) = _
  rw [State.barWrite_word hup ha, State.write32_reserved hr hh]

/-- A 64-bit read of two reserved words (R13, R16). -/
theorem exec_reservedAccess_readWide {s : State} {off : BitVec 28} (hup : s.hostUp = true) (ha : off.toNat % 8 = 0)
    (hr : barWord off.toNat = .reserved) (hr' : barWord (off.toNat + 4) = .reserved) (val : BitVec 64) :
    exec (.reservedAccess off true false val) s =
      .next (((((s.setLatch none).countReserved false false off.toNat).countReserved false false (off.toNat + 4)).setLatch
        none).answerRead (List.replicate 8 0)) := by
  change Host.Outcome.next (s.barRead off.toNat 8 0) = _
  simp only [State.barRead_wide hup ha, State.read64_reserved hr hr', BitVec.ofNat_eq_ofNat, BitVec.toNat_zero, leBytes_zero]

/-- A 64-bit write of two reserved words (R13, R16). -/
theorem exec_reservedAccess_writeWide {s : State} {off : BitVec 28} (hup : s.hostUp = true) (hh : s.bus.held = none)
    (ha : off.toNat % 8 = 0) (hr : barWord off.toNat = .reserved) (hr' : barWord (off.toNat + 4) = .reserved) (val : BitVec 64) :
    exec (.reservedAccess off true true val) s =
      .next ((s.countReserved true false off.toNat).countReserved true false (off.toNat + 4)) := by
  change Host.Outcome.next (s.barWrite off.toNat 8 val 0 0) = _
  rw [State.barWrite_wide hup ha, State.write64_reserved hr hr' hh]

/-- Answering a read after a change of the registers alone leaves all but the registers and the answer. -/
theorem State.answerRead_of_regsOnly {s t : State} (h : t = { s with regs := t.regs }) (bs : List Byte) :
    t.answerRead bs = { s with regs := (t.answerRead bs).regs, bus := { s.bus with lastRead := bs } } := by
  have hbus : t.bus = s.bus := bus_of_regsOnly h
  unfold State.answerRead
  rw [hbus, h]

/-- So it does between two changes of the latch, which lies on the bus. -/
theorem State.setLatch_answerRead_of_regsOnly {s t : State} {l : Option (Nat × BitVec 32)}
    (h : t = { s.setLatch l with regs := t.regs }) (l' : Option (Nat × BitVec 32)) (bs : List Byte) :
    (t.setLatch l').answerRead bs =
      { s with regs := ((t.setLatch l').answerRead bs).regs, bus := ((t.setLatch l').answerRead bs).bus } := by
  rw [h]
  rfl

/-- Outside the MSI-X structures a malformed read answers ones and is counted (R17). -/
theorem State.badRead_outside {off : Nat} (h : inMsix off = false) (s : State) (bytes : Nat) :
    s.badRead off bytes = (s.answerRead (List.replicate bytes 0xFF)).countReserved false true off := by
  simp [State.badRead, h]

/-- Inside them it answers a free value (R578; log entry 58). -/
theorem State.badRead_msix {off : Nat} (h : inMsix off = true) (s : State) (bytes : Nat) :
    s.badRead off bytes = s.draw.2.answerRead (leBytes bytes s.draw.1.toNat) := by
  simp [State.badRead, h]

/-- Outside the MSI-X structures a malformed write is discarded and counted (R17). -/
theorem State.badWrite_outside {off : Nat} (h : inMsix off = false) {s : State} (hh : s.bus.held = none) :
    s.badWrite off = s.countReserved true true off := by
  simp [State.badWrite, h, State.dropHeld_none hh]

/-- Inside them it does nothing (R578; log entry 58). -/
theorem State.badWrite_msix {off : Nat} (h : inMsix off = true) {s : State} (hh : s.bus.held = none) : s.badWrite off = s := by
  simp [State.badWrite, h, State.dropHeld_none hh]

end Sys2Proof.Machine

open Sys2Proof Sys2Proof.Machine

/-- Settles O10: each reserved word of an access answers zero or discards what is written, and is counted once. -/
theorem reservedSpaceReadsZeroAndIsCounted : Obligations.ReservedSpaceReadsZeroAndIsCounted := by
  intro off val s hup hheld halign hres
  have hoff : off.toNat < 2 ^ 28 := off.isLt
  refine ⟨?readWord, ?writeWord, fun halign8 hres' => ?writeWide, fun halign8 hres' => ?readWide⟩
  case readWord =>
    exact ⟨_, exec_reservedAccess_readWord hup halign hres val, State.answerRead_of_regsOnly (s.countReserved_frame ..) _,
      (regsSet_countReserved s false false hoff).of_regs rfl rfl⟩
  case writeWord =>
    exact ⟨_, exec_reservedAccess_writeWord hup hheld halign hres val, setsOnly_countReserved s true false hoff⟩
  case writeWide =>
    exact ⟨_, exec_reservedAccess_writeWide hup hheld halign8 hres hres' val,
      setsOnly_countReserved_countReserved s true false hoff (by omega)⟩
  case readWide =>
    obtain ⟨hframe, hregs⟩ := setsOnly_countReserved_countReserved (s.setLatch none) false false hoff
      (show off.toNat + 4 < 2 ^ 28 by omega)
    exact ⟨_, exec_reservedAccess_readWide hup halign8 hres hres' val, State.setLatch_answerRead_of_regsOnly hframe none _, rfl,
      hregs.of_regs rfl rfl⟩

/-- Settles O11: outside the MSI-X structures the access is answered in ones or discarded, and counted; inside them it is neither. -/
theorem misalignedAccessesReadOnesAndAreCounted : Obligations.MisalignedAccessesReadOnesAndAreCounted := by
  intro off bytes s hup hheld hbad
  have hoff : off.toNat < 2 ^ 28 := off.isLt
  have hread := exec_misalignedAccess hup hbad false
  have hwrite := exec_misalignedAccess hup hbad true
  refine ⟨fun hout => ?outside, fun hin => ?inside⟩
  case outside =>
    rw [State.badRead_outside hout] at hread
    rw [State.badWrite_outside hout hheld] at hwrite
    obtain ⟨hframe, hregs⟩ := setsOnly_countReserved (s.answerRead (List.replicate bytes 0xFF)) false true hoff
    exact ⟨⟨_, hread, hframe, hregs.of_regs rfl rfl⟩, _, hwrite, setsOnly_countReserved s true true hoff⟩
  case inside =>
    rw [State.badRead_msix hin] at hread
    rw [State.badWrite_msix hin hheld] at hwrite
    exact ⟨⟨_, hread, rfl, length_leBytes bytes _⟩, hwrite⟩

end
